-- ==== Sys2Proof/Word.lean ====
section
/-! DEFINITION. The word types of the Gotus 8400 and the sparse table used throughout the state. -/

namespace Sys2Proof

/-- A byte as registers, records and memory hold it (R7). -/
abbrev Byte := BitVec 8

/-- A 16-bit, 32-bit and 64-bit field of a register or record. -/
abbrev Half16 := BitVec 16

/-- A 32-bit field. -/
abbrev Word32 := BitVec 32

/-- A 64-bit field. -/
abbrev Word64 := BitVec 64

/-- An identity word of one half (R424). -/
abbrev Word128 := BitVec 128

/-- A sparse table: values by number, keys strictly ascending, one entry for each key. -/
abbrev Tab (α : Type) := List (Nat × α)

end Sys2Proof
end

