-- ==== Sys2Proof/Syntax.lean ====
section
/-! DEFINITION. The commands of the Gotus 8400, one constructor of `Instr` for each row of spec/opcode_table.json, and the
operands they carry. A command from a port carries the raw block, record or packet that crosses the port; an event of the
device's own carries the names of the task, bag, row, cluster or port it is about, and whatever the surroundings or the
device's own unpublished choice fixes. -/

namespace Sys2Proof

/-- A mailbox command as the driver issues it (R355, R356): the issuer context, the tag, the argument block, the bytes of
host memory that the host wrote before GO, and whether the device takes more than 100 µs over it where work remains
(R358). The row fixes OPCODE and the operation fields; the operand's bits there are not read. `users` is the USERS mask of a
SHARD_MAP_LOAD (R270), for which the argument block has no field (log entry 17). -/
structure MbxCall where
  issuer : Nat
  tag : Word32
  args : BitVec 2048
  host : List Host.Cell
  defer : Bool
  users : BitVec 16 := 0
  deriving DecidableEq, Repr

/-- The straps sampled at the COLD_RESET_N edge (R432). -/
structure Straps where
  chainRoot : Bool
  bootSrc : Nat
  deriving DecidableEq, Repr

/-- What the surroundings and the parts under test answer while a start-up step runs (R515). Only the fields that the
step reads matter. `copies` are the three identity words (lower, upper) that the halves receive (R425); `failedWires` are
channel, direction and wire of each bond wire that the test fails (R465); the sig fields say whether the hashes and the
signature of the image in slot 0, slot 1 and the recovery region verify (R497); `trims` are the measured calibration
entries (R495); `sfdp8d` says whether the flash's SFDP table advertises 8D-8D-8D (R434); link lists give unit and lanes of
each link that trained. -/
structure BootObs where
  fusesOk : Bool
  pllOk : Bool
  copies : List (Word128 × Word128)
  failedWires : List (Nat × Nat × Nat)
  stackFail : Bool
  arrayFail : Bool
  sig0 : Bool
  sig1 : Bool
  sigRec : Bool
  trims : List Word128
  sfdp8d : Bool
  hostLanes : Nat
  stackBytes : List Nat
  expanderBytes : List Nat
  ucieLanes : List (Nat × Nat)
  peerLanes : List (Nat × Nat)
  deriving DecidableEq, Repr

/-- The operand fields of a row-program instruction word (R194). -/
structure RowOp where
  pred : Nat
  pneg : Bool
  dst : Nat
  srcA : Nat
  srcB : Nat
  srcC : Nat
  deriving DecidableEq, Repr

/-- A peer packet as it arrives (R265): header, payload, and the neighbour's peer port it came in on. -/
structure PeerPkt where
  port : Nat
  hdr : Word128
  payload : List Byte
  deriving DecidableEq, Repr

/-- How a neighbour answers the enumeration token (R260, R262): it took the address and returns the token, it refused because it has an
address, each with its address and the port of its end of the link, it could have no address, or two roots have met. -/
inductive EnumAnswer where
  | taken (addr atPort : Nat)
  | refused (addr atPort : Nat)
  | full
  | conflict
  deriving DecidableEq, Repr

/-- A feed or gradient record as it arrives on a module (R97, R164): its channel, header and payload bytes. -/
structure FeedRec where
  channel : Nat
  hdr : Word128
  payload : List Byte
  deriving DecidableEq, Repr

/-- Where Pitter takes a record from: a channel and tag, or the record area of a task (R99, R101). -/
inductive RecSource where
  | channel (c tag : Nat)
  | area (queue seq : Nat)
  deriving DecidableEq, Repr

/-- A commit that waits for delta-pool room: of a row program, or of a TABLE_LOAD in MERGE mode (R87, R92). -/
inductive CommitWait where
  | run (core : Nat)
  | load (id : Nat)
  deriving DecidableEq, Repr

/-- A CXL.mem request that arrives on a module (R411): tag, host physical address, the write data (empty for a read), and
the length of a read. -/
structure CxlReq where
  tag : Nat
  addr : Nat
  write : Bool
  data : List Byte
  len : Nat
  deriving DecidableEq, Repr

/-- One ATS translation completion (R336): the address space, the host address and length it covers, the translated
address, and the permission it grants. `pasid` is 0 for requests without PASID and the PASID plus 1 otherwise. -/
structure AtsReply where
  pasid : Nat
  hostAddr : Nat
  len : Nat
  translated : Nat
  read : Bool
  write : Bool
  deriving DecidableEq, Repr

/-- A stored word as a scrub or a read finds it: the 144 bits read (R439). -/
abbrev CodeWord := BitVec 144

/-- The core that starts a row program, and the words of its copy of the program that their code does not read as good, by their number
(R175, R206). -/
structure ProgramFetch where
  core : Nat
  reads : List (Nat × CodeWord)
  deriving DecidableEq, Repr

/-- The address space of a register access by the host: BAR0, BAR2 or BAR4 (R351). -/
inductive Bar where
  | bar0 | bar2 | bar4
  deriving DecidableEq, Repr

/-- The kind of host loss (R397). -/
inductive LossKind where
  | linkDown | hotReset | perst | flr
  deriving DecidableEq, Repr

/-- The commands and events, one constructor for each row of the operation table, in its order. -/
inductive Instr where
  -- reset and start-up
  | coldResetAssert
  | coldResetRelease (st : Straps)
  | warmReset
  | bootStepDone (o : BootObs)
  | imgDataWrite (data : List Byte)
  | imgDone (sigOk : Bool)
  -- power and heat
  | islandClockLockLoss (cluster : Nat)
  | clusterSensorRead (clusters : List (Nat × Int)) (lowerDomain upperDomain : Int)
  | islandLevelFall (cluster : Nat)
  | stackTempRead (port : Nat) (reading : Int)
  | stackLevelFall (port : Nat)
  | stackLevel2IslandCap (half : Nat)
  | creditRefill (worked : List (Nat × Nat × Nat))
  | budgetDivide (demands : List (Nat × Nat))
  | powerLimitCheck (meanWatts : Nat)
  | islandClockChange (cluster : Nat)
  | lullL1Entry (pair : Nat)
  | lullEntry (pair : Nat)
  | lullScheduledWake (pair : Nat)
  | lullRequestWake (pair : Nat)
  | lullDemandCheck (demand : Nat)
  | lullWakeDone (pair : Nat)
  | lullEntryDone (pair : Nat)
  -- management processors
  | mpHeartbeat (half : Nat)
  | mpFatalTrap (half : Nat)
  | mpFailureDeclared (half : Nat)
  | mpHandoverDone (half : Nat)
  | mpRestartDone (half : Nat) (ok : Bool)
  | sequencerMismatch (half : Nat)
  | watchdogSafe
  -- mailbox commands
  | engInfo (m : MbxCall)
  | stateReadDevice (m : MbxCall)
  | stateReadQueue (m : MbxCall)
  | stateReadTask (m : MbxCall)
  | stateReadTable (m : MbxCall)
  | stateReadGenerations (m : MbxCall)
  | stateReadRowPlacement (m : MbxCall)
  | stateReadPartition (m : MbxCall)
  | stateReadFeedChannel (m : MbxCall)
  | stateReadSemaphores (m : MbxCall)
  | stateReadRanges (m : MbxCall)
  | stateReadOutstandingFaults (m : MbxCall)
  | stateReadStackPort (m : MbxCall)
  | stateReadJournal (m : MbxCall)
  | stateReadRetainedMaps (m : MbxCall)
  | stateReadChainTopology (m : MbxCall)
  | stateReadCounters (m : MbxCall)
  | countersClear (m : MbxCall)
  | stateReadAccumulator (index : BitVec 64)
  | cmdPoll (m : MbxCall)
  | hostAttach (m : MbxCall)
  | journalClear (m : MbxCall)
  | ctxCreate (m : MbxCall)
  | ctxDestroy (m : MbxCall)
  | queueCreate (m : MbxCall)
  | queueDestroy (m : MbxCall)
  | queueResume (m : MbxCall)
  | taskAbort (m : MbxCall)
  | tableCreate (m : MbxCall)
  | tableCreateModify (m : MbxCall)
  | tableLoadMerge (m : MbxCall)
  | tableLoadReplace (m : MbxCall)
  | loadReplaceStart (handle : Nat)
  | loadReplaceEnd (handle : Nat)
  | tablePublish (m : MbxCall)
  | tablePublishCutNow (m : MbxCall)
  | publishCut (publishId : Nat)
  | tableRetire (m : MbxCall)
  | tableDelete (m : MbxCall)
  | tableDeleteFree (handle : Nat)
  | generationRetire (handle gen : Nat)
  | programLoad (m : MbxCall)
  | programEmpty (m : MbxCall)
  | programSlotWrite (slot : Nat)
  | orchardClean (m : MbxCall)
  | orchardInvalidate (m : MbxCall)
  | orchardCleanInvalidate (m : MbxCall)
  | waysOn (m : MbxCall)
  | codeTableLoad (m : MbxCall)
  | codeTableRelease (m : MbxCall)
  | shardMapLoad (m : MbxCall)
  | rangeMap (m : MbxCall) (remoteOk : Bool)
  | rangeUnmap (m : MbxCall)
  | unmapDrainDone (devBase : Nat)
  | rangeProtect (m : MbxCall)
  | windowOpen (m : MbxCall)
  | windowClose (m : MbxCall)
  | migrateIn (m : MbxCall)
  | pageResolveFail (m : MbxCall)
  | migrateOut (m : MbxCall)
  | t4Attach (m : MbxCall)
  | streamPolicyPartition (m : MbxCall)
  | portArb (m : MbxCall)
  | readTopology (m : MbxCall)
  | reenumerate (m : MbxCall) (busyElsewhere : Bool)
  | nextEvent (m : MbxCall)
  | powerHintLimit (m : MbxCall)
  | clockCap (m : MbxCall)
  | lullFloor (m : MbxCall)
  | calReadStored (m : MbxCall)
  | calReadInUse (m : MbxCall)
  | writeSet (m : MbxCall)
  | recalibrate (m : MbxCall)
  | fwStage (m : MbxCall)
  | fwVerify (m : MbxCall) (sigOk : Bool)
  | fwActivate (m : MbxCall)
  | fwActivated
  | fwCommit (m : MbxCall)
  | fwAbort (m : MbxCall)
  | ctxKeyLoad (m : MbxCall) (unwrapped : Option (BitVec 512))
  | ctxKeyRekey (m : MbxCall) (unwrapped : Option (BitVec 512))
  | ctxKeyClear (m : MbxCall)
  | getChallenge (m : MbxCall)
  | debugUnlock (m : MbxCall) (hashOk sigOk : Bool)
  | debugLock (m : MbxCall)
  | nonceExpire
  | mailboxBadOpcode (m : MbxCall) (opcode : Nat)
  | mailboxCollision (m : MbxCall) (opcode : Nat)
  | deferredCommandEnd (ticket : Nat)
  -- registers, doorbells, interrupts
  | registerWrite (bar : Bar) (offset : Nat) (wide : Bool) (value : Word64)
  | fqEnableWrite (enable : Bool)
  | clearDropped
  | fqConsWrite (value : Word32)
  | debugSnapshot
  | msixUnmask (vector : Nat)
  | holdoffExpire (queue : Nat)
  | sqDoorbell (page : Nat) (tail : Word32) (host : List Host.Cell)
  | cqHeadWrite (page : Nat) (head : Word32)
  | slotConsume (queue : Nat)
  | slotReread (queue : Nat) (host : List Host.Cell)
  | queueWaitingVisible (queue : Nat)
  -- tasks
  | lookup (queue seq : Nat)
  | scatter (queue seq : Nat)
  | scatterReleaseOnly (queue seq : Nat)
  | retainedMapRelease (ctx mapSeq addr : Nat)
  | reduce (queue seq : Nat)
  | sort (queue seq : Nat)
  | shuffleGenerate (queue seq : Nat)
  | shufflePermute (queue seq : Nat)
  | gatherSamples (queue seq : Nat)
  | sampleWindow (queue seq : Nat)
  | copy (queue seq : Nat)
  | armingStart (ctx stream : Nat)
  | publish (queue seq : Nat)
  | flush (queue seq : Nat)
  | fence (queue seq : Nat)
  | fenceFlushDone (queue seq : Nat)
  | semSignal (queue seq : Nat)
  | semWait (queue seq : Nat)
  | semWaitServed (ctx sem : Nat)
  | taskAdmitRelease (queue : Nat)
  | deadlineExpire (queue seq : Nat)
  | taskWorkDone (queue seq : Nat)
  -- UCIe and feeds
  | ucieLinkUp (module : Nat) (lanes : Nat)
  | ucieLinkDown (module : Nat)
  | ucieWidthDegrade (module : Nat)
  | ucieFlitReceive (module : Nat) (flit : BitVec 2048)
  | ucieNak (module : Nat) (ackSeq : Nat)
  | hello (module : Nat) (msg : Word128)
  | helloTimeout (module : Nat)
  | credit (module : Nat) (msg : Word128)
  | feedOpen (module : Nat) (msg : Word128)
  | feedClose (module : Nat) (msg : Word128)
  | ucieBadControl (module : Nat) (msg : Word128)
  | keys (r : FeedRec)
  | keysWeighted (r : FeedRec)
  | tokens (r : FeedRec)
  | tagEnd (r : FeedRec)
  | gradFp32 (r : FeedRec)
  | gradBf16 (r : FeedRec)
  | gradPackedFp32 (r : FeedRec)
  | gradPackedBf16 (r : FeedRec)
  | recordConsumed (src : RecSource)
  | cxlMemRequest (module : Nat) (r : CxlReq)
  | cxlIoTlp (module : Nat) (decoderBase : Nat)
  | cohMessage (module : Nat)
  | ucieDebugAccess (module : Nat) (offset : Nat) (write : Bool) (value : Word64)
  -- Pitter, pooling, update
  | pitterUnitGrant (queue seq unit : Nat)
  | dedupDone (queue seq : Nat)
  | rowTransitArrive (queue seq key cluster : Nat)
  | rowDeposit (queue seq key firstRef cluster core : Nat)
  | bagOpen (queue seq bag cluster : Nat)
  | partialMerge (queue seq bag cluster : Nat)
  | bagFinish (queue seq bag : Nat)
  | bagSend (queue seq bag : Nat)
  | deliveryAcked (stream : Nat)
  | bucketFinish (queue seq key cluster : Nat)
  | rowProgramStart (queue seq key : Nat) (fetch : ProgramFetch)
  | chunkStart (core : Nat)
  | nop (core : Nat) (o : RowOp)
  | fadd (core : Nat) (o : RowOp)
  | fsub (core : Nat) (o : RowOp)
  | fmul (core : Nat) (o : RowOp)
  | fma (core : Nat) (o : RowOp)
  | fnma (core : Nat) (o : RowOp)
  | fmax (core : Nat) (o : RowOp)
  | fmin (core : Nat) (o : RowOp)
  | fabs (core : Nat) (o : RowOp)
  | fneg (core : Nat) (o : RowOp)
  | mov (core : Nat) (o : RowOp)
  | sel (core : Nat) (o : RowOp)
  | rcp (core : Nat) (o : RowOp)
  | rsqrt (core : Nat) (o : RowOp)
  | exp2 (core : Nat) (o : RowOp)
  | log2 (core : Nat) (o : RowOp)
  | fcmpLt (core : Nat) (o : RowOp)
  | fcmpLe (core : Nat) (o : RowOp)
  | fcmpEq (core : Nat) (o : RowOp)
  | fcmpUn (core : Nat) (o : RowOp)
  | pand (core : Nat) (o : RowOp)
  | por (core : Nat) (o : RowOp)
  | pnot (core : Nat) (o : RowOp)
  | radd (core : Nat) (o : RowOp)
  | rmax (core : Nat) (o : RowOp)
  | movx (core : Nat) (o : RowOp)
  | ldg (core : Nat) (o : RowOp)
  | ldr (core : Nat) (o : RowOp)
  | ldrj (core : Nat) (o : RowOp)
  | lds (core : Nat) (o : RowOp)
  | ldw (core : Nat) (o : RowOp)
  | str (core : Nat) (o : RowOp)
  | strj (core : Nat) (o : RowOp)
  | sts (core : Nat) (o : RowOp)
  | stw (core : Nat) (o : RowOp)
  | programEnd (core : Nat)
  | deltaPoolWaitExpire (w : CommitWait)
  | deltaPoolRoom (w : CommitWait)
  | commitPoint (core : Nat)
  | cleanWriteDone (handle row : Nat)
  | writeBackFail (core : Nat)
  -- streams, translation, T4
  | streamEntryIssue (queue seq : Nat)
  | transferIssue (transfer : Nat)
  | transferComplete (transfer : Nat) (poisoned : Bool)
  | headwindRefill (partition : Nat) (port : Nat) (ns : Nat)
  | atsTranslationComplete (r : AtsReply)
  | priResponse (entry : Nat) (code : Nat)
  | priResponseTimeout (entry : Nat)
  | atsInvalidation (pasid : Nat)
  | atsInvalidationComplete (pasid : Nat)
  | agentCompletionDoorbell (count : Word32) (host : List Host.Cell)
  | t4Timeout (seq : Nat)
  -- faults, scrubbing, sparing, links
  | patrolScrubBank (core word : Nat) (key : Option Nat) (read : CodeWord)
  | patrolScrubHbm (addr : Nat) (read : List CodeWord)
  | rebuildDone (rebuild : Nat)
  | correctedSummary (kind : Nat)
  | coreReplaceDone (core : Nat)
  | rowRepairDone (addr : Nat) (left : Option Nat)
  | channelRetireDone (port channel : Nat)
  | clusterLeaveService (cluster : Nat)
  | bondFlitReceive (channel dir : Nat) (words : List CodeWord) (resent : Bool) (task : Option (Nat × Nat))
  | driftEpoch (cycles : List (Nat × Nat))
  | partitionResize
  | moveCopyDone (handle row : Nat)
  | moveSwitch (handle row : Nat)
  | moveSourceFree (handle row : Nat)
  | hostLoss (k : LossKind)
  | hostLinkRetrain (lanes : Nat)
  | hostLinkUp (lanes : Nat)
  | expanderLinkDown (port : Nat)
  -- chain
  | enumTokenOffer (port : Nat) (fromRoot : Bool) (nextAddr : Nat) (epoch : Word32)
  | enumTokenReturn (port : Nat) (nextAddr : Nat) (answer : EnumAnswer) (links : List Word32)
  | chainTable (port : Nat) (hdr : Word128) (payload : List Byte)
  | enumNoRoot
  | peerLinkDown (port : Nat)
  | peerLinkUp (port : Nat) (lanes : Nat)
  | peerLinkDegrade (port : Nat) (lanes : Nat)
  | probeReq (p : PeerPkt)
  | partialPkt (p : PeerPkt)
  | contrib (p : PeerPkt)
  | resultPkt (p : PeerPkt)
  | rankDone (p : PeerPkt)
  | combinerDone (p : PeerPkt)
  | slotDeadline (job key rank : Nat)
  | backupDeadline (job key rank : Nat)
  | combinerUnreachableDeadline (job combiner : Nat)
  | movePkt (p : PeerPkt)
  | mapUpdate (p : PeerPkt)
  | taskBegin (p : PeerPkt)
  | taskEnd (p : PeerPkt)
  | codeNotice (p : PeerPkt)
  | publishRelay (p : PeerPkt)
  | loadReport (p : PeerPkt)
  | ack (p : PeerPkt)
  | peerBadPacket (p : PeerPkt)
  | readReq (p : PeerPkt)
  | readData (p : PeerPkt)
  | windowWrite (p : PeerPkt)
  | windowMemop (p : PeerPkt)
  | writeAck (p : PeerPkt)
  -- I3C
  | i3cPrivateWrite (data : List Byte)
  | i3cPrivateRead (count : Nat)
  | entdaa (addr : Nat)
  | rstdaa
  | setnewda (addr : Nat)
  | getpid
  | getbcr
  | getdcr
  | getstatus
  | enec (bits : Byte)
  | disec (bits : Byte)
  | setmwl (len : Nat)
  | getmwl
  | setmrl (len : Nat)
  | getmrl
  | rstact (action : Byte)
  -- test access port
  | bypass
  | idcode
  | sample
  | preload (cells : List Bool)
  | extest
  | clamp
  | highz
  | fuseRead
  -- attestation
  | getVersion
  | getCapabilities
  | negotiateAlgorithms
  | getDigests
  | getCertificate (slot : Nat)
  | challenge
  | getMeasurements (index : Nat)
  | keyExchange (sessionId : Word32)
  | finish (sessionId : Word32) (ok : Bool)
  | heartbeat (sessionId : Word32)
  | keyUpdate (sessionId : Word32)
  | endSession (sessionId : Word32)
  -- later rows
  | expanderLinkUp (port : Nat)
  | expanderLinkDegrade (port lanes : Nat)
  | ucieLaneRepair (module : Nat)
  | stackLost (port : Nat)
  | priEnable
  | peerFlitReceive (port : Nat) (words : List CodeWord)
  | relayReport (p : PeerPkt)
  | shardMapInstalled (p : PeerPkt)
  | uncodedResendRequest (p : PeerPkt)
  | bucketResendRequest (p : PeerPkt)
  | generationRetiredAnswer (p : PeerPkt)
  deriving DecidableEq, Repr

end Sys2Proof
end

