-- ==== Sys2Proof/Decode.lean ====
section
/-! DEFINITION. The words of the operation table. Its rows give no bits: the steps of this block are commands and events,
and the blocks, records, flits and packets that carry their fields are decoded by the meanings that receive them. -/

namespace Sys2Proof

/-- The command that a word of `nbits` bits spells by the table's bits. No row of the table has bits, so none is spelt. -/
def decodeTableWord (_nbits _w : Nat) : Option Instr := none

end Sys2Proof
end

