-- ==== Sys2Proof/Machine/Bits.lean ====
section
/-! DEFINITION. Bit fields, byte order (R7), sparse tables, serial numbers (R11, R483), saturating counters,
and the check codes that the spec defines: CRC-16 (R364) and CRC-32C (R364, R497). -/

namespace Sys2Proof.Machine

/-! ### Bit fields -/

/-- The field of `len` bits of the number `x` whose lowest bit is bit `lo`. -/
def bitsOf (x lo len : Nat) : Nat := (x >>> lo) % 2 ^ len

/-- The field of `len` bits of the block `x` whose lowest bit is bit `lo`, as a number. -/
def bits {w : Nat} (x : BitVec w) (lo len : Nat) : Nat := bitsOf x.toNat lo len

/-- Bit `i` of the block `x`. -/
def bit {w : Nat} (x : BitVec w) (i : Nat) : Bool := x.toNat.testBit i

/-- The number `x` with its field `[lo + len - 1 : lo]` set to `v`. -/
def putBits (x lo len v : Nat) : Nat :=
  x - (bitsOf x lo len) * 2 ^ lo + (v % 2 ^ len) * 2 ^ lo

/-- The block `x` with one field replaced. -/
def setField {w : Nat} (x : BitVec w) (lo len v : Nat) : BitVec w :=
  BitVec.ofNat w (putBits x.toNat lo len v)

/-- Every field of the list, each given as lowest bit and length, reads zero (R9). -/
def zeroFields {w : Nat} (x : BitVec w) (fs : List (Nat × Nat)) : Bool :=
  fs.all fun f => bits x f.1 f.2 == 0

/-- The number whose fields, each given as lowest bit, length and value, are those of the list. -/
def packFields (fs : List (Nat × Nat × Nat)) : Nat :=
  fs.foldl (fun acc f => acc + (f.2.2 % 2 ^ f.2.1) * 2 ^ f.1) 0

/-- One bit as a number. -/
def b2n (b : Bool) : Nat := if b then 1 else 0

/-- `x` rounded up to a multiple of `m`. -/
def roundUp (x m : Nat) : Nat := ((x + m - 1) / m) * m

/-- `x` rounded up to a multiple of 16. -/
def roundup16 (x : Nat) : Nat := roundUp x 16

/-- The signed value of the low `w` bits of `x`, in two's complement. -/
def signedOf (x w : Nat) : Int :=
  let y := x % 2 ^ w
  if y < 2 ^ (w - 1) then (y : Int) else (y : Int) - (2 ^ w : Nat)

/-- The low `w` bits that encode the integer `i` in two's complement. -/
def unsignedOf (i : Int) (w : Nat) : Nat := (i % (2 ^ w : Nat)).toNat

/-! ### Byte order -/

/-- The `n` bytes of `x`, lowest first (R7). -/
def toBytes (n x : Nat) : List Byte :=
  match n with
  | 0 => []
  | n + 1 => BitVec.ofNat 8 x :: toBytes n (x / 256)

/-- The number whose bytes, lowest first, are the list (R7). -/
def ofBytes : List Byte → Nat
  | [] => 0
  | b :: bs => b.toNat + 256 * ofBytes bs

/-- `n` zero bytes. -/
def zeroBytes (n : Nat) : List Byte := List.replicate n 0

/-- The bytes of the list from offset `off`, `n` of them, padded with zero bytes where the list ends. -/
def sliceBytes (bs : List Byte) (off n : Nat) : List Byte :=
  let xs := (bs.drop off).take n
  xs ++ zeroBytes (n - xs.length)

/-- The list padded with zero bytes to a multiple of 16 bytes. -/
def pad16 (bs : List Byte) : List Byte := bs ++ zeroBytes (roundup16 bs.length - bs.length)

/-- The list with the bytes from offset `off` on replaced by `new`, its length kept. -/
def overwrite (bs : List Byte) (off : Nat) (new : List Byte) : List Byte :=
  (bs.take off ++ new ++ bs.drop (off + new.length)).take bs.length

/-- The elements of a list cut into pieces of `n`, at most `fuel` pieces. -/
def chunks {α : Type} (n fuel : Nat) (xs : List α) : List (List α) :=
  match fuel with
  | 0 => []
  | fuel + 1 => if xs.isEmpty then [] else xs.take n :: chunks n fuel (xs.drop n)

/-! ### Sparse tables -/

/-- The value at key `k`, if the table has one. -/
def Tab.get? {α : Type} (t : Tab α) (k : Nat) : Option α :=
  match t with
  | [] => none
  | (j, v) :: rest => if j == k then some v else Tab.get? rest k

/-- The value at key `k`, or `d`. -/
def Tab.getD {α : Type} (t : Tab α) (k : Nat) (d : α) : α := (Tab.get? t k).getD d

/-- The table with value `v` at key `k`, keys kept ascending. -/
def Tab.put {α : Type} (t : Tab α) (k : Nat) (v : α) : Tab α :=
  match t with
  | [] => [(k, v)]
  | (j, u) :: rest =>
    if k < j then (k, v) :: (j, u) :: rest
    else if k == j then (k, v) :: rest
    else (j, u) :: Tab.put rest k v

/-- The table without key `k`. -/
def Tab.del {α : Type} (t : Tab α) (k : Nat) : Tab α := t.filter fun e => e.1 != k

/-- The table has key `k`. -/
def Tab.has {α : Type} (t : Tab α) (k : Nat) : Bool := t.any fun e => e.1 == k

/-- The table with `f` applied to the value at key `k`, unchanged where the key is absent. -/
def Tab.upd {α : Type} (t : Tab α) (k : Nat) (f : α → α) : Tab α :=
  t.map fun e => if e.1 == k then (e.1, f e.2) else e

/-- The list with `f` applied to the first element for which `p` holds. -/
def updFirst {α : Type} (p : α → Bool) (f : α → α) : List α → List α
  | [] => []
  | x :: xs => if p x then f x :: xs else x :: updFirst p f xs

/-- The list with `f` applied to every element for which `p` holds. -/
def updWhere {α : Type} (p : α → Bool) (f : α → α) (xs : List α) : List α :=
  xs.map fun x => if p x then f x else x

/-- The list without its first element for which `p` holds. -/
def dropFirst {α : Type} (p : α → Bool) : List α → List α
  | [] => []
  | x :: xs => if p x then xs else x :: dropFirst p xs

/-- Inserts into a list kept ascending by `key`, after the elements of equal key. -/
def insertBy {α : Type} (key : α → Nat) (x : α) : List α → List α
  | [] => [x]
  | y :: ys => if key x < key y then x :: y :: ys else y :: insertBy key x ys

/-- A number joins an ascending list that does not hold it. -/
def insertNew (n : Nat) (xs : List Nat) : List Nat := if xs.contains n then xs else insertBy id n xs

/-- The list in ascending order of `key`, equal keys in their given order. -/
def sortBy {α : Type} (key : α → Nat) (xs : List α) : List α :=
  xs.foldl (fun acc x => insertBy key x acc) []

/-- The least number below `n` that is not in the list. -/
def firstFree (n : Nat) (used : List Nat) : Option Nat :=
  (List.range n).find? fun k => !used.contains k

/-- The sum of the list. -/
def sumNat (xs : List Nat) : Nat := xs.foldl (· + ·) 0

/-- The greatest number of the list, or 0. -/
def maxNat (xs : List Nat) : Nat := xs.foldl max 0

/-! ### Serial numbers and counters -/

/-- `a` precedes `b` in `w`-bit serial-number arithmetic (R483). -/
def seqBefore (w a b : Nat) : Bool :=
  let d := (b + 2 ^ w - a % 2 ^ w) % 2 ^ w
  1 ≤ d && d ≤ 2 ^ (w - 1) - 1

/-- The next `w`-bit sequence number. -/
def seqNext (w a : Nat) : Nat := (a + 1) % 2 ^ w

/-- How far `b` lies ahead of `a`, modulo 2^w. -/
def seqDist (w a b : Nat) : Nat := (b + 2 ^ w - a % 2 ^ w) % 2 ^ w

/-- A count of `w` bits that saturates at all ones (R11). -/
def satAdd (w a n : Nat) : Nat := min (a + n) (2 ^ w - 1)

/-- The sticky overflow bit of a saturating count after `n` is added (R11). -/
def satOvf (w a n : Nat) : Bool := 2 ^ w - 1 < a + n

/-! ### Check codes -/

/-- One step of CRC-16 with polynomial 0x1021, no reflection. -/
def crc16Bit (c : Nat) : Nat :=
  if c.testBit 15 then ((c * 2) % 65536) ^^^ 0x1021 else (c * 2) % 65536

/-- CRC-16 of R364: initial value 0xFFFF, no final exclusive-or. -/
def crc16 (bs : List Byte) : Nat :=
  bs.foldl (fun c b => Nat.repeat crc16Bit 8 (c ^^^ (b.toNat * 256))) 0xFFFF

/-- One step of reflected CRC-32C. -/
def crc32cBit (c : Nat) : Nat :=
  if c % 2 == 1 then (c / 2) ^^^ 0x82F63B78 else c / 2

/-- CRC-32C (Castagnoli), reflected, initial value and final exclusive-or all ones. -/
def crc32c (bs : List Byte) : Nat :=
  (bs.foldl (fun c b => Nat.repeat crc32cBit 8 (c ^^^ b.toNat)) 0xFFFFFFFF) ^^^ 0xFFFFFFFF

/-! ### The probe hash of R110 -/

/-- The multiplier c1 of R110. -/
def hashC1 : Nat := 0x9C4FD3A16B27E58D

/-- The multiplier c2 of R110. -/
def hashC2 : Nat := 0xE3A51C9748BD2F61

/-- mix64 of R110, on numbers below 2^64. -/
def mix64 (z0 : Nat) : Nat :=
  let z := z0 % 2 ^ 64
  let z := z ^^^ (z >>> 32)
  let z := (z * hashC1) % 2 ^ 64
  let z := z ^^^ (z >>> 29)
  let z := (z * hashC2) % 2 ^ 64
  z ^^^ (z >>> 32)

end Sys2Proof.Machine
end

