-- ==== Sys2Proof/Machine/Aes.lean ====
section
/-! DEFINITION. AES-256-XTS as IEEE 1619 and FIPS 197 state it, for cold pages (R248). The steps of the cipher come from those texts
(log entry 8). -/

namespace Sys2Proof.Machine

/-- The substitution box, entry `i` in byte `i`. -/
def sboxTable : Nat :=
  0xc072a49cafa2d4adf04759fa7dc982ca76abd7fe2b670130c56f6bf27b777c63 +
  0x75b227ebe28012079a059618c323c7041531d871f1e5a534ccf73f362693fdb7 * 2 ^ 256 +
  0xcf584c4a39becb6a5bb1fc20ed00d153842fe329b3d63b52a05a6e1b1a2c8309 * 2 ^ 512 +
  0xd2f3ff1021dab6bcf5389d928f40a351a89f3c507f02f94585334d43fbaaefd0 * 2 ^ 768 +
  0xdb0b5ede14b8ee4688902a22dc4f816073195d643d7ea7c41744975fec130ccd * 2 ^ 1024 +
  0x08ae7a65eaf4566ca94ed58d6d37c8e779e4959162acd3c25c2406490a3a32e0 * 2 ^ 1280 +
  0x9e1dc186b95735610ef6034866b53e708a8bbd4b1f74dde8c6b4a61c2e2578ba * 2 ^ 1536 +
  0x16bb54b00f2d99416842e6bf0d89a18cdf2855cee9871e9b948ed9691198f8e1 * 2 ^ 1792

/-- The inverse of the substitution box. -/
def invSboxTable : Nat :=
  0xcbe9dec444438e3487ff2f9b8239e37cfbd7f3819ea340bf38a53630d56a0952 +
  0x25d18b6d49a25b76b224d92866a12e084ec3fa420b954cee3d23c2a632947b54 * 2 ^ 256 +
  0x849d8da75746155edab9edfd5048706c92b6655dcc5ca4d41698688664f6f872 * 2 ^ 512 +
  0x6b8a130103bdafc1020f3fca8f1e2cd00645b3b80558e4f70ad3bc8c00abd890 * 2 ^ 768 +
  0x6edf751ce837f9e28535ade72274ac9673e6b4f0cecff297eadc674f4111913a * 2 ^ 1024 +
  0xf45acd78fec0db9a2079d2c64b3e56fc1bbe18aa0e62b76f89c5291d711af147 * 2 ^ 1280 +
  0xef9cc9939f7ae52d0d4ab519a97f51605fec8027591012b131c7078833a8dd1f * 2 ^ 1536 +
  0x7d0c2155631469e126d677ba7e042b17619953833cbbebc8b0f52aae4d3be0a0 * 2 ^ 1792

/-- The byte of a table at a byte. -/
def boxAt (t : Nat) (b : Byte) : Byte := BitVec.ofNat 8 (t >>> (8 * b.toNat))

/-- The exclusive or of two byte lists. -/
def xorBytes (xs ys : List Byte) : List Byte := (xs.zip ys).map fun p => p.1 ^^^ p.2

/-- A byte of the field times x. -/
def xtime (b : Byte) : Byte := if b.toNat < 128 then b <<< 1 else (b <<< 1) ^^^ 0x1b

/-- The next eight key words, as 32 bytes, from the last eight (FIPS 197, 5.2). -/
def nextKeys (rcon : Byte) (ks : List Byte) : List Byte :=
  let w (i : Nat) : List Byte := sliceBytes ks (4 * i) 4
  let sub (xs : List Byte) : List Byte := xs.map (boxAt sboxTable)
  let last := w 7
  let n0 := xorBytes (w 0) (xorBytes (sub (last.drop 1 ++ last.take 1)) [rcon, 0, 0, 0])
  let n1 := xorBytes (w 1) n0
  let n2 := xorBytes (w 2) n1
  let n3 := xorBytes (w 3) n2
  let n4 := xorBytes (w 4) (sub n3)
  let n5 := xorBytes (w 5) n4
  let n6 := xorBytes (w 6) n5
  let n7 := xorBytes (w 7) n6
  n0 ++ n1 ++ n2 ++ n3 ++ n4 ++ n5 ++ n6 ++ n7

/-- The bytes of the key schedule, `n` blocks of eight words after the first. -/
def keyBytes (rcon : Byte) (ks : List Byte) : Nat → List Byte
  | 0 => ks
  | n + 1 => ks ++ keyBytes (xtime rcon) (nextKeys rcon ks) n

/-- The fifteen round keys of a 256-bit key. -/
def roundKeys (key : List Byte) : List (List Byte) := chunks 16 15 (keyBytes 1 key 7)

/-- Byte `i` of the list. -/
def byteAt (xs : List Byte) (i : Nat) : Byte := xs.getD i 0

/-- Row r of the state turns left by r columns, or by the step given. -/
def turnRows (step : Nat) (xs : List Byte) : List Byte := (List.range 16).map fun i => byteAt xs ((i + 4 * step * (i % 4)) % 16)

/-- A byte times 9, 11, 13 or 14, or times 1, 2 or 3: bit `k` of the factor takes x^k. -/
def gmul (f : Nat) (b : Byte) : Byte :=
  let b2 := xtime b
  let b4 := xtime b2
  let b8 := xtime b4
  (if f.testBit 0 then b else 0) ^^^ (if f.testBit 1 then b2 else 0) ^^^ (if f.testBit 2 then b4 else 0) ^^^
    (if f.testBit 3 then b8 else 0)

/-- Each column times the circulant matrix with this first row. -/
def mixColumns (row : List Nat) (xs : List Byte) : List Byte :=
  (List.range 16).map fun i =>
    (List.range 4).foldl (fun (acc : Byte) k => acc ^^^ gmul (row.getD ((k + 4 - i % 4) % 4) 0) (byteAt xs (i / 4 * 4 + k))) 0

/-- The rounds of the cipher; the last mixes no columns. -/
def encRounds : List (List Byte) → List Byte → List Byte
  | [], xs => xs
  | [k], xs => xorBytes k (turnRows 1 (xs.map (boxAt sboxTable)))
  | k :: ks, xs => encRounds ks (xorBytes k (mixColumns [2, 3, 1, 1] (turnRows 1 (xs.map (boxAt sboxTable)))))

/-- One block enciphered (FIPS 197, 5.1). -/
def aesEnc (keys : List (List Byte)) (xs : List Byte) : List Byte :=
  match keys with
  | [] => xs
  | k :: ks => encRounds ks (xorBytes k xs)

/-- The rounds of the inverse cipher, the round keys from the last on. -/
def decRounds : List (List Byte) → List Byte → List Byte
  | [], xs => xs
  | [k], xs => xorBytes k ((turnRows 3 xs).map (boxAt invSboxTable))
  | k :: ks, xs => decRounds ks (mixColumns [14, 11, 13, 9] (xorBytes k ((turnRows 3 xs).map (boxAt invSboxTable))))

/-- One block deciphered (FIPS 197, 5.3). -/
def aesDec (keys : List (List Byte)) (xs : List Byte) : List Byte :=
  match keys.reverse with
  | [] => xs
  | k :: ks => decRounds ks (xorBytes k xs)

/-- The tweak of the next block: times x in the field of IEEE 1619, lowest byte first. -/
def nextTweak (t : List Byte) : List Byte :=
  let x := ofBytes t * 2
  toBytes 16 (if 2 ^ 128 ≤ x then (x - 2 ^ 128) ^^^ 0x87 else x)

/-- The blocks of a data unit through a block function, each between its tweak. -/
def xtsBlocks (f : List Byte → List Byte) (t : List Byte) : List (List Byte) → List Byte
  | [] => []
  | b :: bs => xorBytes t (f (xorBytes t b)) ++ xtsBlocks f (nextTweak t) bs

/-- The first half of a 512-bit key, which enciphers the data, and the second, which enciphers the tweak. -/
def xtsKeys (key : BitVec 512) : List (List Byte) × List (List Byte) :=
  let ks := toBytes 64 key.toNat
  (roundKeys (ks.take 32), roundKeys (ks.drop 32))

/-- A data unit of whole blocks enciphered under a tweak (R248). -/
def xtsEncrypt (key : BitVec 512) (tweak : Nat) (bs : List Byte) : List Byte :=
  let ks := xtsKeys key
  xtsBlocks (aesEnc ks.1) (aesEnc ks.2 (toBytes 16 tweak)) (chunks 16 (bs.length / 16) bs)

/-- A data unit deciphered. -/
def xtsDecrypt (key : BitVec 512) (tweak : Nat) (bs : List Byte) : List Byte :=
  let ks := xtsKeys key
  xtsBlocks (aesDec ks.1) (aesEnc ks.2 (toBytes 16 tweak)) (chunks 16 (bs.length / 16) bs)

end Sys2Proof.Machine
end

