-- ==== Sys2Proof/Config.lean ====
section
/-! DEFINITION. The values that the manual leaves open and that the model leaves free: constants without a body. -/

namespace Sys2Proof

/-- Results of the four special functions within the accuracy of R199, for operands whose result R200 does not fix: the
function's code and the operand (log entry 5). -/
opaque Config.sfuResult : Nat → Word32 → Word32

/-- The nonce of a GET_CHALLENGE: fresh for each number (R504; log entry 6). -/
opaque Config.nonce : Nat → BitVec 256

/-- Words of SPDM responses that hold digests, certificates, keys or signatures: the kind of the word, and what it is computed over
(R501, R502; log entry 7). -/
opaque Config.spdmBody : Nat → Nat → Word64

/-- STEP (0) and PARAM0 to PARAM3 (1 to 4) that a row program reads when a FLUSH applies a result: a FLUSH carries none (R191, R292;
log entry 18). -/
opaque Config.flushInput : Nat → Word32

/-- A value that the manual does not state, fresh for each number (log entry 27). -/
opaque Config.freeWord : Nat → Word64

/-- Whether a byte of a host-directed write that was in flight at a host loss holds its new value (R398), by the number of the free value
and the place of the byte in the write (log entry 28). -/
opaque Config.landed : Nat → Nat → Bool

/-- The host-directed address that a FENCE which needs the lost host port names (R380, R397): the manual gives its flushing read none
(log entry 29). -/
opaque Config.flushAddr : Nat

/-- Which of the elements that the checker recomputes shows a mismatch, by the number of the check; a number beyond them stands for none (R293;
log entry 61). -/
opaque Config.checkMiss : Nat → Nat

/-- The time to dry of a stream that the device builds for a task, by task and clock, in 10 ns (R309; log entry 45): what its
consumer buffer holds over the measured drain rate. -/
opaque Config.toDry : Nat → Nat → Nat

/-- The data wire that carries a symbol of a code word of a bond flit (R419): word and symbol. The manual places the bits only so that a
wire carries at most one symbol of any word (log entry 30). -/
opaque Config.bondWire : Nat → Nat → Nat

end Sys2Proof
end

