-- ==== Sys2Proof/Machine/Memory.lean ====
section
/-! DEFINITION. Byte memories as lists of cells in one canonical form: addresses strictly rising, and no cell that holds
what an unlisted address reads as. -/

namespace Sys2Proof.Machine

/-- The byte at address `a`; an unlisted address reads `d`. -/
def cellGet (d : Byte) (cs : List Host.Cell) (a : Nat) : Byte :=
  match cs with
  | [] => d
  | (k, v) :: rest => if k == a then v else if a < k then d else cellGet d rest a

/-- The memory with byte `v` at address `a`, in canonical form. -/
def cellSet (d : Byte) (cs : List Host.Cell) (a : Nat) (v : Byte) : List Host.Cell :=
  match cs with
  | [] => if v = d then [] else [(a, v)]
  | (k, u) :: rest =>
    if a < k then (if v = d then (k, u) :: rest else (a, v) :: (k, u) :: rest)
    else if a = k then (if v = d then rest else (a, v) :: rest)
    else (k, u) :: cellSet d rest a v

/-- Addresses above `lo`, strictly rising, and no byte equal to `d`. -/
def cellsAbove (d : Byte) (lo : Nat) : List Host.Cell → Bool
  | [] => true
  | (k, v) :: rest => decide (lo < k) && decide (v ≠ d) && cellsAbove d k rest

/-- The canonical form of a memory whose unlisted addresses read `d`. -/
def cellsWf (d : Byte) : List Host.Cell → Bool
  | [] => true
  | (k, v) :: rest => decide (v ≠ d) && cellsAbove d k rest

/-- `n` bytes from address `a`. -/
def cellRead (d : Byte) (cs : List Host.Cell) (a : Nat) : Nat → List Byte
  | 0 => []
  | n + 1 => cellGet d cs a :: cellRead d cs (a + 1) n

/-- The bytes written from address `a` on. -/
def cellWrite (d : Byte) (cs : List Host.Cell) (a : Nat) : List Byte → List Host.Cell
  | [] => cs
  | b :: bs => cellWrite d (cellSet d cs a b) (a + 1) bs

/-- Every cell of the list written, each at its own address. -/
def cellApply (d : Byte) (cs : List Host.Cell) : List Host.Cell → List Host.Cell
  | [] => cs
  | (a, b) :: rest => cellApply d (cellSet d cs a b) rest

/-- Every byte of the area reads `d` again. -/
def cellClear (cs : List Host.Cell) (a n : Nat) : List Host.Cell :=
  cs.filter fun c => decide (c.1 < a) || decide (a + n ≤ c.1)

end Sys2Proof.Machine
end

