-- ==== Sys2Proof/Machine/Codes.lean ====
section
/-! DEFINITION. The named codes of the manual: status codes (R387, R506), the states of ENG_STATE (R354), task states
(R372, R376, R523), queue states (R363), fault classes and severities (R456, R458, R521), location kinds (R459), events
(R486), interrupt causes (R394) and the counters of R484. -/

namespace Sys2Proof.Machine

/-- The status codes of R387 and R506, in the order those rules list them. -/
inductive Status where
  | ok | accepted | alreadyComplete | badReserved | badOpcode | badContext | badAddress | badSelector | notReady
  | ctxExists | queueExists | noQueue | taskUnknown | noTicket | ticketLimit | deadlineExpired | abortedByHost
  | hostLost | noCapacity | dataLost | tierUnavailable | badHandle | tableExists | noTable | badModify | tableLimit
  | badFormat | badRemainder | rowTooLarge | policyConflict | tableFull | generationNone | generationUnknown
  | generationRetired | generationExhausted | generationRecordsFull | deltaPoolFull | alreadyReleased | badLoadEntry
  | feedBadRecord | feedTagBusy | feedOverrun | feedClosed | probeParamBad | scratchShort | jobTooLarge | bagMapShort
  | sampleTooLarge | rowLengthMismatch | badStride | winnerAreaMissing | mapUnknown | mapCorrupt | badProgram
  | slotBusy | programMissing | programMismatch | notCached | nsetsChanged | badRange | badCodeTable | slotReferenced
  | notRoot | chainBusy | notChained | mapInUse | mapLimit | chainUnreachable | noShardMap | shardGenerationMismatch
  | reduceRequired | jobConfigMismatch | jobBusy | jobLimit | reduceNotRank | shardOwnerNotRank | residualMismatch
  | reduceJobUnknown | reduceModeMismatch | reduceBusy | contributionMissing | reduceCheck | badBlockEntry
  | streamFault | semOverflow | badPort | badAlign | badRegion | badPasid | rangeOverlap | rangeLimit | noRange
  | windowExists | noWindow | windowRefused | priFailed | noFault | badImage | badSignature | rollbackRefused
  | updateBusy | noStagedImage | protocolChange | calInvalid | noSession | keyUnwrapFailed | keyInUse | noKey
  | challengeStale | unlockRefused | unlockLockedOut | contextsExist
  deriving DecidableEq, Repr

/-- The 16-bit code of a status (R387, R506). -/
def Status.code : Status → Nat
  | .ok => 0x0000
  | .accepted => 0x0001
  | .alreadyComplete => 0x0002
  | .badReserved => 0x0100
  | .badOpcode => 0x0101
  | .badContext => 0x0102
  | .badAddress => 0x0103
  | .badSelector => 0x0104
  | .notReady => 0x0105
  | .ctxExists => 0x0106
  | .queueExists => 0x0107
  | .noQueue => 0x0108
  | .taskUnknown => 0x0109
  | .noTicket => 0x010A
  | .ticketLimit => 0x010B
  | .deadlineExpired => 0x010C
  | .abortedByHost => 0x010D
  | .hostLost => 0x010E
  | .noCapacity => 0x010F
  | .dataLost => 0x0110
  | .tierUnavailable => 0x0111
  | .badHandle => 0x0200
  | .tableExists => 0x0201
  | .noTable => 0x0202
  | .badModify => 0x0203
  | .tableLimit => 0x0204
  | .badFormat => 0x0205
  | .badRemainder => 0x0206
  | .rowTooLarge => 0x0207
  | .policyConflict => 0x0208
  | .tableFull => 0x0209
  | .generationNone => 0x020A
  | .generationUnknown => 0x020B
  | .generationRetired => 0x020C
  | .generationExhausted => 0x020D
  | .generationRecordsFull => 0x020E
  | .deltaPoolFull => 0x020F
  | .alreadyReleased => 0x0210
  | .badLoadEntry => 0x0211
  | .feedBadRecord => 0x0300
  | .feedTagBusy => 0x0301
  | .feedOverrun => 0x0302
  | .feedClosed => 0x0303
  | .probeParamBad => 0x0304
  | .scratchShort => 0x0305
  | .jobTooLarge => 0x0306
  | .bagMapShort => 0x0307
  | .sampleTooLarge => 0x0308
  | .rowLengthMismatch => 0x0309
  | .badStride => 0x030A
  | .winnerAreaMissing => 0x030B
  | .mapUnknown => 0x030C
  | .mapCorrupt => 0x030D
  | .badProgram => 0x0400
  | .slotBusy => 0x0401
  | .programMissing => 0x0402
  | .programMismatch => 0x0403
  | .notCached => 0x0404
  | .nsetsChanged => 0x0405
  | .badRange => 0x0406
  | .badCodeTable => 0x0407
  | .slotReferenced => 0x0408
  | .notRoot => 0x0500
  | .chainBusy => 0x0501
  | .notChained => 0x0502
  | .mapInUse => 0x0503
  | .mapLimit => 0x0504
  | .chainUnreachable => 0x0505
  | .noShardMap => 0x0506
  | .shardGenerationMismatch => 0x0507
  | .reduceRequired => 0x0508
  | .jobConfigMismatch => 0x0509
  | .jobBusy => 0x050A
  | .jobLimit => 0x050B
  | .reduceNotRank => 0x050C
  | .shardOwnerNotRank => 0x050D
  | .residualMismatch => 0x050E
  | .reduceJobUnknown => 0x050F
  | .reduceModeMismatch => 0x0510
  | .reduceBusy => 0x0511
  | .contributionMissing => 0x0512
  | .reduceCheck => 0x0513
  | .badBlockEntry => 0x0600
  | .streamFault => 0x0601
  | .semOverflow => 0x0602
  | .badPort => 0x0603
  | .badAlign => 0x0604
  | .badRegion => 0x0605
  | .badPasid => 0x0606
  | .rangeOverlap => 0x0607
  | .rangeLimit => 0x0608
  | .noRange => 0x0609
  | .windowExists => 0x060A
  | .noWindow => 0x060B
  | .windowRefused => 0x060C
  | .priFailed => 0x060D
  | .noFault => 0x060E
  | .badImage => 0x0700
  | .badSignature => 0x0701
  | .rollbackRefused => 0x0702
  | .updateBusy => 0x0703
  | .noStagedImage => 0x0704
  | .protocolChange => 0x0705
  | .calInvalid => 0x0706
  | .noSession => 0x0707
  | .keyUnwrapFailed => 0x0708
  | .keyInUse => 0x0709
  | .noKey => 0x070A
  | .challengeStale => 0x070B
  | .unlockRefused => 0x070C
  | .unlockLockedOut => 0x070D
  | .contextsExist => 0x070E

/-- ENG_STATE.STATE (R354). -/
inductive EngState where
  | reset | booting | ready | safe | updating
  deriving DecidableEq, Repr

/-- The 4-bit code of STATE (R354). -/
def EngState.code : EngState → Nat
  | .reset => 0 | .booting => 1 | .ready => 2 | .safe => 3 | .updating => 4

/-- ENG_STATE.SAFE_CAUSE (R354). -/
inductive SafeCause where
  | none | halfMismatch | recoveryFailed | bootImageInvalid | interconnectTestFailed | thermalTrip
  deriving DecidableEq, Repr

/-- The 8-bit code of SAFE_CAUSE (R354). -/
def SafeCause.code : SafeCause → Nat
  | .none => 0 | .halfMismatch => 1 | .recoveryFailed => 2 | .bootImageInvalid => 3
  | .interconnectTestFailed => 4 | .thermalTrip => 5

/-- The state word of a task (R372). -/
inductive TaskState where
  | queued | active | complete | failed | aborted
  deriving DecidableEq, Repr

/-- A state that a task never leaves (R372). -/
def TaskState.final : TaskState → Bool
  | .queued | .active => false
  | .complete | .failed | .aborted => true

/-- FINAL_STATE of R376, extended to the two states of R523 that are not final. -/
def TaskState.code : TaskState → Nat
  | .complete => 1 | .aborted => 2 | .failed => 3 | .queued => 4 | .active => 5

/-- QUEUE_STATE of R363; a queue that does not exist reads NONE. -/
inductive QState where
  | running | waitingVisible | hostHold | destroying
  deriving DecidableEq, Repr

/-- The 3-bit code of QUEUE_STATE (R363). -/
def QState.code : QState → Nat
  | .running => 1 | .waitingVisible => 2 | .hostHold => 3 | .destroying => 4

/-- The task types of R371. -/
inductive TaskType where
  | lookup | scatter | reduce | sort | shuffle | gatherSamples | copy | publish | flush | fence | semSignal | semWait
  deriving DecidableEq, Repr

/-- TASK_TYPE as a slot or descriptor carries it (R371). -/
def TaskType.ofCode : Nat → Option TaskType
  | 1 => some .lookup | 2 => some .scatter | 3 => some .reduce | 4 => some .sort | 5 => some .shuffle
  | 6 => some .gatherSamples | 7 => some .copy | 8 => some .publish | 9 => some .flush | 10 => some .fence
  | 11 => some .semSignal | 12 => some .semWait | _ => none

/-- The code of a task type (R371). -/
def TaskType.code : TaskType → Nat
  | .lookup => 1 | .scatter => 2 | .reduce => 3 | .sort => 4 | .shuffle => 5 | .gatherSamples => 6 | .copy => 7
  | .publish => 8 | .flush => 9 | .fence => 10 | .semSignal => 11 | .semWait => 12

/-- The length in bytes of the task-specific part of a descriptor (R371). -/
def TaskType.partBytes : TaskType → Nat
  | .lookup => 128 | .scatter => 128 | .reduce => 128 | .sort => 64 | .shuffle => 128 | .gatherSamples => 256
  | .copy => 64 | .publish => 144 | .flush => 32 | .fence => 16 | .semSignal => 64 | .semWait => 64

/-- The fault-record classes of R458. -/
inductive FaultClass where
  | corrected | uncorrectable | rowLost | translation | reduceCheck | sparing | recovery | link | thermal
  deriving DecidableEq, Repr

/-- CLASS of R456 and R458. -/
def FaultClass.code : FaultClass → Nat
  | .corrected => 0 | .uncorrectable => 1 | .rowLost => 2 | .translation => 3 | .reduceCheck => 4 | .sparing => 5
  | .recovery => 6 | .link => 7 | .thermal => 8

/-- SEVERITY of R456. -/
inductive Severity where
  | info | corrected | degraded | dataLost | interrupted
  deriving DecidableEq, Repr

/-- The code of SEVERITY (R456). -/
def Severity.code : Severity → Nat
  | .info => 0 | .corrected => 1 | .degraded => 2 | .dataLost => 3 | .interrupted => 4

/-- The location kinds of R459. -/
inductive LocKind where
  | bank | accum | pitter | hbm | expander | host | flash | bond | peer | program | ucie | mp
  deriving DecidableEq, Repr

/-- KIND of R459. -/
def LocKind.code : LocKind → Nat
  | .bank => 1 | .accum => 2 | .pitter => 3 | .hbm => 4 | .expander => 5 | .host => 6 | .flash => 7 | .bond => 8
  | .peer => 9 | .program => 10 | .ucie => 11 | .mp => 12

/-- The events of R486. -/
inductive EventCode where
  | queueStall | deltaPoolHigh | generationRetired | pinLost | stackThrottle | linkDegraded | fenceTableFull
  | repairLogFull | channelRetireBlocked | stackDegraded | islandThermal | powerLimited | calDefaults | fwActivated
  | debugState
  deriving DecidableEq, Repr

/-- CODE of R486. -/
def EventCode.code : EventCode → Nat
  | .queueStall => 1 | .deltaPoolHigh => 2 | .generationRetired => 3 | .pinLost => 4 | .stackThrottle => 5
  | .linkDegraded => 6 | .fenceTableFull => 7 | .repairLogFull => 8 | .channelRetireBlocked => 9 | .stackDegraded => 10
  | .islandThermal => 11 | .powerLimited => 12 | .calDefaults => 13 | .fwActivated => 14 | .debugState => 15

/-- The interrupt causes of R394. -/
inductive Cause where
  | mailboxDone | ticketDone | faultRecord | faultqFull | event | stateChange | hostJournal
  deriving DecidableEq, Repr

/-- The bit of a cause (R394). -/
def Cause.index : Cause → Nat
  | .mailboxDone => 0 | .ticketDone => 1 | .faultRecord => 2 | .faultqFull => 3 | .event => 4 | .stateChange => 5
  | .hostJournal => 6

/-- The vector that announces a cause (R394). -/
def Cause.vector : Cause → Nat
  | .mailboxDone => 0 | .ticketDone => 0 | .faultRecord => 1 | .faultqFull => 1 | .event => 2 | .stateChange => 3
  | .hostJournal => 3

/-- The statistics counters of groups 0x00, 0x02 and 0x03 of R484, and EVENTS_OVERWRITTEN (R485). -/
inductive Ctr where
  | tasksComplete | tasksFailed | tasksAborted | bagsDelivered | rowsCommitted | publishes | driftMoves
  | driftMovesAbandoned
  | peerBadPackets | peerDecodeRetries | windowRefusals | ucieCohDiscarded | ucieBadCredits | ucieDebugDiscarded
  | t4BadCompletions | laneRepairs | ucieBadControl
  | energyMj | creditStallCycles | l1Entries | l2Entries | l3Entries | demandWakes | powerLimitedUs | thermalCappedUs
  | eventsOverwritten
  deriving DecidableEq, Repr

/-- The counters of group 0x00 DEVICE, in the order of R484. -/
def deviceCtrs : List Ctr :=
  [.tasksComplete, .tasksFailed, .tasksAborted, .bagsDelivered, .rowsCommitted, .publishes, .driftMoves,
   .driftMovesAbandoned]

/-- The counters of group 0x02 LINK, in the order of R484. -/
def linkCtrs : List Ctr :=
  [.peerBadPackets, .peerDecodeRetries, .windowRefusals, .ucieCohDiscarded, .ucieBadCredits, .ucieDebugDiscarded,
   .t4BadCompletions, .laneRepairs, .ucieBadControl]

/-- The counters of group 0x03 POWER, in the order of R484. -/
def powerCtrs : List Ctr :=
  [.energyMj, .creditStallCycles, .l1Entries, .l2Entries, .l3Entries, .demandWakes, .powerLimitedUs, .thermalCappedUs]

/-- The number of a counter: its group times 256 plus its place in the group (R484). -/
def Ctr.index : Ctr → Nat
  | .tasksComplete => 0x000 | .tasksFailed => 0x001 | .tasksAborted => 0x002 | .bagsDelivered => 0x003
  | .rowsCommitted => 0x004 | .publishes => 0x005 | .driftMoves => 0x006 | .driftMovesAbandoned => 0x007
  | .peerBadPackets => 0x200 | .peerDecodeRetries => 0x201 | .windowRefusals => 0x202 | .ucieCohDiscarded => 0x203
  | .ucieBadCredits => 0x204 | .ucieDebugDiscarded => 0x205 | .t4BadCompletions => 0x206 | .laneRepairs => 0x207
  | .ucieBadControl => 0x208
  | .energyMj => 0x300 | .creditStallCycles => 0x301 | .l1Entries => 0x302 | .l2Entries => 0x303 | .l3Entries => 0x304
  | .demandWakes => 0x305 | .powerLimitedUs => 0x306 | .thermalCappedUs => 0x307
  | .eventsOverwritten => 0x400

/-- The number of CORR_k: group 0x01, counters 0 to 11 (R484). -/
def corrIndex (k : LocKind) : Nat := 0x100 + (k.code - 1)

/-- The number of UNCORR_k: group 0x01, counters 12 to 23 (R484). -/
def uncorrIndex (k : LocKind) : Nat := 0x100 + 12 + (k.code - 1)

/-- The number of ROWS_FENCED: group 0x01, counter 24 (R484). -/
def rowsFencedIndex : Nat := 0x118

end Sys2Proof.Machine
end

