-- ==== Sys2Proof/Machine/StateCore.lean ====
section
/-! DEFINITION. The parts of the state that the host interface, the address spaces, the streams, the ports, the faults, the
power manager and the sideband hold (chapters 10 to 16). Every field has as its default the value that it holds after
reset; `State.reset` in Machine/State.lean gathers them. -/

namespace Sys2Proof.Machine

/-! ### Fuses and flash: what outlasts every reset -/

/-- What the fuses of both halves hold (R424, R451, R421, R496). -/
structure Fuses where
  /-- Identity word of the lower half (R424): HALF_ID 0b01, stepping B1. -/
  lowerId : Word128 := BitVec.ofNat 128 (1 + 0x11 * 4)
  /-- Identity word of the upper half (R424): HALF_ID 0b10, stepping B1. -/
  upperId : Word128 := BitVec.ofNat 128 (2 + 0x11 * 4)
  vendorKeyHash : BitVec 384 := 0
  vendorDebugKeyHash : BitVec 384 := 0
  licenseeDebugKeyHash : BitVec 384 := 0
  minSvn : Nat := 0
  /-- Failed physical cores: cluster and core (R451). -/
  failedCores : List (Nat × Nat) := []
  retiredClusters : List Nat := []
  /-- Retired stack channels: port and channel (R424). -/
  retiredChannels : List (Nat × Nat) := []
  /-- Failed bond wires found at assembly: channel, direction and wire (R421). -/
  bondWires : List (Nat × Nat × Nat) := []
  deriving DecidableEq, Repr

/-! ### Device state and start-up -/

/-- The fields of the boot configuration in use (R512). -/
structure BootCfg where
  valid : Bool := false
  pciIds : Nat := 0
  roleTable : Nat := 0
  stackCount : Nat := 0
  stackRate : Bool := false
  hostClocking : Bool := false
  orchardProtect : Bool := false
  ucieDebug : Bool := false
  ucieModules : Nat := 0
  ucieVectorModule : Nat := 0
  powerLimit : Nat := 2500
  cxlCtx : Nat := 0
  ucieVectorMask : Nat := 0
  deriving DecidableEq, Repr

/-- Which firmware image runs (R516). -/
inductive FwImage where
  | slot (n : Nat) | recovery | i3c
  deriving DecidableEq, Repr

/-- How the boot flash is driven (R434): 1S-1S-1S at 25 MHz, or 8D-8D-8D at up to 200 MHz; both with 4-byte addresses. -/
inductive FlashMode where
  | serial | octal
  deriving DecidableEq, Repr

/-- ENG_STATE and what start-up establishes (R354, R432, R515). -/
structure Sys where
  engState : EngState := .reset
  safeCause : SafeCause := .none
  bootStep : Nat := 0
  lowerUp : Bool := false
  upperUp : Bool := false
  hostAttached : Bool := false
  debugUnlocked : Bool := false
  /-- Key selector of the unlock, for measurement 6 (R502). -/
  debugKeySel : Nat := 0
  attachEpoch : Word32 := 0
  /-- ENG_VERSION.EFPEL_PROTOCOL (R3). -/
  protocol : Nat := 0
  chainRoot : Bool := false
  bootSrc : Nat := 0
  /-- The boot flash is first read in 1S-1S-1S (R434). -/
  flashMode : FlashMode := .serial
  cfg : BootCfg := {}
  runningImage : Option FwImage := none
  /-- The image that the last start booted; ACTIVATE does not change it (R498, R516). -/
  bootedImage : Option FwImage := none
  runningSvn : Nat := 0
  /-- Step 6 has found no valid image; SAFE follows step 8 (R517). -/
  bootFail : Bool := false
  /-- The calibration set in use (R494); empty: every unit takes built-in defaults. -/
  calInUse : List Byte := []
  /-- Every transfer, engine, admission and record post has stopped and the state is frozen (R463, R464, R471). -/
  frozen : Bool := false
  /-- Image registers of R491. -/
  imgOffset : Word32 := 0
  imgBusy : Bool := false
  imgStatus : Nat := 0
  imgData : List Host.Cell := []
  deriving DecidableEq, Repr

/-! ### Mailbox, debug window, fault queue and interrupts -/

/-- What a mailbox command whose checks have passed still waits for. -/
inductive JobWait where
  /-- The command's work is done; a deferred command only has its end to report (R358). -/
  | ended
  | publish (id : Nat)
  | tableDelete (handle : Nat)
  | tableLoad (id : Nat)
  | relay (id : Nat)
  | unmap (devBase : Nat)
  | ctxDestroy (ctx : Nat)
  | queueDestroy (queue : Nat)
  | fwActivate
  | rekey (ctx : Nat)
  | reenumerate
  | migrateOut (devAddr len : Nat)
  | windowClose (window : Nat)
  | programLoad (slot id : Nat)
  | orchard (id : Nat)
  | shardMap (id : Nat)
  | codeRelease (ctx slot : Nat)
  /-- Rows move out of the way of a TABLE_CREATE with MODIFY, a RANGE_MAP or a T4_ATTACH (R212, R214, R250). -/
  | placing (id : Nat)
  deriving DecidableEq, Repr

/-- A mailbox command in execution, in the mailbox or under a ticket (R356, R358). -/
structure Running where
  opcode : Nat := 0
  tag : Word32 := 0
  issuer : Nat := 0
  wait : JobWait := .ended
  /-- The status and result block, once they are decided. -/
  status : Option Status := none
  result : BitVec 2048 := 0
  /-- The end has been reported: TICKET_DONE was set (R358). -/
  reported : Bool := false
  deriving DecidableEq, Repr

/-- The mailbox block (R355) and the outstanding tickets (R358). -/
structure Mailbox where
  opcode : Half16 := 0
  issuer : Byte := 0
  tag : Word32 := 0
  busy : Bool := false
  done : Bool := false
  collision : Bool := false
  status : Half16 := 0
  tagEcho : Word32 := 0
  ticketDone : Word64 := 0
  args : BitVec 2048 := 0
  result : BitVec 2048 := 0
  /-- The command that keeps BUSY at 1. -/
  running : Option Running := none
  /-- Outstanding tickets by number (R358). -/
  tickets : Tab Running := []
  deriving DecidableEq, Repr

/-- One fault record (R456, R458): the fields of the common part and the class-specific part. -/
structure FaultRecord where
  cls : FaultClass
  sev : Severity
  ctx : Option Nat := none
  deferred : Bool := false
  task : Option (Nat × Nat) := none
  recordSeq : Nat := 0
  time : Nat := 0
  location : Nat := 0
  spec : Nat := 0
  /-- The outstanding-fault entry that the record announces (R340, R343), whose record is written again when it was
  dropped. -/
  tag : Option Nat := none
  deriving DecidableEq, Repr

/-- The fault-queue block (R392) and the faults that wait to be written (R393, R515). -/
structure FaultQueue where
  base : Word64 := 0
  enable : Bool := false
  prod : Word32 := 0
  cons : Word32 := 0
  dropped : Nat := 0
  droppedOvf : Bool := false
  classDropped : Tab Nat := []
  /-- Faults on which streams wait, in the order in which they arose, to be written again (R393). -/
  waiting : List FaultRecord := []
  /-- LINK records of start-up, kept until the queue is enabled (R515). -/
  kept : List FaultRecord := []
  recordSeq : Nat := 0
  deriving DecidableEq, Repr

/-- One MSI-X table entry (BAR4, R351). -/
structure MsixEntry where
  addr : Word64 := 0
  data : Word32 := 0
  masked : Bool := true
  deriving DecidableEq, Repr

/-- The interrupt block (R394) and the function's MSI-X state (R395). -/
structure Irq where
  causes : BitVec 7 := 0
  enables : BitVec 7 := 0
  msixEnable : Bool := false
  msixTable : Tab MsixEntry := []
  /-- Vectors whose pending bit is set, ascending. -/
  pending : List Nat := []
  deriving DecidableEq, Repr

/-- The debug window (R401) and the snapshot it holds (R402). -/
structure DebugWin where
  selector : Half16 := 0
  ctx : Byte := 0
  offset : BitVec 24 := 0
  index : Word64 := 0
  busy : Bool := false
  status : Half16 := 0
  length : Word32 := 0
  snapshot : List Byte := []
  deriving DecidableEq, Repr

/-- What HOST_ATTACH keeps for the next driver (R400), and whether the host is lost (R397). -/
structure Attach where
  preservedAddr : Word64 := 0
  preservedBytes : Word64 := 0
  driverCookie : Word64 := 0
  /-- The host port is lost and not yet up again (R397). -/
  lost : Bool := false
  /-- A host loss has happened since the last HOST_ATTACH, so that T3_INTACT matters (R400). -/
  lossSinceAttach : Bool := false
  deriving DecidableEq, Repr

/-- One entry of the host-write journal (R398). -/
structure JournalEntry where
  ctx : Nat
  queue : Nat
  seq : Nat
  allRanges : Bool
  first : Nat
  last : Nat
  epoch : Nat
  deriving DecidableEq, Repr

/-- The host-write journal: range entries in the order written, and marker entries (R398). -/
structure Journal where
  ranges : List JournalEntry := []
  markers : List JournalEntry := []
  deriving DecidableEq, Repr

/-! ### Contexts, queues and tasks -/

/-- What waits on a semaphore (R314): a SEM_WAIT task, or a stream entry of a COPY. -/
inductive SemWho where
  | task (queue seq : Nat)
  | entry (queue seq entry : Nat)
  deriving DecidableEq, Repr

/-- One waiter of a semaphore, with its count (R314). -/
structure SemWaiter where
  sem : Nat
  count : Nat
  who : SemWho
  deriving DecidableEq, Repr

/-- The arming state of one stream (R317): its number, the arming that runs and the one that waits. -/
structure Arming where
  num : Nat := 0
  running : Option (Nat × Nat) := none
  waiting : Option (Nat × Nat) := none
  deriving DecidableEq, Repr

/-- The state of a code-table slot (R245). -/
inductive CodeState where
  | free | loaded | active
  deriving DecidableEq, Repr

/-- One code-table slot of a context (R245, R246). -/
structure CodeSlot where
  state : CodeState := .free
  loadId : Nat := 0
  image : List Byte := []
  deriving DecidableEq, Repr

/-- A context (R361). -/
structure Ctx where
  peerCompress : Bool := false
  /-- Semaphore values that are not zero (R313). -/
  sems : Tab Nat := []
  /-- Waiters of all semaphores, in the order in which their waits began (R314). -/
  waiters : List SemWaiter := []
  armings : Tab Arming := []
  codeSlots : Tab CodeSlot := []
  /-- The last TABLE_LOAD_ID given (R246). -/
  codeLoadId : Nat := 0
  key : Option (BitVec 512) := none
  /-- The key under which pages are still encrypted while a REKEY runs (R503). -/
  oldKey : Option (BitVec 512) := none
  destroying : Bool := false
  deriving DecidableEq, Repr

/-- A queue (R362, R363). -/
structure Queue where
  ctx : Nat := 0
  slotsLog2 : Nat := 4
  vector : Nat := 4
  maxActive : Nat := 1
  holdoffUs : Nat := 0
  sqAddr : Nat := 0
  cqAddr : Nat := 0
  cqHead : Word32 := 0
  state : QState := .running
  badDoorbell : Bool := false
  nextSeq : Word32 := 0
  sqTail : Word32 := 0
  posted : Word32 := 0
  rereads : Nat := 0
  /-- A completion interrupt waits for the coalescing interval to end (R395). -/
  holdoffPending : Bool := false
  /-- Records held back in HOST_HOLD, in posting order, by SEQ (R397). -/
  held : List Nat := []
  /-- Records that QUEUE_DESTROY could not post (R367). -/
  discarded : Nat := 0
  /-- Its completion ring lies in a HOST range, and a host loss has put it out of reach until QUEUE_RESUME (R367, R397). -/
  ringLost : Bool := false
  deriving DecidableEq, Repr

/-- DETAIL_KIND, DETAIL0 and DETAIL1 of a completion (R377). -/
structure Detail where
  kind : Nat := 0
  d0 : Nat := 0
  d1 : Nat := 0
  deriving DecidableEq, Repr

/-- A binding entry (R370). -/
structure Binding where
  handle : Nat
  mode : Nat
  gen : Nat
  deriving DecidableEq, Repr

/-- A task (R364, R369 to R376). -/
structure Task where
  queue : Nat := 0
  seq : Nat := 0
  ctx : Nat := 0
  ttype : TaskType := .fence
  typeCode : Nat := 10
  interrupt : Bool := false
  userTag : Word64 := 0
  partition : Nat := 0
  deadlineUs : Nat := 0
  waitHintUs : Nat := 0
  bindings : List Binding := []
  /-- The task-specific part of the descriptor. -/
  part : List Byte := []
  state : TaskState := .queued
  status : Status := .ok
  detail : Detail := {}
  queuedAt : Nat := 0
  admittedAt : Nat := 0
  finalAt : Nat := 0
  wasActive : Bool := false
  /-- The effect of a SEM_SIGNAL, SEM_WAIT or FENCE has come about; its completion is left. -/
  effected : Bool := false
  journaled : Bool := false
  posted : Bool := false
  /-- Records posted to the queue's ring before this one (R376). -/
  postIndex : Nat := 0
  /-- The task-specific completion part (R376). -/
  record : List Byte := []
  /-- DEV_BASE of each range in which an address field was resolved (R332, R335). -/
  ranges : List Nat := []
  /-- Tables bound at admission, each with its published generation or none for the working one (R78). -/
  bound : List (Nat × Option Nat) := []
  /-- Host ranges written to: DEV_BASE, lowest and highest device address (R398). -/
  hostWrites : List (Nat × Nat × Nat) := []
  /-- A loss in flight has been computed again for it (R447). -/
  recomputed : Bool := false
  deriving DecidableEq, Repr

/-! ### Ranges, windows, translation -/

/-- The kinds of range (R329). -/
inductive RangeKind where
  | stack | expander | host | flash | peer
  deriving DecidableEq, Repr

/-- KIND of R329. -/
def RangeKind.code : RangeKind → Nat
  | .stack => 0 | .expander => 1 | .host => 2 | .flash => 3 | .peer => 4

/-- The kind that KIND names (R329). -/
def RangeKind.ofCode : Nat → Option RangeKind
  | 0 => some .stack | 1 => some .expander | 2 => some .host | 3 => some .flash | 4 => some .peer | _ => none

/-- A range (R329, R330, R332, R343), keyed by DEV_BASE. -/
structure Range where
  kind : RangeKind := .stack
  ctx : Nat := 0
  r : Bool := false
  w : Bool := false
  a : Bool := false
  pinned : Bool := false
  tierPool : Bool := false
  migratable : Bool := false
  pasidValid : Bool := false
  pasid : Nat := 0
  chainAddr : Nat := 0
  windowId : Nat := 0
  len : Nat := 0
  hostStart : Nat := 0
  unmapping : Bool := false
  /-- MIGRATABLE: pages on the device, by page number in the range, with the device address that holds each (R343). -/
  devicePages : Tab Nat := []
  /-- Pages of a FLASH range that have been written, by T4 page (R330). -/
  writtenPages : List Nat := []
  deriving DecidableEq, Repr

/-- An open window (R347), keyed by WINDOW_ID. -/
structure Window where
  ctx : Nat := 0
  base : Nat := 0
  len : Nat := 0
  r : Bool := false
  w : Bool := false
  a : Bool := false
  mask : Nat := 0
  deriving DecidableEq, Repr

/-- A translation copy (R336). `pasid` is 0 without PASID and PASID + 1 with it. -/
structure AtsCopy where
  pasid : Nat
  hostAddr : Nat
  len : Nat
  translated : Nat
  read : Bool
  write : Bool
  lastUse : Nat
  deriving DecidableEq, Repr

/-- An entry of the outstanding-fault table (R340, R343). -/
structure OutFault where
  /-- 0 without PASID, PASID + 1 with it; for a MIGRATE_REQUEST the DEV_BASE of the range. -/
  space : Nat
  migrate : Bool
  hostPage : Nat
  devAddr : Nat
  accR : Bool
  accW : Bool
  /-- Transfers that wait, oldest first. -/
  waiters : List Nat
  firstTask : Nat × Nat
  firstStream : Nat
  ctx : Nat
  recorded : Bool
  requested : Bool
  /-- The one further page request for waiters whose access was not granted has been sent (R341). -/
  further : Bool
  deriving DecidableEq, Repr

/-- The host port's translation state (R336, R340, R341). -/
structure Ats where
  copies : List AtsCopy := []
  /-- Translation requests outstanding: address space, host page. -/
  requests : List (Nat × Nat) := []
  /-- Invalidations received whose completion is not yet sent (R337): pasid, and the transfers that must end first. -/
  invalidating : List (Nat × List Nat) := []
  outFaults : Tab OutFault := []
  /-- The host has enabled PRI; cleared by a Response Failure (R341). -/
  priEnabled : Bool := true
  /-- The host has enabled PASID on the port (R331). -/
  pasidEnabled : Bool := true
  deriving DecidableEq, Repr

/-! ### Streams -/

/-- One transfer of a stream (R303). -/
structure Transfer where
  queue : Nat := 0
  seq : Nat := 0
  entry : Nat := 0
  replica : Nat := 0
  src : Nat := 0
  dst : Nat := 0
  len : Nat := 0
  op : Nat := 0
  critical : Bool := false
  /-- Issued and in flight; otherwise it waits to issue. -/
  issued : Bool := false
  /-- Stalled on an outstanding fault, or on a translation request (R301, R340). -/
  stalled : Bool := false
  /-- Headwind has held it at least once (R307, R326). -/
  held : Bool := false
  /-- A T4 request of the transfer has failed, or has timed out (R252). -/
  lost : Option Bool := none
  /-- The source bytes, once they have come from a chained device (R349). -/
  data : Option (List Byte) := none
  /-- The request that carries the bytes to a chained device or to flash has gone out. -/
  sentOut : Bool := false
  /-- A transfer of a stream that the device builds for its task's own reads and writes (R297): true for a write. A read that has
  come holds `data` until it is taken, or the task ends. -/
  gate : Option Bool := none
  /-- The replica whose bytes are forwarded to this one, and whether a later replica takes these (R312). -/
  chain : Option Nat := none
  feeds : Bool := false
  /-- When it was cut from its entry, for the 20 µs of R309. -/
  since : Nat := 0
  deriving DecidableEq, Repr

/-- Bytes that a replica of an entry has received and holds for the next of its chain (R312). -/
structure ChainPiece where
  entry : Nat
  replica : Nat
  src : Nat
  bytes : List Byte
  deriving DecidableEq, Repr

/-- The stream of an admitted COPY (R298, R302). -/
structure Stream where
  streamId : Nat := 0
  entries : Nat := 0
  listAddr : Nat := 0
  arming : Nat := 0
  /-- The arming runs; a waiting arming has not started (R317). -/
  started : Bool := false
  nextEntry : Nat := 0
  /-- The entry at `nextEntry` as it was read when the stream reached it (R300), while it waits on its semaphore (R314), and
  whether it has been served. -/
  reached : Option Nat := none
  entryServed : Bool := false
  /-- Semaphores that entries with SIGNAL still have to signal, by entry (R299). -/
  signals : Tab Nat := []
  /-- Entries that are complete, and above every complete prefix. -/
  completeBelow : Nat := 0
  completeSet : List Nat := []
  /-- Entries of which a transfer ended without its effect. -/
  broken : List Nat := []
  relays : List ChainPiece := []
  bytesWritten : Nat := 0
  memOvf : Nat := 0
  memNonfinite : Nat := 0
  badEntry : Nat := 0
  badReason : Nat := 0
  deriving DecidableEq, Repr

/-- Streams, transfers and regulation (R297 to R310). -/
structure Streams where
  /-- Streams by task (queue × 2^32 + SEQ). -/
  streams : Tab Stream := []
  transfers : Tab Transfer := []
  nextTransfer : Nat := 0
  /-- RATE and BURST by partition × 4 + path; absent: RATE 0xFFFF, BURST 1,024 (R308). -/
  policy : Tab (Nat × Nat) := []
  /-- Token buckets by partition × 32 + port, in bytes; absent: full (R307). -/
  tokens : Tab Int := []
  /-- Stack ports that use PRIORITY (R308). -/
  priorityPorts : List Nat := []
  /-- PRIORITY ports whose last issue was of a critical transfer (R310). -/
  lastCritical : List Nat := []
  deriving DecidableEq, Repr

/-- One stack port (R321 to R326, R455). -/
structure StackPort where
  capacity : Nat := 0
  lost : Bool := false
  level : Nat := 0
  temp : Int := 0
  level2Since : Option Nat := none
  /-- The seven counters of R326 and their overflow bits. -/
  counters : Tab Nat := []
  overflow : Tab Bool := []
  retiredChannel : Option Nat := none
  /-- Row repairs by channel (R455). -/
  rowRepairs : Tab Nat := []
  /-- Channel whose retirement a STACK range holds (R455). -/
  retireBlocked : Option Nat := none
  deriving DecidableEq, Repr

/-! ### Power -/

/-- One island (R470, R474, R475). -/
structure Island where
  level : Nat := 0
  temp : Int := 0
  /-- Island clock k × 31.25 MHz (R430). -/
  k : Nat := 16
  grant : Nat := 0
  credit : Nat := 0
  demand : Nat := 0
  stalled : Bool := false
  deriving DecidableEq, Repr

/-- The Lull state of a pair (R478), and a transition in progress. -/
structure Lull where
  state : Nat := 0
  entering : Option Nat := none
  waking : Bool := false
  deriving DecidableEq, Repr

/-- The power manager (R473 to R481). -/
structure Power where
  /-- Islands that differ from `base`. -/
  islands : Tab Island := []
  base : Island := {}
  lull : Tab Lull := []
  lowerDomain : Int := 0
  upperDomain : Int := 0
  /-- B of R475 in core-cycles per µs. -/
  budget : Nat := 786432000
  meanWatts : Nat := 0
  /-- LIMIT_W of a POWER_HINT, 0 for the boot value (R477). -/
  limitHint : Nat := 0
  kMax : Nat := 40
  lullFloor : Nat := 3
  /-- Expiry of the NEXT_EVENT hint, in 10 ns (R479). -/
  nextEventAt : Option Nat := none
  limited : Bool := false
  /-- Estimated energy in tenths of a mJ that ENERGY_MJ does not yet hold (R484). -/
  energyRest : Nat := 0
  /-- Halves whose islands the lasting level 2 of a stack caps (R325). -/
  level2Halves : List Nat := []
  deriving DecidableEq, Repr

/-! ### Faults and sparing -/

/-- The core map of a cluster (R451), as what differs from the map built at start-up. -/
structure CoreMap where
  /-- Physical core of each logical core that was replaced since start-up. -/
  replaced : Tab Nat := []
  /-- Physical cores that the fuses or the repair log mark as failed at start-up. -/
  failed : List Nat := []
  /-- Physical cores that have failed since. -/
  worn : List Nat := []
  deriving DecidableEq, Repr

/-- A word that is being rebuilt, or whose frames are being computed again (R446, R447). -/
structure Rebuild where
  loc : Nat := 0
  /-- PATH of the record (R458). -/
  path : Nat := 1
  key : Option Nat := none
  task : Option (Nat × Nat) := none
  deriving DecidableEq, Repr

/-- Fencing, hard faults and sparing (R445 to R455). -/
structure Faults where
  /-- Fenced words outside rows (R449), at most 65,536: location code, and RECORD_SEQ of the record that named it. -/
  fences : Tab Nat := []
  /-- Words corrected on the last patrol pass: location code, symbol (R445). -/
  marks : Tab Nat := []
  /-- Location codes of words with hard faults (R445). -/
  hard : List Nat := []
  /-- Uncorrectable words that were rebuilt, by core number: core and time (R453). -/
  recent : List (Nat × Nat) := []
  /-- Words of program memory that were replaced from the master copy: core and time (R206, R453). -/
  programRecent : List (Nat × Nat) := []
  coreMaps : Tab CoreMap := []
  retiredClusters : List Nat := []
  /-- Clusters in service that must leave it (R454). -/
  leaving : List Nat := []
  /-- Cores whose replacement is in progress: logical core and spare (R453). -/
  replacing : Tab Nat := []
  /-- DRAM rows under repair, by device address (R455). -/
  repairing : List Nat := []
  /-- Channels being retired: port × 32 + channel. -/
  retiring : List Nat := []
  /-- Rebuilds and recomputations in progress, by number (R446, R447). -/
  rebuilds : Tab Rebuild := []
  nextRebuild : Nat := 0
  /-- Corrections since the last CORRECTED summary, by kind (R442). -/
  sinceSummary : Tab Nat := []
  lastSummary : Tab Nat := []
  /-- Times of the last corrections on a bond wire, by channel × 2,048 + direction × 1,024 + wire (R421). -/
  wireHits : Tab (List Nat) := []
  deriving DecidableEq, Repr

/-- A management processor (R461, R462). -/
structure MpState where
  failed : Bool := false
  lastBeat : Nat := 0
  failedAt : Nat := 0
  restarts : Nat := 0
  /-- The survivor holds the duties (R462). -/
  handedOver : Bool := false
  gaveUp : Bool := false
  /-- A copy of the recovery sequencer of this half disagrees (R464). -/
  sequencerOut : Bool := false
  restarting : Bool := false
  deriving DecidableEq, Repr

/-! ### Events and counters -/

/-- One event of the log (R486). -/
structure Event where
  code : EventCode
  seq : Word32
  time : Nat
  args : Nat
  deriving DecidableEq, Repr

/-- The event log (R485). -/
structure EventLog where
  events : List Event := []
  nextSeq : Word32 := 0
  deriving DecidableEq, Repr

/-- The statistics counters of R484 and R457: values and sticky overflow bits by counter number. -/
structure Counters where
  values : Tab Nat := []
  overflow : Tab Bool := []
  deriving DecidableEq, Repr

/-! ### I3C, TAP, attestation, firmware update -/

/-- The I3C target (R487, R490). -/
structure I3c where
  dynAddr : Option Nat := none
  offset : Nat := 0
  mwl : Nat := 258
  mrl : Nat := 256
  ibiEnabled : Bool := false
  /-- Mandatory bytes of IBIs that are pending (R490). -/
  pending : List Nat := []
  rstAction : Nat := 0
  deriving DecidableEq, Repr

/-- The instructions of the test access port (R403, R435). -/
inductive TapInstr where
  | bypass | idcode | sample | preload | extest | clamp | highz | fuseRead
  deriving DecidableEq, Repr

/-- The test access port (R435). -/
structure Tap where
  instr : TapInstr := .idcode
  cells : List Bool := []
  deriving DecidableEq, Repr

/-- An SPDM session (R501). -/
structure SpdmSession where
  id : Nat
  established : Bool
  keyGen : Nat := 0
  deriving DecidableEq, Repr

/-- The SPDM responder (R501). -/
structure Spdm where
  versionDone : Bool := false
  capsDone : Bool := false
  algDone : Bool := false
  sessions : List SpdmSession := []
  deriving DecidableEq, Repr

/-- Firmware update and debug unlock (R498, R499, R504, R505). -/
structure FwUpd where
  /-- An image has been staged since the last COMMIT or ABORT, by TARGET. -/
  stagedFw : Bool := false
  stagedCfg : Bool := false
  verifiedFw : Bool := false
  verifiedCfg : Bool := false
  activating : Bool := false
  /-- Processors that run the staged image while an ACTIVATE runs (R499). -/
  activateStep : Nat := 0
  /-- Failed starts of the staged image while an ACTIVATE runs (R499). -/
  activateFails : Nat := 0
  nonce : Option (BitVec 256) := none
  nonceAt : Nat := 0
  unlockRefusals : Nat := 0
  deriving DecidableEq, Repr

/-! ### Links -/

/-- A flit that the device has sent and keeps (R407). -/
structure SentFlit where
  seq : Nat
  flit : BitVec 2048
  deriving DecidableEq, Repr

/-- A delivery message that licensee logic has not acknowledged whole (R413). -/
structure Delivery where
  stream : Nat
  bytes : List Byte
  queue : Nat
  seq : Nat
  /-- The bag, or the position of the sample. -/
  item : Nat
  /-- FLIT_SEQ of its last flit, once sent. -/
  lastSeq : Option Nat := none
  deriving DecidableEq, Repr

/-- A message received in part, by class and channel (R407). -/
structure PartialMsg where
  cls : Nat
  channel : Nat
  bytes : List Byte
  deriving DecidableEq, Repr

/-- One UCIe module (R404 to R413). -/
structure Ucie where
  up : Bool := false
  lanes : Nat := 0
  /-- A HELLO has arrived, and PROTOCOL_VERSION agrees (R410). -/
  helloOk : Bool := false
  classes : Nat := 0
  txSeq : Nat := 0
  rxSeq : Nat := 0
  rxAny : Bool := false
  nakSent : Bool := false
  kept : List SentFlit := []
  /-- Credits granted to the device, in 16-byte units, by class; delivery stream c at 32 + c (R409). -/
  credits : Tab Nat := []
  partials : List PartialMsg := []
  /-- Messages that wait for credit: class, channel and bytes (R409). -/
  waiting : List (Nat × Nat × List Byte) := []
  deliveries : List Delivery := []
  hdmBase : Nat := 0
  deriving DecidableEq, Repr

/-- A link of the host, expander or peer kind. -/
structure Link where
  up : Bool := false
  lanes : Nat := 0
  capacity : Nat := 0
  deriving DecidableEq, Repr

/-- One bond channel (R418 to R422). Directions are 0 (lower to upper) and 1. -/
structure Bond where
  failed0 : List Nat := []
  failed1 : List Nat := []
  half : Bool := false
  sub0 : Nat := 0
  sub1 : Nat := 0
  lost : Bool := false
  deriving DecidableEq, Repr

/-- The ports' links. -/
structure Links where
  host : Link := {}
  expanders : Tab Link := []
  peers : Tab Link := []
  ucie : Tab Ucie := []
  bonds : Tab Bond := []
  deriving DecidableEq, Repr

/-! ### What the device has sent -/

/-- What the device sends through its ports, in the order sent. -/
inductive OutMsg where
  | msix (vector : Nat) (addr : Word64) (data : Word32)
  | control (module : Nat) (msg : Word128)
  | nak (module : Nat) (ackSeq : Nat)
  /-- A message of a class and channel, in as many flits as it takes. -/
  | message (module : Nat) (cls channel : Nat) (bytes : List Byte) (replay : Bool)
  /-- A flit sent again after a NAK. -/
  | resentFlit (module : Nat) (flit : BitVec 2048)
  | cxlData (module tag : Nat) (bytes : List Byte)
  | cxlDone (module tag : Nat)
  | debugReply (module offset : Nat) (value : Word64)
  | peer (port : Nat) (hdr : Word128) (payload : List Byte)
  | peerEnum (port : Nat) (kind : Nat) (args : List Nat)
  | peerResend (port : Nat)
  | atsRequest (space : Nat) (hostPage : Nat)
  | pageRequest (space : Nat) (hostPage : Nat) (read write : Bool)
  | atsInvalidationDone (pasid : Nat)
  | i3c (bytes : List Byte)
  | ibi (kind : Nat)
  | tap (bits : List Bool)
  | spdm (code : Nat) (body : List Byte)
  | bondResend (channel dir : Nat)
  deriving DecidableEq, Repr

end Sys2Proof.Machine
end

