-- ==== Sys2Proof/Machine/Num.lean ====
section
/-! DEFINITION. Number formats (R29 to R38): exact values, the one rounding to nearest-even, every conversion between
formats, and the FP32 cell operations. -/

namespace Sys2Proof.Machine

/-- The element formats of R29. -/
inductive Format where
  | fp32 | bf16 | fp16 | e4m3 | e5m2 | e3m2 | e2m1 | int8 | int4 | int32
  deriving DecidableEq, Repr

/-- The format of a format code (R29); codes 0xA to 0xF are reserved. -/
def formatOf (code : Nat) : Option Format :=
  match code with
  | 0 => some .fp32 | 1 => some .bf16 | 2 => some .fp16 | 3 => some .e4m3 | 4 => some .e5m2
  | 5 => some .e3m2 | 6 => some .e2m1 | 7 => some .int8 | 8 => some .int4 | 9 => some .int32
  | _ => none

/-- The scaling codes of R32. -/
inductive Scaling where
  | none | rowScale | mxBlock | rowScaleBias
  deriving DecidableEq, Repr

/-- The scaling of a scaling code (R32). -/
def scalingOf (code : Nat) : Option Scaling :=
  match code with
  | 0 => some .none | 1 => some .rowScale | 2 => some .mxBlock | 3 => some .rowScaleBias
  | _ => Option.none

/-- Width of an element in bits (R29). -/
def formatWidth : Format → Nat
  | .fp32 => 32 | .bf16 => 16 | .fp16 => 16 | .e4m3 => 8 | .e5m2 => 8 | .e3m2 => 6 | .e2m1 => 4
  | .int8 => 8 | .int4 => 4 | .int32 => 32

/-- Mantissa bits of a floating-point format (R29); 0 for the integers. -/
def manBits : Format → Nat
  | .fp32 => 23 | .bf16 => 7 | .fp16 => 10 | .e4m3 => 3 | .e5m2 => 2 | .e3m2 => 2 | .e2m1 => 1
  | _ => 0

/-- The exponent of the smallest subnormal of a floating-point format (R29). -/
def qmin : Format → Int
  | .fp32 => -149 | .bf16 => -133 | .fp16 => -24 | .e4m3 => -9 | .e5m2 => -16 | .e3m2 => -4
  | .e2m1 => -1 | _ => 0

/-- The magnitude bits of the largest finite value (R29). -/
def maxFinite : Format → Nat
  | .fp32 => 0x7F7FFFFF | .bf16 => 0x7F7F | .fp16 => 0x7BFF | .e4m3 => 0x7E | .e5m2 => 0x7B
  | .e3m2 => 0x1F | .e2m1 => 0x7 | .int8 => 127 | .int4 => 7 | .int32 => 2147483647

/-- The format has infinities (R29). -/
def hasInf : Format → Bool
  | .fp32 => true | .bf16 => true | .fp16 => true | .e5m2 => true | _ => false

/-- The format is one of the integers. -/
def isInt : Format → Bool
  | .int8 => true | .int4 => true | .int32 => true | _ => false

/-- FORMAT and SCALING may stand together (R32). -/
def scalingPermits (f : Format) (s : Scaling) : Bool :=
  match s with
  | .none => f == .fp32 || f == .bf16 || f == .fp16 || f == .e4m3 || f == .e5m2
  | .rowScale => f == .e4m3 || f == .e5m2 || f == .e3m2 || f == .e2m1 || f == .int8 || f == .int4
  | .mxBlock => f == .e4m3 || f == .e5m2 || f == .e3m2 || f == .e2m1
  | .rowScaleBias => f == .int8 || f == .int4

/-- An exact value: not a number, an infinity, or the fraction `(-1)^neg * num / den`, where the sign of a zero is kept. -/
inductive Val where
  | nan
  | inf (neg : Bool)
  | fin (neg : Bool) (num den : Nat)
  deriving DecidableEq, Repr

/-- +0. -/
def vzero : Val := .fin false 0 1

/-- The value is NaN or infinite. -/
def isNonfinite : Val → Bool
  | .nan => true
  | .inf _ => true
  | .fin .. => false

/-- The value is a zero of either sign. -/
def isZeroVal : Val → Bool
  | .fin _ n _ => n == 0
  | _ => false

/-- The value is NaN. -/
def isNanVal : Val → Bool
  | .nan => true
  | _ => false

/-- The value of an integer; zero is +0. -/
def valOfInt (i : Int) : Val := .fin (i < 0) i.natAbs 1

/-- `n / d` scaled by 2^e, as numerator and denominator. -/
def scale2 (n d : Nat) (e : Int) : Nat × Nat :=
  if 0 ≤ e then (n * 2 ^ e.toNat, d) else (n, d * 2 ^ (-e).toNat)

/-- `k * 2^e` with a sign, as an exact value. -/
def dyadic (neg : Bool) (k : Nat) (e : Int) : Val :=
  let p := scale2 k 1 e
  .fin neg p.1 p.2

/-- floor (log2 (n / d)), for n and d above 0. -/
def floorLog2 (n d : Nat) : Int :=
  let e : Int := (Nat.log2 n : Int) - (Nat.log2 d : Int)
  let p := scale2 d 1 e
  if p.1 ≤ n * p.2 then e else e - 1

/-- `n / d` rounded to the nearest integer, ties to even. -/
def rneNat (n d : Nat) : Nat :=
  let q := n / d
  let r := n % d
  if 2 * r < d then q else if d < 2 * r then q + 1 else q + q % 2

/-- The integer quotient `n / d` rounded to the nearest integer, ties to even (R43). -/
def rneInt (n : Int) (d : Nat) : Int :=
  if n < 0 then -(rneNat n.natAbs d : Int) else (rneNat n.natAbs d : Int)

/-- The magnitude bits of `n / d` rounded once to nearest-even with `man` mantissa bits and smallest exponent `q0`,
before any saturation: the bits of the next binade follow on, so that an overflow shows as bits above the largest finite. -/
def roundBits (man : Nat) (q0 : Int) (n d : Nat) : Nat :=
  if n == 0 then 0
  else
    let q := max (floorLog2 n d - man) q0
    let p := scale2 n d (-q)
    (q - q0).toNat * 2 ^ man + rneNat p.1 p.2

/-- The sign bit of a floating-point format set on magnitude bits. -/
def withSign (f : Format) (neg : Bool) (mag : Nat) : Nat :=
  if neg then mag + 2 ^ (formatWidth f - 1) else mag

/-- The exact value of floating-point bits with IEEE 754 layout. -/
def decodeFloat (f : Format) (raw : Nat) : Val :=
  let w := formatWidth f
  let neg := raw.testBit (w - 1)
  let mag := raw % 2 ^ (w - 1)
  let man := manBits f
  let ex := mag / 2 ^ man
  let frac := mag % 2 ^ man
  if f == .e4m3 && mag == 0x7F then .nan
  else if hasInf f && maxFinite f < mag then (if frac == 0 then .inf neg else .nan)
  else if ex == 0 then dyadic neg frac (qmin f)
  else dyadic neg (frac + 2 ^ man) (qmin f + ex - 1)

/-- The exact value of one stored element (R29, R35: decoding alone is exact). -/
def decodeElem (f : Format) (raw : Nat) : Val :=
  if isInt f then valOfInt (signedOf raw (formatWidth f)) else decodeFloat f raw

/-- The canonical NaN of the format (R29); formats without NaN give +0. -/
def canonicalNan : Format → Nat
  | .fp32 => 0x7FC00000 | .bf16 => 0x7FC0 | .fp16 => 0x7E00 | .e4m3 => 0x7F | .e5m2 => 0x7E
  | _ => 0

/-- A conversion's outcome: the bits, whether the input was NaN or infinite, and whether a finite input saturated (R36). -/
structure Conv where
  raw : Nat
  nonfinite : Bool
  saturated : Bool
  deriving DecidableEq, Repr

/-- Conversion to an integer format of a finite value: round once and clamp (R36). -/
def convertInt (f : Format) (neg : Bool) (n d : Nat) : Conv :=
  let w := formatWidth f
  let k := rneNat n d
  let lim := if neg then 2 ^ (w - 1) else 2 ^ (w - 1) - 1
  let m := min k lim
  { raw := if neg then (2 ^ w - m) % 2 ^ w else m, nonfinite := false, saturated := lim < k }

/-- The clamped integer that an infinity converts to (R36). -/
def intLimit (f : Format) (neg : Bool) : Nat :=
  let w := formatWidth f
  if neg then 2 ^ (w - 1) else 2 ^ (w - 1) - 1

/-- Conversion of an exact value to a format, rounding once to nearest-even (R36). -/
def convert (f : Format) (v : Val) : Conv :=
  match v with
  | .nan => { raw := canonicalNan f, nonfinite := true, saturated := false }
  | .inf neg =>
    { raw :=
        if isInt f then intLimit f neg
        else if f == .e4m3 then withSign f neg 0x7F
        else if hasInf f then withSign f neg (maxFinite f / 2 ^ manBits f * 2 ^ manBits f + 2 ^ manBits f)
        else withSign f neg (maxFinite f),
      nonfinite := true, saturated := false }
  | .fin neg n d =>
    if isInt f then convertInt f neg n d
    else
      let mag := roundBits (manBits f) (qmin f) n d
      if maxFinite f < mag then { raw := withSign f neg (maxFinite f), nonfinite := false, saturated := true }
      else { raw := withSign f neg mag, nonfinite := false, saturated := false }

/-! ### FP32 -/

/-- The exact value of FP32 bits. -/
def val32 (x : Word32) : Val := decodeFloat .fp32 x.toNat

/-- The canonical FP32 NaN (R38). -/
def nan32 : Word32 := 0x7FC00000

/-- An exact value rounded once to FP32 as IEEE 754 rounding to nearest gives: beyond the range, infinity (R35, R38). -/
def round32 (v : Val) : Word32 :=
  match v with
  | .nan => nan32
  | .inf neg => if neg then 0xFF800000 else 0x7F800000
  | .fin neg n d =>
    let mag := min (roundBits 23 (-149) n d) 0x7F800000
    BitVec.ofNat 32 (withSign .fp32 neg mag)

/-- The exact value of FP32 bits after the one rounding of R35. -/
def roundVal (v : Val) : Val := val32 (round32 v)

/-- The exact value negated (a sign change, exact for every value). -/
def negVal : Val → Val
  | .nan => .nan
  | .inf neg => .inf (!neg)
  | .fin neg n d => .fin (!neg) n d

/-- The exact sum, with the IEEE rules for infinities and the sign of a zero under rounding to nearest (R38). -/
def addVal (a b : Val) : Val :=
  match a, b with
  | .nan, _ => .nan
  | _, .nan => .nan
  | .inf s, .inf t => if s == t then .inf s else .nan
  | .inf s, .fin .. => .inf s
  | .fin .., .inf t => .inf t
  | .fin s n d, .fin t m e =>
    if n == 0 && m == 0 then .fin (s && t) 0 1
    else if s == t then .fin s (n * e + m * d) (d * e)
    else if n * e == m * d then .fin false 0 1
    else if m * d < n * e then .fin s (n * e - m * d) (d * e)
    else .fin t (m * d - n * e) (d * e)

/-- The exact product, zero times infinity giving NaN (R38). -/
def mulVal (a b : Val) : Val :=
  match a, b with
  | .nan, _ => .nan
  | _, .nan => .nan
  | .inf s, .inf t => .inf (s != t)
  | .inf s, .fin t m _ => if m == 0 then .nan else .inf (s != t)
  | .fin s n _, .inf t => if n == 0 then .nan else .inf (s != t)
  | .fin s n d, .fin t m e => .fin (s != t) (n * m) (d * e)

/-- The exact quotient with the IEEE rules for zeros and infinities. -/
def divVal (a b : Val) : Val :=
  match a, b with
  | .nan, _ => .nan
  | _, .nan => .nan
  | .inf _, .inf _ => .nan
  | .inf s, .fin t _ _ => .inf (s != t)
  | .fin s _ _, .inf t => .fin (s != t) 0 1
  | .fin s n d, .fin t m e =>
    if m == 0 then (if n == 0 then .nan else .inf (s != t)) else .fin (s != t) (n * e) (d * m)

/-- `a` is less than `b` as numbers; +0 and -0 are equal, NaN compares false. -/
def ltVal (a b : Val) : Bool :=
  match a, b with
  | .nan, _ => false
  | _, .nan => false
  | .inf s, .inf t => s && !t
  | .inf s, .fin .. => s
  | .fin .., .inf t => !t
  | .fin s n d, .fin t m e =>
    let x : Int := if s then -(n * e : Nat) else (n * e : Nat)
    let y : Int := if t then -(m * d : Nat) else (m * d : Nat)
    x < y

/-- `a` equals `b` as numbers. -/
def eqVal (a b : Val) : Bool := !isNanVal a && !isNanVal b && !ltVal a b && !ltVal b a

/-- The sign of a value; false for NaN. -/
def signVal : Val → Bool
  | .nan => false
  | .inf s => s
  | .fin s _ _ => s

/-- `a` comes below `b` for maximum and minimum: numerically less, or -0 against +0 (R38). -/
def belowVal (a b : Val) : Bool :=
  ltVal a b || (eqVal a b && signVal a && !signVal b)

/-- FP32 addition (R38). -/
def fadd (a b : Word32) : Word32 := round32 (addVal (val32 a) (val32 b))

/-- FP32 subtraction (R38). -/
def fsub (a b : Word32) : Word32 := round32 (addVal (val32 a) (negVal (val32 b)))

/-- FP32 multiplication (R38). -/
def fmul (a b : Word32) : Word32 := round32 (mulVal (val32 a) (val32 b))

/-- FP32 division, used by MEAN (R147, R170). -/
def fdiv (a b : Word32) : Word32 := round32 (divVal (val32 a) (val32 b))

/-- Fused multiply-add, rounded once (R38). -/
def ffma (a b c : Word32) : Word32 := round32 (addVal (mulVal (val32 a) (val32 b)) (val32 c))

/-- Negated fused multiply-add, `-(a * b) + c`, rounded once (R197). -/
def ffnma (a b c : Word32) : Word32 := round32 (addVal (negVal (mulVal (val32 a) (val32 b))) (val32 c))

/-- IEEE maximum: a NaN operand gives NaN and -0 is below +0 (R38). -/
def fmax (a b : Word32) : Word32 :=
  if isNanVal (val32 a) || isNanVal (val32 b) then nan32
  else if belowVal (val32 a) (val32 b) then b else a

/-- IEEE minimum (R38). -/
def fmin (a b : Word32) : Word32 :=
  if isNanVal (val32 a) || isNanVal (val32 b) then nan32
  else if belowVal (val32 b) (val32 a) then b else a

/-- The absolute value, exact, a NaN canonical (R197). -/
def fabs (a : Word32) : Word32 :=
  if isNanVal (val32 a) then nan32 else a &&& 0x7FFFFFFF

/-- The negation, exact, a NaN canonical (R38, R197). -/
def fneg (a : Word32) : Word32 :=
  if isNanVal (val32 a) then nan32 else a ^^^ 0x80000000

/-- compareQuiet less-than (R38). -/
def fltb (a b : Word32) : Bool := ltVal (val32 a) (val32 b)

/-- compareQuiet less-or-equal (R38). -/
def fleb (a b : Word32) : Bool := ltVal (val32 a) (val32 b) || eqVal (val32 a) (val32 b)

/-- compareQuiet equal (R38). -/
def feqb (a b : Word32) : Bool := eqVal (val32 a) (val32 b)

/-- compareQuiet unordered (R38). -/
def funb (a b : Word32) : Bool := isNanVal (val32 a) || isNanVal (val32 b)

/-- +0 as FP32. -/
def f0 : Word32 := 0

/-- 1.0 as FP32. -/
def f1 : Word32 := 0x3F800000

/-- An unsigned number rounded once to FP32 (R191). -/
def f32OfNat (n : Nat) : Word32 := round32 (.fin false n 1)

/-- A value to a target format held as FP32: the largest finite value of that format with a sign. -/
def largestFinite (f : Format) (neg : Bool) : Nat :=
  if isInt f then intLimit f neg else withSign f neg (maxFinite f)

end Sys2Proof.Machine
end

