-- ==== Sys2Proof/Machine/Binned.lean ====
section
/-! DEFINITION. The accumulators: binned mode (R39 to R51), plain FP32 mode (R52), arrival mode (R53), integer reductions
(R54), and maximum and minimum with winner index (R55, R145). -/

namespace Sys2Proof.Machine

/-- The special state of an accumulator element (R40). -/
inductive Special where
  | none | posInf | negInf | nan
  deriving DecidableEq, Repr

/-- The two bits that encode a special state (R40). -/
def specialCode : Special → Nat
  | .none => 0 | .posInf => 1 | .negInf => 2 | .nan => 3

/-- The special state of two bits (R40). -/
def specialOf (n : Nat) : Special :=
  match n % 4 with
  | 0 => .none | 1 => .posInf | 2 => .negInf | _ => .nan

/-- join of R46. -/
def joinSpecial (a b : Special) : Special :=
  match a, b with
  | .nan, _ => .nan
  | _, .nan => .nan
  | .none, x => x
  | x, .none => x
  | .posInf, .posInf => .posInf
  | .negInf, .negInf => .negInf
  | .posInf, .negInf => .nan
  | .negInf, .posInf => .nan

/-- The special state of a term (R43). -/
def specialOfVal : Val → Special
  | .nan => .nan
  | .inf neg => if neg then .negInf else .posInf
  | .fin .. => .none

/-- The value that a special state finishes as (R50). -/
def valOfSpecial : Special → Val
  | .none => vzero
  | .posInf => .inf false
  | .negInf => .inf true
  | .nan => .nan

/-- An accumulator element of binned mode (R40). `topBin` is the TOP_BIN field, 0xFE when the element is empty. -/
structure BinElem where
  topBin : Nat
  s0 : Int
  s1 : Int
  s2 : Int
  s3 : Int
  special : Special
  deriving DecidableEq, Repr

/-- The TOP_BIN of an element that has no finite non-zero term yet (R40). -/
def emptyBin : Nat := 0xFE

/-- The empty element. -/
def binEmpty : BinElem := { topBin := emptyBin, s0 := 0, s1 := 0, s2 := 0, s3 := 0, special := .none }

/-- The exponent of the unit of bin `b` (R39). -/
def binUnit (b : Nat) : Int := 12 * (b : Int) - 149

/-- bin(x) of a finite non-zero FP32 magnitude (R39). -/
def binOf (n d : Nat) : Nat := ((floorLog2 n d + 149) / 12).toNat

/-- part(x, b) of R43 for the magnitude `n / d` with a sign. -/
def binPart (neg : Bool) (n d b : Nat) : Int :=
  let p := scale2 n d (-(binUnit b))
  let m := (p.1 / p.2) % 4096
  if neg then -(m : Int) else (m : Int)

/-- shift_up(d) of R43: raises the window by `d` bins. -/
def shiftUp (e : BinElem) (d : Nat) : BinElem :=
  match d with
  | 0 => e
  | 1 => { e with topBin := e.topBin + 1, s0 := 0, s1 := e.s0, s2 := e.s1, s3 := e.s2 }
  | 2 => { e with topBin := e.topBin + 2, s0 := 0, s1 := 0, s2 := e.s0, s3 := e.s1 }
  | 3 => { e with topBin := e.topBin + 3, s0 := 0, s1 := 0, s2 := 0, s3 := e.s0 }
  | _ => { e with topBin := e.topBin + d, s0 := 0, s1 := 0, s2 := 0, s3 := 0 }

/-- The counts of a finite term added into the window, slot k only where bin `topBin - k` exists (R43). -/
def addParts (e : BinElem) (neg : Bool) (n d : Nat) : BinElem :=
  let t := e.topBin
  { e with
    s0 := e.s0 + binPart neg n d t
    s1 := if 1 ≤ t then e.s1 + binPart neg n d (t - 1) else e.s1
    s2 := if 2 ≤ t then e.s2 + binPart neg n d (t - 2) else e.s2
    s3 := if 3 ≤ t then e.s3 + binPart neg n d (t - 3) else e.s3 }

/-- deposit(x) of R43 for one FP32 term. -/
def deposit (e : BinElem) (x : Val) : BinElem :=
  match x with
  | .nan => { e with special := .nan }
  | .inf neg => { e with special := joinSpecial e.special (if neg then .negInf else .posInf) }
  | .fin neg n d =>
    if n == 0 then e
    else
      let b := binOf n d
      let e1 := if e.topBin == emptyBin then { e with topBin := b, s0 := 0, s1 := 0, s2 := 0, s3 := 0 } else e
      let e2 := if e1.topBin < b then shiftUp e1 (b - e1.topBin) else e1
      addParts e2 neg n d

/-- renormalise() of R43; an empty element stays as it is. -/
def renormalise (e : BinElem) : BinElem :=
  if e.topBin == emptyBin then e
  else
    let c3 := rneInt e.s3 4096
    let s3 := e.s3 - c3 * 4096
    let t2 := e.s2 + c3
    let c2 := rneInt t2 4096
    let s2 := t2 - c2 * 4096
    let t1 := e.s1 + c2
    let c1 := rneInt t1 4096
    let s1 := t1 - c1 * 4096
    let t0 := e.s0 + c1
    let c0 := rneInt t0 4096
    if c0 == 0 then { e with s0 := t0, s1 := s1, s2 := s2, s3 := s3 }
    else
      let e1 := shiftUp { e with s0 := t0 - c0 * 4096, s1 := s1, s2 := s2, s3 := s3 } 1
      { e1 with s0 := c0 }

/-- The window raised to bin `t`, where that is above it. -/
def raiseTo (e : BinElem) (t : Nat) : BinElem := if e.topBin < t then shiftUp e (t - e.topBin) else e

/-- merge(a, b) of R43. -/
def mergeBin (a b : BinElem) : BinElem :=
  let sp := joinSpecial a.special b.special
  if b.topBin == emptyBin then { a with special := sp }
  else if a.topBin == emptyBin then { b with special := sp }
  else
    let t := max a.topBin b.topBin
    let x := raiseTo a t
    let y := raiseTo b t
    { topBin := t, s0 := x.s0 + y.s0, s1 := x.s1 + y.s1, s2 := x.s2 + y.s2, s3 := x.s3 + y.s3, special := sp }

/-- One slot's share of V in units of 2^(-185), the unit of bin -3, where every slot is a whole number. -/
def slotUnits (s : Int) (t k : Nat) : Int := s * (2 ^ (12 * (t + 3 - k)) : Nat)

/-- V of R50 in units of 2^(-185). -/
def binSum (e : BinElem) : Int :=
  if e.topBin == emptyBin then 0
  else
    slotUnits e.s0 e.topBin 0 + slotUnits e.s1 e.topBin 1 + slotUnits e.s2 e.topBin 2 + slotUnits e.s3 e.topBin 3

/-- The exact value V of R50, or the special value; an exact zero is +0 (R51). -/
def binValue (e : BinElem) : Val :=
  match e.special with
  | .none =>
    let v := binSum e
    .fin (v < 0) v.natAbs (2 ^ 185)
  | sp => valOfSpecial sp

/-- The value divided exactly by a count (R147); the count of an empty group leaves it as it is. -/
def divCount (v : Val) (n : Nat) : Val :=
  match v with
  | .fin s m d => if n == 0 then .fin s m d else .fin s m (d * n)
  | x => x

/-- A finished element: its bits, whether it counts as non-finite, and whether it saturated (R50). -/
abbrev Finished := Conv

/-- A binned element, renormalised, finished to a format after division by `n` (n = 1 for every mode but MEAN) (R44, R50, R147). -/
def finishBin (f : Format) (e : BinElem) (n : Nat) : Finished := convert f (divCount (binValue (renormalise e)) n)

/-- Deposits between renormalisations (R41, R44). -/
def depositsPerRenorm : Nat := 1024

/-- Terms deposited one after the other into an empty element, renormalised after every 1,024 (R43, R44). -/
def depositAll (xs : List Val) : BinElem :=
  (xs.foldl (fun (a : BinElem × Nat) x =>
    let e := deposit a.1 x
    (if (a.2 + 1) % depositsPerRenorm = 0 then renormalise e else e, a.2 + 1)) (binEmpty, 0)).1

/-- A plain accumulator element (R52): the FP32 sum of its finite terms, if it has one yet, and the special state. -/
structure PlainElem where
  sum : Option Word32
  special : Special
  deriving DecidableEq, Repr

/-- The empty plain element. -/
def plainEmpty : PlainElem := { sum := none, special := .none }

/-- Two sums added, where either may still lack a term (R52). The spec states no start value of a plain accumulator: the model takes
the first term as it is, so that a lone -0 stays -0 (DESIGN CHOICE, log entry 72). -/
def addSums (a b : Option Word32) : Option Word32 :=
  match a, b with
  | none, y => y
  | x, none => x
  | some x, some y => some (fadd x y)

/-- One term added in plain mode (R52). -/
def plainAdd (e : PlainElem) (x : Word32) : PlainElem :=
  match specialOfVal (val32 x) with
  | .none => { e with sum := addSums e.sum (some x) }
  | sp => { e with special := joinSpecial e.special sp }

/-- Two plain partials added (R52, R143). -/
def plainMerge (a b : PlainElem) : PlainElem :=
  { sum := addSums a.sum b.sum, special := joinSpecial a.special b.special }

/-- A plain element finished to a format (R52); MEAN divides the FP32 sum by the count first (R147). -/
def finishPlain (f : Format) (e : PlainElem) (n : Nat) (mean : Bool) : Finished :=
  match e.special with
  | .none =>
    match val32 (e.sum.getD f0) with
    | .inf neg => { raw := largestFinite f neg, nonfinite := false, saturated := true }
    | .nan => { raw := canonicalNan f, nonfinite := true, saturated := true }
    | v => if mean && n != 0 then convert f (roundVal (divVal v (.fin false n 1))) else convert f v
  | sp => convert f (valOfSpecial sp)

/-- A maximum or minimum accumulator element: the value and its winner slot; `none` before the first term (R145). -/
structure ExtElem where
  best : Option (Word32 × Nat)
  deriving DecidableEq, Repr

/-- The empty maximum or minimum element. -/
def extEmpty : ExtElem := { best := none }

/-- Candidate `b` wins over `a`: it is NaN where `a` is not, better where neither is NaN, or equal with a lower slot (R145). -/
def extBeats (isMax : Bool) (a b : Word32 × Nat) : Bool :=
  let x := val32 a.1
  let y := val32 b.1
  if isNanVal x then isNanVal y && b.2 < a.2
  else if isNanVal y then true
  else if isMax then belowVal x y || (!belowVal y x && b.2 < a.2)
  else belowVal y x || (!belowVal x y && b.2 < a.2)

/-- One term or partial compared into a maximum or minimum element (R145). -/
def extAdd (isMax : Bool) (e : ExtElem) (x : Word32) (slot : Nat) : ExtElem :=
  match e.best with
  | none => { best := some (x, slot) }
  | some a => if extBeats isMax a (x, slot) then { best := some (x, slot) } else e

/-- Two maximum or minimum partials combined (R143, R145). -/
def extMerge (isMax : Bool) (a b : ExtElem) : ExtElem :=
  match b.best with
  | none => a
  | some (x, slot) => extAdd isMax a x slot

/-- A maximum or minimum element finished to a format: +0 with winner 0xFFFF for an empty bag (R145, R146, R149). -/
def finishExt (f : Format) (e : ExtElem) : Finished × Nat :=
  match e.best with
  | none => (convert f vzero, 0xFFFF)
  | some (x, slot) => (convert f (val32 x), slot)

/-- The width of the term counter of a group (R47). -/
def termBits : Nat := 40

/-- Deposits for a term of the given source (R45). -/
def depositsFor (f : Format) (s : Scaling) (weighted : Bool) : Nat :=
  if weighted || f == .fp32 || s == .rowScale || s == .rowScaleBias then 3 else 2

/-- Arrival mode (R53): the stored element combined with the operand exactly and rounded once to the stored format, with
saturation; the outcome says whether it saturated. -/
def arrivalAdd (f : Format) (old x : Nat) : Conv := convert f (addVal (decodeFloat f old) (decodeFloat f x))

/-- Two's-complement addition of `w` bits (R54). -/
def intAdd (w a b : Nat) : Nat := (a + b) % 2 ^ w

end Sys2Proof.Machine
end

