-- ==== Sys2Proof/Machine/Probes.lean ====
section
/-! DEFINITION. Feed records, probe expansion, the bag map, sorting and shuffling, as functions of the records alone
(R97, R98, R107 to R115, R119 to R122, R126 to R128). -/

namespace Sys2Proof.Machine

/-! ### Records -/

/-- KIND of a record header (R97). -/
def recKind (h : BitVec 128) : Nat := bits h 0 4
/-- Keys or tokens in the record (R97). -/
def recCount (h : BitVec 128) : Nat := bits h 8 12 + 1
/-- BAG_FIRST (R97). -/
def recFirst (h : BitVec 128) : Bool := bit h 20
/-- BAG_LAST (R97). -/
def recLast (h : BitVec 128) : Bool := bit h 21
/-- BAG_INDEX (R97). -/
def recBag (h : BitVec 128) : Nat := bits h 32 24
/-- FEED_TAG (R97). -/
def recTag (h : BitVec 128) : Nat := bits h 64 16
/-- TOKEN_TABLE (R97). -/
def recTokenTable (h : BitVec 128) : Nat := bits h 80 16
/-- SEQ (R97). -/
def recSeq (h : BitVec 128) : Nat := bits h 96 16

/-- A record header that obeys R97: a kind for look-ups, reserved fields zero, TAG_END with no other field, TOKEN_TABLE only
in TOKENS. -/
def recOk (h : BitVec 128) : Bool :=
  [1, 2, 3, 4].contains (recKind h) && zeroFields h [(4, 4), (22, 10), (56, 8), (112, 16)] &&
  (recKind h == 3 || recTokenTable h == 0) &&
  (recKind h != 4 || zeroFields h [(8, 12), (32, 24)])

/-- One input of a bag: a key with the weight of its record, or a token of a TOKENS record. -/
inductive BagInput where
  | key (key : Nat) (weight : Option Word32)
  | token (table value : Nat)
  deriving DecidableEq, Repr

/-- The inputs that a record's payload holds, in payload order (R98). -/
def recInputs (h : BitVec 128) (payload : List Byte) : List BagInput :=
  let n := recCount h
  match recKind h with
  | 1 => (List.range n).map fun i => .key (ofBytes (sliceBytes payload (8 * i) 8)) none
  | 2 => (List.range n).map fun i =>
      .key (ofBytes (sliceBytes payload (8 * i) 8)) (some (BitVec.ofNat 32 (ofBytes (sliceBytes payload (8 * n + 4 * i) 4))))
  | 3 => (List.range n).map fun i => .token (recTokenTable h) (ofBytes (sliceBytes payload (4 * i) 4))
  | _ => []

/-! ### Fronts and expansion -/

/-- Table handle of a key (R64). -/
def keyHandle (k : Nat) : Nat := bitsOf k 48 16
/-- Row index of a key (R64). -/
def keyIndex (k : Nat) : Nat := bitsOf k 0 48
/-- The key of a row (R64). -/
def mkKey (handle index : Nat) : Nat := handle * 2 ^ 48 + index % 2 ^ 48

/-- What expansion knows of a table of the binding list: its row limit and, for a front, its parameter block as read at
admission (R107, R109). -/
structure TableView where
  handle : Nat
  rowLimit : Nat
  /-- PROBE_FUNC and the 128-byte block. -/
  func : Nat := 0
  block : BitVec 1024 := 0
  deriving DecidableEq, Repr

/-- PROBES_M1 + 1 (R108). -/
def blkProbes (b : BitVec 1024) : Nat := bits b 4 5 + 1
/-- SIGNED (R108). -/
def blkSigned (b : BitVec 1024) : Bool := bit b 9
/-- NGRAM_ORDERS (R108). -/
def blkOrders (b : BitVec 1024) : Nat := bits b 16 8
/-- NGRAM_HASHES_M1 + 1 (R108). -/
def blkHashes (b : BitVec 1024) : Nat := bits b 24 2 + 1
/-- FACTORS_M1 + 1 (R108). -/
def blkFactors (b : BitVec 1024) : Nat := bits b 32 2 + 1
/-- SEED (R108). -/
def blkSeed (b : BitVec 1024) : Nat := bits b 64 64
/-- TARGET_HANDLE_k (R108). -/
def blkTarget (b : BitVec 1024) (k : Nat) : Nat := bits b (64 * k + 128) 16
/-- RADIX_k (R108). -/
def blkRadix (b : BitVec 1024) (k : Nat) : Nat := bits b (64 * k + 144) 48

/-- The probe hash of R110: row and neg. -/
def probeHash (seed v j rows : Nat) : Nat × Bool :=
  let h := mix64 (v ^^^ seed ^^^ ((j * 2 ^ 56) % 2 ^ 64))
  ((h * rows) / 2 ^ 64, h.testBit 0)

/-- One probe: the row it references, its sign and its weight (R111, R114). -/
structure Probe where
  key : Nat
  neg : Bool
  weight : Option Word32
  deriving DecidableEq, Repr

/-- The view of a table in the binding list. -/
def viewOf (vs : List TableView) (h : Nat) : Option TableView := vs.find? fun v => v.handle == h

/-- The key reaches a row of a bound table (R66). -/
def keyReaches (vs : List TableView) (k : Nat) : Option TableView :=
  match viewOf vs (keyHandle k) with
  | some v => if keyIndex k ≤ v.rowLimit then some v else none
  | none => none

/-- Rows of a target table. -/
def rowsOf (vs : List TableView) (h : Nat) : Nat := match viewOf vs h with
  | some v => v.rowLimit + 1
  | none => 0

/-- The digits of R113. -/
def qrDigits (b : BitVec 1024) (n k q : Nat) : List (Nat × Nat) :=
  match n with
  | 0 => []
  | n + 1 =>
    let r := blkRadix b k
    (blkTarget b k, q % r) :: qrDigits b n (k + 1) (q / r)

/-- The probes of a key that reaches a table: itself, or the expansion of its front; a key of an NGRAM front reaches no row
(R107, R111, R113). -/
def expandKey (vs : List TableView) (v : TableView) (key : Nat) (w : Option Word32) : Option (List Probe) :=
  match v.func with
  | 0 => some [{ key := key, neg := false, weight := w }]
  | 1 => some ((List.range (blkProbes v.block)).map fun j =>
      let t := blkTarget v.block 0
      let p := probeHash (blkSeed v.block) (keyIndex key) j (rowsOf vs t)
      { key := mkKey t p.1, neg := blkSigned v.block && p.2, weight := w })
  | 3 => some ((qrDigits v.block (blkFactors v.block) 0 (keyIndex key)).map fun d =>
      { key := mkKey d.1 d.2, neg := false, weight := w })
  | _ => none

/-- gram(i, n) of R112 over the `n` tokens given, oldest first. -/
def gram (n : Nat) (ts : List Nat) : Nat :=
  ts.foldl (fun g t => mix64 (g ^^^ t)) ((n * hashC1) % 2 ^ 64)

/-- The probes of position `i` of a token sequence over one NGRAM front: orders ascending, then hashes; windows that hold a
rejected token give none (R112). The sequence holds none for a rejected token. -/
def gramProbes (vs : List TableView) (v : TableView) (seq : List (Option Nat)) (i : Nat) : List Probe :=
  (List.range 8).flatMap fun o =>
    let n := o + 1
    if (blkOrders v.block).testBit o && decide (o ≤ i) then
      let window := (seq.drop (i + 1 - n)).take n
      if window.all Option.isSome then
        (List.range (blkHashes v.block)).map fun h =>
          let t := blkTarget v.block 0
          let p := probeHash (blkSeed v.block) (gram n (window.map fun x => x.getD 0)) (4 * o + h) (rowsOf vs t)
          { key := mkKey t p.1, neg := false, weight := none }
      else []
    else []

/-- A token value where the token reaches the table, none where R66 rejects it. -/
def tokenSeq (v : TableView) (xs : List BagInput) : List (Option Nat) :=
  xs.filterMap fun x => match x with
    | .token t value => if t == v.handle then some (if value ≤ v.rowLimit then some value else none) else none
    | .key _ _ => none

/-- The probes of a bag in the order of R114, and the number of keys and tokens that R66 rejects. `done` holds the inputs
before the rest, newest first, which give each token its position. -/
def expandFrom (vs : List TableView) (all : List BagInput) (counts : List (Nat × Nat)) :
    List BagInput → List Probe × Nat
  | [] => ([], 0)
  | .key k w :: rest =>
    let r := expandFrom vs all counts rest
    match keyReaches vs k with
    | some v => match expandKey vs v k w with
      | some ps => (ps ++ r.1, r.2)
      | none => (r.1, r.2 + 1)
    | none => (r.1, r.2 + 1)
  | .token t value :: rest =>
    let i := Tab.getD counts t 0
    let r := expandFrom vs all (Tab.put counts t (i + 1)) rest
    match keyReaches vs (mkKey t value) with
    | some v =>
      if v.func == 2 then (gramProbes vs v (tokenSeq v all) i ++ r.1, r.2)
      else match expandKey vs v (mkKey t value) none with
        | some ps => (ps ++ r.1, r.2)
        | none => (r.1, r.2 + 1)
    | none => (r.1, r.2 + 1)

/-- The probes of a bag and its out-of-range count (R66, R114). -/
def expandBag (vs : List TableView) (xs : List BagInput) : List Probe × Nat := expandFrom vs xs [] xs

/-- The most probes a bag keeps (R115). -/
def maxProbes : Nat := 65535

/-! ### The bag map -/

/-- One reference: bag, slot, sign and weight (R121). -/
structure Ref where
  bag : Nat
  slot : Nat
  neg : Bool
  weight : Option Word32
  deriving DecidableEq, Repr

/-- One directory entry with its references (R121). -/
structure DirEntry where
  key : Nat
  refs : List Ref
  deriving DecidableEq, Repr

/-- One bag as the bag table reports it (R120). -/
structure BagInfo where
  refs : Nat
  outOfRange : Nat
  truncated : Bool
  empty : Bool
  deriving DecidableEq, Repr

/-- A reference is added to a directory kept in ascending key order (R122). -/
def dirAdd (key : Nat) (r : Ref) : List DirEntry → List DirEntry
  | [] => [{ key := key, refs := [r] }]
  | e :: es =>
    if key < e.key then { key := key, refs := [r] } :: e :: es
    else if key == e.key then { e with refs := e.refs ++ [r] } :: es
    else e :: dirAdd key r es

/-- The references of one bag added to the directory, slots counted from `slot`. -/
def dirBag (bag slot : Nat) : List Probe → List DirEntry → List DirEntry
  | [], d => d
  | p :: ps, d => dirBag bag (slot + 1) ps (dirAdd p.key { bag := bag, slot := slot, neg := p.neg, weight := p.weight } d)

/-- The directory of the bags in ascending order (R121, R122). -/
def directoryOf (bags : List (Nat × List Probe)) : List DirEntry :=
  bags.foldl (fun d b => dirBag b.1 0 b.2 d) []

/-- References of a directory in order. -/
def allRefs (d : List DirEntry) : List Ref := d.flatMap DirEntry.refs

/-- Length of a bag map (R119). -/
def bagMapBytes (bagCount : Nat) (d : List DirEntry) (weighted : Bool) : Nat :=
  let n := (allRefs d).length
  64 + roundup16 (8 * bagCount) + 16 * d.length + 8 * n + (if weighted then 4 * n else 0)

/-- The 64-byte header of a bag map (R119). -/
def bagMapHeader (bagCount uniq refs : Nat) (weighted : Bool) (seq ctx : Nat) : List Byte :=
  toBytes 64 (packFields
    [(0, 32, 0x4D474142), (32, 16, 1), (64, 32, bagCount), (96, 32, uniq), (128, 32, refs), (160, 1, b2n weighted),
     (192, 32, seq), (224, 8, ctx)])

/-- The directory entries with FIRST_REF counted from `first` (R121). -/
def dirBytes16 (first : Nat) : List DirEntry → List Byte
  | [] => []
  | e :: es =>
    toBytes 16 (packFields [(0, 64, e.key), (64, 32, first), (96, 32, e.refs.length)]) ++
      dirBytes16 (first + e.refs.length) es

/-- The bytes of a bag map (R119 to R122). -/
def bagMap (infos : List BagInfo) (d : List DirEntry) (weighted : Bool) (seq ctx : Nat) : List Byte :=
  let refs := allRefs d
  let table := infos.flatMap fun b => toBytes 8 (packFields
    [(0, 16, b.refs), (16, 16, min b.outOfRange 0xFFFF), (32, 1, b2n b.truncated), (33, 1, b2n b.empty)])
  bagMapHeader infos.length d.length refs.length weighted seq ctx ++ pad16 table ++ dirBytes16 0 d ++
    (refs.flatMap fun r => toBytes 8 (packFields [(0, 24, r.bag), (24, 16, r.slot), (40, 1, b2n r.neg)])) ++
    (if weighted then refs.flatMap fun r => toBytes 4 (r.weight.getD 0x3F800000).toNat else [])

/-! ### SORT -/

/-- Keys with their input indices, in ascending order, equal keys in input order (R126). -/
def sortKeys (ks : List Nat) : List (Nat × Nat) := sortBy Prod.fst (ks.zip (List.range ks.length))

/-- Each distinct key of a sorted list, with its first position and its count (R126). -/
def dedupKeys : List (Nat × Nat) → List (Nat × Nat × Nat)
  | [] => []
  | (k, p) :: rest =>
    match dedupKeys rest with
    | (k', p', c) :: ds => if k == k' then (k, p, c + 1) :: ds else (k, p, 1) :: (k', p', c) :: ds
    | [] => [(k, p, 1)]

/-! ### SHUFFLE -/

/-- The least b with 2^b at least n (R127). -/
def ceilLog2 (n : Nat) : Nat := if n ≤ 1 then 0 else Nat.log2 (n - 1) + 1

/-- The half width m of R127. -/
def shuffleHalf (n : Nat) : Nat := (max 1 (ceilLog2 n) + 1) / 2

/-- Round key r of R127. -/
def shuffleKey (lo hi epoch r : Nat) : Nat := mix64 (lo ^^^ mix64 (hi ^^^ ((epoch * 256) % 2 ^ 64) ^^^ r))

/-- One call of feistel (R127). -/
def feistel (m lo hi epoch x : Nat) : Nat :=
  let mask := 2 ^ m - 1
  let p := (List.range 8).foldl (fun (p : Nat × Nat) r =>
    (p.2, p.1 ^^^ (mix64 (p.2 ^^^ shuffleKey lo hi epoch r) &&& mask))) (x >>> m, x &&& mask)
  p.1 * 2 ^ m ||| p.2

/-- Cycle walking, within as many calls as the domain has values beyond N (R127). -/
def shuffleWalk (m lo hi epoch n fuel y : Nat) : Nat :=
  match fuel with
  | 0 => y
  | fuel + 1 => if n ≤ y then shuffleWalk m lo hi epoch n fuel (feistel m lo hi epoch y) else y

/-- π(i) of R127. A walk visits each value of the domain at most once. -/
def shufflePi (n lo hi epoch i : Nat) : Nat :=
  let m := shuffleHalf n
  shuffleWalk m lo hi epoch n (2 ^ (2 * m)) (feistel m lo hi epoch i)

end Sys2Proof.Machine
end

