-- ==== Sys2Proof/Machine/StateWork.lean ====
section
/-! DEFINITION. The parts of the state that tables, feeds, tasks' work, placement and the chain hold (chapters 3 to 9). -/

namespace Sys2Proof.Machine

/-! ### Tables and rows (chapters 3 and 8) -/

/-- A backing location (R210): tier 1 to 4, device address or T4 page address of its first byte, and, in T2 to T4, the first cold page of
the table that holds it (R242). For a delta version tier 0 is T0, and the address is the number of its first core (R87, R230). -/
structure Place where
  tier : Nat := 0
  addr : Nat := 0
  page : Option Nat := none
  deriving DecidableEq, Repr

/-- A delta version of a row: the generations that see it, and its data part; no data part stands for the absent marker of a
never-written row (R86). -/
structure Delta where
  lo : Nat
  hi : Nat
  data : Option (List Byte)
  fenced : Bool := false
  /-- Location code of the lost word, and RECORD_SEQ of the record that named it (R446, R448). -/
  lostAt : Nat := 0
  fencedBy : Nat := 0
  /-- Where it lies (R87). -/
  place : Place := {}
  /-- In T0: the cluster that holds its shadow entry, and when it was made (R229, R230). -/
  shadow : Option Nat := none
  since : Nat := 0
  deriving DecidableEq, Repr

/-- A T0 copy of a row (R210, R215, R220, R228). -/
structure T0Copy where
  cluster : Nat
  core : Nat
  /-- Cache mode: set and way of the line. -/
  line : Option (Nat × Nat)
  bytes : List Byte
  dirty : Bool
  pinned : Bool
  age : Nat
  /-- Cluster that holds the shadow entry of a dirty copy: the mirror, or its substitute (R228, R241). -/
  shadow : Option Nat
  /-- The time of the last commit to it (R229). -/
  since : Nat := 0
  deriving DecidableEq, Repr

/-- Where a move takes a row (R237). -/
inductive MoveDest where
  | place (p : Place)
  | cluster (c : Nat) (core : Nat) (line : Option (Nat × Nat))
  | device (addr : Nat)
  deriving DecidableEq, Repr

/-- A move of a row (R237, R238). -/
structure RowMove where
  dest : MoveDest
  /-- Copies that have ended with RECOPY set. -/
  recopies : Nat := 0
  recopy : Bool := false
  /-- The last copy ended without RECOPY, and the switch is next. -/
  copied : Bool := false
  /-- The location word has switched; the source waits to be freed (R238): a backing location, or the first core of a T0 copy. -/
  oldPlace : Option Place := none
  oldCore : Option Nat := none
  switched : Bool := false
  /-- The row leaves T0 with the switch: an offer that T1 has accepted (R223). -/
  leave : Bool := false
  deriving DecidableEq, Repr

/-- A written row, keyed by its key (R64). -/
structure Row where
  stamp : Nat := 0
  /-- The backing location; tier 0 for a row whose working version was never written (R71, R210). -/
  place : Place := {}
  /-- The chained device that holds it, plus one; 0 for this device (R254). -/
  chain : Nat := 0
  /-- Row record and state record at the backing location (R69, R70). -/
  backing : List Byte := []
  t0 : Option T0Copy := none
  fenced : Bool := false
  /-- Location code of the lost word, and RECORD_SEQ of the record that named it (R446, R448). -/
  lostAt : Nat := 0
  fencedBy : Nat := 0
  deltas : List Delta := []
  move : Option RowMove := none
  /-- A commit to the row has started and not reached its commit point (R177, R237). -/
  committing : Bool := false
  deriving DecidableEq, Repr

/-- A published generation that is not RETIRED (R75). -/
structure Gen where
  released : Bool := false
  deriving DecidableEq, Repr

/-- Banks of a table: in each of the clusters `lo` to `hi` − 1, `len` banks from core `base` on, for the lines of one way or, of way 0, for
pinned rows (R215, R218). -/
structure Seat where
  way : Nat
  lo : Nat
  hi : Nat
  base : Nat
  len : Nat
  deriving DecidableEq, Repr

/-- Sets or pinned rows that another cluster holds: places `lo` to `hi` − 1 of cluster `src` are places `at'` and on of cluster `dst`. -/
structure Remap where
  src : Nat
  lo : Nat
  hi : Nat
  dst : Nat
  at' : Nat
  deriving DecidableEq, Repr

/-- The cache partition of a table, or its reserved slots (R217 to R222, R255). -/
structure Partition where
  nsets : Nat := 0
  waysOn : Nat := 0
  seats : List Seat := []
  /-- Clusters that were out of service when the partition was made, over which it is not spread. -/
  without : List Nat := []
  /-- Places that clusters with no room, or clusters that have left service since, do not hold (R241). -/
  remaps : List Remap := []
  lastMiss : Option Nat := none
  run : Nat := 0
  counters : Tab Nat := []
  overflow : Tab Bool := []
  /-- Sets of a cache, or pinned rows of a scratchpad, that Drift has moved: home cluster and the place there (R234). -/
  homes : Tab (Nat × Nat) := []
  deriving DecidableEq, Repr

/-- A TABLE_LOAD REPLACE that has been accepted and has not ended (R92). -/
structure Replace where
  /-- The command's number, or 0 where another device relayed it. -/
  id : Nat
  imageAddr : Nat
  imageBytes : Nat
  ctx : Nat
  /-- The wait for ACTIVE tasks is over and the working generation is LOADING. -/
  started : Bool := false
  /-- The device and relay number that a relayed load reports to (R275). -/
  remote : Option (Nat × Nat) := none
  deriving DecidableEq, Repr

/-- A table (R67, R74, R86), keyed by its handle. -/
structure Table where
  desc : BitVec 1024 := 0
  ctx : Nat := 0
  highest : Nat := 0
  baseStamp : Nat := 0
  deleting : Bool := false
  /-- Generations in PUBLISHED or RELEASED by number. -/
  gens : Tab Gen := []
  part : Partition := {}
  /-- Accepted REPLACE loads, the first in progress. -/
  replaces : List Replace := []
  /-- The device and relay number that a relayed deletion reports to (R275). -/
  deleteFor : Option (Nat × Nat) := none
  /-- The delta pool lies at or above 90 % of DELTA_LIMIT, and the event has been raised (R87). -/
  deltaHigh : Bool := false
  /-- Rows below this index are pinned (R217), after any unpinning (R214, R241). -/
  pinBelow : Nat := 0
  deriving DecidableEq, Repr

/-- A publish that has been accepted and not yet cut (R81 to R83). -/
structure Publish where
  id : Nat
  ctx : Nat
  tables : List Nat
  cutNow : Bool
  /-- The PUBLISH task, or none for TABLE_PUBLISH. -/
  task : Option (Nat × Nat)
  /-- Devices of the maps of the sharded tables it names, and those whose highest numbers are still asked for (R275). -/
  devices : List Nat := []
  asking : List Nat := []
  /-- The device and relay number that a relayed publish reports to. -/
  remote : Option (Nat × Nat) := none
  deriving DecidableEq, Repr

/-- A TABLE_LOAD in MERGE mode whose next commit waits for delta-pool room (R87, R92): the rows left, how many are written, the
offset of the first bad entry, and when the wait began. -/
structure MergeLoad where
  id : Nat
  handle : Nat
  left : List (Nat × List Byte)
  done : Nat := 0
  bad : Option Nat := none
  since : Nat := 0
  deriving DecidableEq, Repr

/-- A cold page of a table in T2 to T4 (R242 to R248), keyed by handle × 2^48 + page number. A row longer than a page takes pages
with consecutive numbers. -/
structure ColdPage where
  tier : Nat := 2
  base : Nat := 0
  /-- Bytes of the stored block (R242, R251). -/
  len : Nat := 4096
  /-- The stored block as it was last written; of a page in T3 it lies in host memory instead (R212, R242, R248). -/
  block : List Byte := []
  /-- CRC-32C of a raw block of a table with COMPRESS_COLD (R242). -/
  crc : Option Nat := none
  /-- Code slot and TABLE_LOAD_ID of a coded block. -/
  coded : Option (Nat × Nat) := none
  encrypted : Bool := false
  /-- Encrypted under the key that a REKEY replaces (R503). -/
  oldKey : Bool := false
  /-- The page takes no new rows: a REPLACE load writes new working storage, or it is to be stored again (R92, R246, R503). -/
  shut : Bool := false
  deriving DecidableEq, Repr

/-- What a T4 request is for (R251, R252). -/
inductive T4Who where
  /-- A READ of a row for a reader: a task's number, or that of a remote task above 2^64. -/
  | read (reader key : Nat)
  /-- A WRITE for the commit of the run on a core. -/
  | commit (core : Nat)
  /-- A WRITE for a load, by its number. -/
  | load (id : Nat)
  /-- The READ or WRITE of a row's move. -/
  | move (key : Nat)
  /-- A WRITE that cleans a row's T0 copy. -/
  | clean (key : Nat)
  /-- A READ for the T0 copy of a row that has been pinned. -/
  | fill (key : Nat)
  /-- The READ or WRITE of a row's delta versions that move. -/
  | deltas (key : Nat)
  /-- The WRITE of a cold page that is stored again. -/
  | page (key : Nat)
  /-- A page of a stream's transfer. -/
  | transfer (id : Nat)
  /-- A page that is freed. -/
  | free (page : Nat)
  /-- A READ whose data a later commit has made old. -/
  | stale
  deriving DecidableEq, Repr

/-- The T4 attachment (R250 to R252, R385). -/
structure T4 where
  attached : Bool := false
  ctx : Nat := 0
  ringLog2 : Nat := 6
  vector : Nat := 0
  page : Nat := 0
  reqAddr : Nat := 0
  cplAddr : Nat := 0
  bounce : Nat := 0
  buffers : Nat := 0
  capacity : Nat := 0
  timeoutMs : Nat := 0
  nextSeq : Word32 := 0
  /-- Completion entries taken so far. -/
  taken : Word32 := 0
  /-- Outstanding requests by SEQ: what each is for, its bounce buffer, its page and the data of a WRITE. -/
  outstanding : Tab (T4Who × Nat × Nat × List Byte) := []
  /-- Requests that wait for room in the ring or a bounce buffer: what each is for, its operation, its page and its data. -/
  waiting : List (T4Who × Nat × Nat × List Byte) := []
  /-- What READs have brought: what for, the page, and its raw bytes. -/
  arrived : List (T4Who × Nat × List Byte) := []
  deriving DecidableEq, Repr

/-- An ORCHARD_MAINT that waits for the commit points of rows it has selected (R226). -/
structure Maint where
  id : Nat
  /-- The operation: 1 CLEAN, 2 INVALIDATE, 3 CLEAN_INVALIDATE. -/
  op : Nat
  keys : List Nat
  cleaned : Nat := 0
  invalidated : Nat := 0
  dirtySkipped : Nat := 0
  pinnedSkipped : Nat := 0
  deriving DecidableEq, Repr

/-- A command that goes on until rows have moved (R212, R214, R250, R332). -/
inductive PendKind where
  /-- TABLE_CREATE with MODIFY: the table and its new descriptor. -/
  | modify (handle : Nat) (desc : BitVec 1024)
  /-- RANGE_MAP of a STACK or EXPANDER range: its base and the range. -/
  | map (base : Nat) (range : Range)
  /-- UNMAP of a TIER_POOL range, whose rows leave it (R332). -/
  | unpool (base : Nat)
  /-- T4_ATTACH with a capacity of 0. -/
  | detach
  deriving DecidableEq, Repr

/-- A command that goes on, and what it waits for in the mailbox. -/
structure Pending where
  job : JobWait
  kind : PendKind
  deriving DecidableEq, Repr

/-- Tables, rows and what the device plans for them. -/
structure Tables where
  tables : Tab Table := []
  rows : Tab Row := []
  publishes : List Publish := []
  maints : List Maint := []
  /-- Number of the next publish, REPLACE load, relay or maintenance command. -/
  nextPublish : Nat := 1
  /-- MERGE loads that wait for room in a delta pool (R87, R92). -/
  merges : List MergeLoad := []
  cold : Tab ColdPage := []
  /-- Shard load counters by handle × 2^48 + shard (R232). -/
  loads : Tab Nat := []
  t4 : T4 := {}
  /-- Bytes that moves of this epoch have taken of each path (R235). -/
  moved : Tab Nat := []
  /-- Shadow clusters above half full, whose oldest copies are cleaned until they lie below a quarter (R229). -/
  cleaning : List Nat := []
  pending : List Pending := []
  /-- Exchanges: a row that goes down, and the one that takes its room (R233). -/
  swaps : List (Nat × Nat) := []
  deriving DecidableEq, Repr

/-! ### Groups and buckets (chapters 2, 5, 6 and 9) -/

/-- The elements of a partial, a frame or a bucket, by mode (R40, R52, R145). -/
inductive Group where
  | binned (es : List BinElem)
  | plain (es : List PlainElem)
  | ext (isMax : Bool) (es : List ExtElem)
  /-- INT32 elements of an array reduction (R54). -/
  | ints (es : List Word32)
  deriving DecidableEq, Repr

/-- A group with its term counter and flags (R47, R267). -/
structure Bucket where
  terms : Nat := 0
  saturated : Bool := false
  body : Group := .binned []
  /-- Element and lowest slot whose term was not finite (R155, R268). -/
  nonfinite : List (Nat × Nat) := []
  deriving DecidableEq, Repr

/-- A row gradient that is finished and waits for its program, or has been sent (R173, R286). -/
structure RowGrad where
  key : Nat
  elems : List Word32
  ovf : Nat := 0
  nonfinite : Nat := 0
  bound : Bool := false
  terms : Nat := 0
  saturated : Bool := false
  deriving DecidableEq, Repr

/-- A unique row that has been read for a task (R136, R137): where it is pooled, and its data part, none where it was never
written. -/
structure RowRead where
  cluster : Nat := 0
  data : Option (List Byte) := none
  /-- Transit banks of the cluster that hold the row; 0 for a row pooled at its home (R137). -/
  transit : Nat := 0
  deriving DecidableEq, Repr

/-! ### The chain (chapter 9) -/

/-- A shard map (R270): entries give the first row of a range and its owner. -/
structure ShardMap where
  ctx : Nat := 0
  mayMove : Bool := false
  eligible : Nat := 0
  /-- Devices that run tasks on the map's tables without owning, or being eligible to own, a range (R270). -/
  users : Nat := 0
  version : Nat := 1
  entries : List (Nat × Nat) := []
  deriving DecidableEq, Repr

/-- A packet that the source keeps until it is acknowledged (R257). -/
structure SentPkt where
  seq : Nat
  hdr : Word128
  payload : List Byte
  /-- The payload before coding (R269). -/
  raw : List Byte
  /-- The task or job that sent it has reached a final state (R259). -/
  gone : Bool := false
  deriving DecidableEq, Repr

/-- A flow from this device (R257), keyed by destination × 4096 + JOB. -/
structure Flow where
  nextSeq : Nat := 0
  unacked : List SentPkt := []
  deriving DecidableEq, Repr

/-- The state of a rank's slot (R283). -/
inductive SlotState where
  | opened | filled | closed | late | missing
  deriving DecidableEq, Repr

/-- A rank's slot in a bucket (R283). -/
structure RankSlot where
  state : SlotState := .opened
  data : Option Bucket := none
  deriving DecidableEq, Repr

/-- A bucket that a combiner holds (R283). -/
structure JobBucket where
  openedAt : Nat := 0
  slots : Tab RankSlot := []
  /-- Backup contributions by the rank backed (R285). -/
  backups : Tab Bucket := []
  /-- Devices that have been asked to send the bucket again (R294). -/
  asked : List Nat := []
  deriving DecidableEq, Repr

/-- An open reduction job on this device (R278 to R296), keyed by JOB_ID. -/
structure Job where
  queue : Nat := 0
  seq : Nat := 0
  ctx : Nat := 0
  array : Bool := false
  plain : Bool := false
  owner : Bool := false
  ranks : Nat := 0
  elems : Nat := 1
  map : Nat := 0
  backups : List (Option Nat) := []
  deadlineUs : Nat := 0
  keep : Nat := 0
  residAddr : Nat := 0
  residBytes : Nat := 0
  inAddr : Nat := 0
  count : Nat := 0
  format : Nat := 0
  outAddr : Nat := 0
  crc : Nat := 0
  /-- The SCATTER or FLUSH that contributes on this device. -/
  contributor : Option (Nat × Nat) := none
  /-- The device has sent its last contribution and RANK_DONE. -/
  doneSent : Bool := false
  aborted : Bool := false
  /-- The job has ended on this device and another has opened under its JOB_ID (R279, R294). -/
  closed : Bool := false
  buckets : Tab JobBucket := []
  /-- Keys of the buckets that have been released or ended here (R284). -/
  ended : List Nat := []
  /-- Last key seen on the flow of each device, plus one, and the devices whose RANK_DONE has come (R283). -/
  passed : Tab Nat := []
  ranksDone : List Nat := []
  /-- Devices whose configuration differs, devices that have aborted, and ranks of which a slot was settled as MISSING and that have not been
  heard since (R280, R284, R294). -/
  mismatched : List Nat := []
  abortedRanks : List Nat := []
  missed : List Nat := []
  /-- Devices whose first packet has come (R280). -/
  seenFrom : List Nat := []
  combinersDone : List Nat := []
  doneReported : Bool := false
  released : Nat := 0
  missing : Nat := 0
  backupUsed : Nat := 0
  lateDiscarded : Nat := 0
  rowsSent : Nat := 0
  withheld : Nat := 0
  spilled : Nat := 0
  checkSamples : Nat := 0
  checkRetried : Nat := 0
  checkFailed : Nat := 0
  /-- Combiners that became unreachable before their COMBINER_DONE (R294). -/
  lost : List Nat := []
  /-- Results that came before the contributor was admitted (R286). -/
  results : List RowGrad := []
  firstMissing : Option (Nat × Nat) := none
  deriving DecidableEq, Repr

/-- Packets of a group of more than 2,048 elements that have arrived so far (R267). -/
structure Gathering where
  src : Nat
  job : Nat
  type : Nat
  id : Nat
  bucket : Bucket
  deriving DecidableEq, Repr

/-- A task of another device whose probes this device pools (R273), keyed by source × 4096 + transaction tag. -/
structure RemoteTask where
  src : Nat := 0
  tag : Nat := 0
  ctx : Nat := 0
  seq : Nat := 0
  poolMode : Nat := 0
  plain : Bool := false
  elems : Nat := 1
  /-- Each table with its generation, 0 for the working one. -/
  bound : List (Nat × Nat) := []
  /-- Where the partials go: the requester and its transaction tag. -/
  replyTo : Nat := 0
  replyTag : Nat := 0
  /-- Probe requests held until a generation is cut (R275): LAST and payload. -/
  held : List (Bool × List Byte) := []
  /-- Rows that have counted for their shards (R232). -/
  seen : List Nat := []
  /-- Rows pooled so far, with their references, until the partials have been sent (R158, R273). -/
  pooled : List (Nat × List Ref) := []
  /-- Frames by bag × 512 + cluster, and the terms of each engine in plain mode (R143). -/
  frames : Tab Bucket := []
  engines : Tab (List (Nat × List Word32)) := []
  /-- Out-of-range references by bag (R66, R273). -/
  beyond : Tab Nat := []
  /-- Requests to forward, by owner, and the tags of those forwarded (R273). -/
  passing : Tab (List (List Byte)) := []
  forwards : Tab Nat := []
  deriving DecidableEq, Repr

/-- A command of a sharded table that has been relayed and waits for the devices of its map (R275). -/
structure Relay where
  id : Nat
  handle : Nat
  /-- Devices still to report. -/
  waiting : List Nat
  /-- This device's own part is done, with its status and result. -/
  localDone : Bool := false
  job : JobWait
  task : Option (Nat × Nat) := none
  status : Status := .ok
  result : Nat := 0
  deriving DecidableEq, Repr

/-- A shard map that this device installs for the chain (R270, R271): the map, the devices still to answer, the first refusal so far, and
whether the devices have been told to install it. -/
structure Installing where
  map : ShardMap
  left : List Nat
  worst : Nat := 0
  agreed : Bool := false
  deriving DecidableEq, Repr

/-- A window request of this device that awaits its answer (R349), by transaction tag. -/
structure WindowReq where
  transfer : Nat
  dst : Nat
  /-- The module and tag of a CXL.mem request that goes through the window (R411), in place of a transfer. -/
  cxl : Option (Nat × Nat) := none
  deriving DecidableEq, Repr

/-- Enumeration, routes, flows, maps and jobs (R256 to R296). -/
structure Chain where
  addr : Nat := 0
  valid : Bool := false
  size : Nat := 0
  enumStatus : Nat := 0
  epoch : Word32 := 0
  /-- The chain table's links, in the layout of R386. -/
  links : List Word32 := []
  /-- Enumeration in progress: this device holds the token, the next free address, the port it came on, the port on offer. -/
  token : Bool := false
  nextAddr : Nat := 0
  parent : Option Nat := none
  offered : Option Nat := none
  /-- Ports on which the token has come or was offered. -/
  usedPorts : List Nat := []
  found : List Word32 := []
  /-- Peer ports that carry no traffic (R262). -/
  silent : List Nat := []
  flows : Tab Flow := []
  /-- The last SEQ accepted, plus one, of each flow to this device: source × 4096 + JOB (R257). -/
  accepted : Tab Nat := []
  /-- Code notices by destination × 256 + context: slot and CRC-32C of the image, none when no slot is ACTIVE (R269). -/
  notices : Tab (Nat × Nat) := []
  maps : Tab ShardMap := []
  /-- Shard maps that this device installs for the chain, by MAP_ID (R270). -/
  installing : Tab Installing := []
  /-- Shard maps that this device has agreed to install, by MAP_ID (R271). -/
  mapsAgreed : Tab ShardMap := []
  /-- Keyed by JOB_ID; a job that has ended here and whose JOB_ID is in use again lies above 4,095. -/
  jobs : Tab Job := []
  /-- JOB_IDs of jobs that have ended here (R294). -/
  jobsOver : List Nat := []
  /-- The residual entries that this device has written, in the model's own record: an entry that is none of them was changed (R42). -/
  residuals : List (List Byte) := []
  gathering : List Gathering := []
  /-- Parts of a MOVE that have arrived so far, by source (R265). -/
  movesIn : Tab (List Byte) := []
  /-- Packets withheld until their job opens (R280, R286). -/
  withheld : List PeerPkt := []
  remotes : Tab RemoteTask := []
  relays : List Relay := []
  windowReqs : Tab WindowReq := []
  nextTag : Nat := 0
  /-- What each device last reported: its core-cycles, and the rows that it has room for by table (R277). -/
  loads : Tab (Nat × Tab Nat) := []
  deriving DecidableEq, Repr

/-! ### Row programs and updates (chapters 6 and 7) -/

/-- A program in a slot (R204, R207): its owner, the three sections, the constants and what it requires of a table. -/
structure Program where
  ctx : Nat := 0
  secA : List Word32 := []
  secRow : List Word32 := []
  secB : List Word32 := []
  consts : List Word32 := []
  planes : Nat := 0
  words : Nat := 0
  deriving DecidableEq, Repr

/-- What a row program's run waits for. -/
inductive RunPhase where
  /-- The program runs. -/
  | running
  /-- The commit is formed and its write has started (R177). -/
  | committing
  /-- The dirty shadow has no room (R178). -/
  | shadowWait
  /-- The delta pool has no room, since the time given (R87). -/
  | deltaWait (since : Nat)
  /-- The WRITE of a T4 page is outstanding, or has completed (R179, R251). -/
  | t4Wait
  | t4Done
  deriving DecidableEq, Repr

/-- A run of a row program on a core (R175, R188 to R193). -/
structure RowRun where
  queue : Nat := 0
  seq : Nat := 0
  grad : RowGrad
  prog : Program := {}
  /-- 0 pass A, 1 row section, 2 pass B, 3 ended. -/
  sect : Nat := 0
  chunk : Nat := 0
  /-- The chunk has begun, or the section is the row section. -/
  begun : Bool := false
  pc : Nat := 0
  /-- v0 to v15, eight lanes each (R190). -/
  v : List Word32 := List.replicate 128 0
  s : List Word32 := List.replicate 8 0
  /-- p0 to p3. -/
  p : List Nat := [0, 255, 255, 255]
  /-- Staged data elements, with whether STRJ wrote them last (R193). -/
  data : Tab (Word32 × Bool) := []
  /-- Staged state values by plane × 8192 + element. -/
  planes : Tab Word32 := []
  words : Tab Word32 := []
  phase : RunPhase := .running
  image : List Byte := []
  deriving DecidableEq, Repr

/-- The feed part of a LOOKUP or SCATTER that ingests records (R99 to R101). -/
structure Ingest where
  mask : Nat := 0
  tag : Nat := 0
  /-- Channels whose TAG_END has been consumed. -/
  endedOn : List Nat := []
  /-- Records from memory: bytes of the area taken so far. -/
  areaPos : Nat := 0
  /-- SEQ of the next record of the area (R97, R101). -/
  areaSeq : Nat := 0
  fromMemory : Bool := false
  done : Bool := false
  deriving DecidableEq, Repr

/-- The work of a SCATTER, or of a FLUSH (R167, R186, R292), keyed by task number. -/
structure UpdateWork where
  flush : Bool := false
  plain : Bool := false
  consume : Bool := false
  releaseOnly : Bool := false
  fromMemory : Bool := false
  bf16 : Bool := false
  skipRow : Bool := false
  mapMode : Nat := 0
  job : Option Nat := none
  mapSeq : Nat := 0
  mapAddr : Nat := 0
  gradAddr : Nat := 0
  stride : Nat := 0
  commitMap : Nat := 0
  step : Nat := 0
  params : List Word32 := []
  /-- From the retained-map record and the map (R160, R119). -/
  poolMode : Nat := 0
  winnerAddr : Nat := 0
  bags : Nat := 0
  elems : Nat := 1
  /-- The directory of the map: key, first reference and references of each row (R121). -/
  dir : List (Nat × Nat × Nat) := []
  /-- Offset of the reference array in the map, and of the weights where the map has them (R119). -/
  refsAt : Nat := 0
  weightsAt : Option Nat := none
  /-- Finishing clusters of the directory entries whose buckets are open, and their buckets there (R171). -/
  homes : Tab Nat := []
  whole : Tab Bucket := []
  /-- Shard buckets that are being combined, and their clusters, by directory entry × 2^24 + shard (R172). -/
  partials : Tab Bucket := []
  shardAt : Tab Nat := []
  /-- Runs deposited: directory entry and first reference. -/
  runs : List (Nat × Nat) := []
  handles : List Nat := []
  /-- The slot that each table was bound with, and the program of each such slot, as they were at admission (R208). -/
  slots : Tab Nat := []
  programs : List (Nat × Program) := []
  ingest : Ingest := {}
  /-- Elements of each bag received on the feed, by bag. -/
  got : Tab Nat := []
  /-- The channel and SEQ of the last record of each bag (R99, R165). -/
  gotFrom : Tab (Nat × Nat) := []
  /-- Directory entries whose bucket has been finished, contributed or passed over. -/
  finished : List Nat := []
  /-- Directory entries done for the commit map (R182). -/
  doneRows : List Nat := []
  /-- Buckets that wait for the job's selection or have been built, by key (R289). -/
  local' : Tab Bucket := []
  /-- Row gradients that wait for a program. -/
  ready : List RowGrad := []
  /-- Every contribution has been sent, with RANK_DONE. -/
  sent : Bool := false
  committed : Nat := 0
  skipped : Nat := 0
  frozen : Nat := 0
  notBound : Nat := 0
  ovf : Nat := 0
  boundExceeded : Nat := 0
  termsSaturated : Nat := 0
  nonfinite : Nat := 0
  firstNf : Option (Nat × Nat) := none
  released : Bool := false
  mapWritten : Bool := false
  sharded : Nat := 0
  previous : Nat := 0
  deriving DecidableEq, Repr

/-- A retained-map record (R160, R161). -/
structure RetainedMap where
  /-- Queue of the LOOKUP that took the record. -/
  queue : Nat := 0
  ctx : Nat := 0
  seq : Nat := 0
  addr : Nat := 0
  bags : Nat := 0
  elems : Nat := 1
  poolMode : Nat := 0
  winnerAddr : Nat := 0
  handles : List Nat := []
  /-- The LOOKUP has reached COMPLETE; until then the record is only taken. -/
  retained : Bool := false
  releasing : Bool := false
  /-- RELEASE_ONLY tasks that wait for the release. -/
  waiters : List (Nat × Nat) := []
  deriving DecidableEq, Repr

/-- A load of a program slot, or its emptying, that waits for ACTIVE SCATTER tasks (R208). -/
structure SlotLoad where
  id : Nat := 0
  ctx : Nat := 0
  /-- None to empty the slot. -/
  program : Option Program := none
  deriving DecidableEq, Repr

/-- Programs, runs, updates and retained maps. -/
structure Updates where
  /-- The device's master copy of each slot, which every core's copy equals whenever a program runs (R206, R207). -/
  programs : Tab Program := []
  /-- Loads that wait, by slot, oldest first (R208). -/
  loading : Tab (List SlotLoad) := []
  runs : Tab RowRun := []
  works : Tab UpdateWork := []
  /-- In the order of the LOOKUPs' admission. -/
  maps : List RetainedMap := []
  deriving DecidableEq, Repr

/-! ### Feed channels (chapter 4) -/

/-- A record in an ingest buffer (R97). -/
structure BufRec where
  hdr : Word128
  payload : List Byte
  /-- The opening of the channel in which it arrived. -/
  opening : Nat := 0
  deriving DecidableEq, Repr

/-- A tag in use on a channel (R97, R100). -/
structure TagUse where
  /-- The ACTIVE task that claims it, by task number. -/
  owner : Option Nat := none
  /-- SEQ of the next record that Pitter consumes. -/
  nextSeq : Nat := 0
  /-- The opening of the channel to which the use belongs: no use outlives it (R97, R106). -/
  opening : Nat := 0
  draining : Bool := false
  /-- SEQ of a record discarded by overrun while no task claimed the tag (R105). -/
  lostSeq : Option Nat := none
  deriving DecidableEq, Repr

/-- A feed channel (R94 to R96, R102). -/
structure Channel where
  isOpen : Bool := false
  /-- FEED_OPENs of the channel that were accepted. -/
  opening : Nat := 0
  stopDistance : Nat := 0
  stopped : Bool := false
  overrun : Bool := false
  /-- Free bytes of the 4 MiB ingest buffer. -/
  free : Nat := 4194304
  discarded : Nat := 0
  discardedOvf : Bool := false
  buffer : List BufRec := []
  uses : Tab TagUse := []
  deriving DecidableEq, Repr

/-! ### Look-ups and index work (chapters 4 and 5) -/

/-- The records of a bag that have been consumed (R99). -/
structure BagIn where
  inputs : List BagInput := []
  /-- The channel of its records plus one, or 0 for the record area. -/
  src : Nat := 0
  /-- BAG_LAST has been consumed. -/
  closed : Bool := false
  /-- SEQ, or byte offset in the record area, of its last record. -/
  last : Nat := 0
  deriving DecidableEq, Repr

/-- A finished bag (R149, R150). -/
structure BagOut where
  body : List Byte := []
  ovf : Bool := false
  bound : Bool := false
  saturated : Bool := false
  nonfinite : Nat := 0
  /-- The first non-finite element, and the lowest slot of a non-finite term where there is one (R155). -/
  firstNf : Option (Nat × Option Nat) := none
  deriving DecidableEq, Repr

/-- The work of a LOOKUP (R134 to R158), keyed by task number. -/
structure LookupWork where
  poolMode : Nat := 0
  plain : Bool := false
  winners : Bool := false
  fuseMax : Bool := false
  fuseSum : Bool := false
  toMemory : Bool := false
  anyOrder : Bool := false
  retain : Bool := false
  withStatus : Bool := false
  format : Nat := 0
  scaling : Nat := 0
  elems : Nat := 1
  stream : Nat := 0
  bags : Nat := 1
  stride : Nat := 0
  outAddr : Nat := 0
  mapAddr : Nat := 0
  mapBytes : Nat := 0
  scratchBytes : Nat := 0
  recordAddr : Nat := 0
  recordBytes : Nat := 0
  statusAddr : Nat := 0
  winnerAddr : Nat := 0
  views : List TableView := []
  ingest : Ingest := {}
  ins : Tab BagIn := []
  probes : Nat := 0
  /-- Deduplication has ended and the map is written. -/
  deduped : Bool := false
  infos : List BagInfo := []
  dir : List DirEntry := []
  /-- Unique rows read, by key, and runs deposited: key, first reference of the run within the row, and cluster. -/
  rows : Tab RowRead := []
  runs : List (Nat × Nat × Nat) := []
  /-- Rows that have counted for their shards (R232). -/
  seen : List Nat := []
  /-- Runs to deposit again, in part, because a cluster has left: key, first reference within the row, and the bags whose references
  are to be deposited (R158). -/
  redo : List (Nat × Nat × List Nat) := []
  /-- Home clusters of opened bags. -/
  homes : Tab Nat := []
  /-- Frames by bag × 512 + cluster (R140), and in plain mode the terms of each engine by that number × 2,048 + core: slot and
  terms (R143). -/
  frames : Tab Bucket := []
  engines : Tab (List (Nat × List Word32)) := []
  /-- Partials at the home cluster by bag × 8,192 + chain address × 512 + cluster (R142, R143). -/
  parts : Tab Bucket := []
  /-- Partials of other devices for bags that have not opened, by the same number (R141, R142). -/
  early : Tab Bucket := []
  /-- References that owners found out of range, by bag (R273). -/
  beyond : Tab Nat := []
  done : Tab BagOut := []
  sent : List Nat := []
  /-- Bags whose body has gone out to a chained device or to flash, and is not visible there yet (R152, R349). -/
  writing : List Nat := []
  delivered : List Nat := []
  /-- Keys whose rows other devices own, and the owners that hold a remote task for it with its transaction tag (R273). -/
  far : List Nat := []
  owners : List Nat := []
  tag : Nat := 0
  deriving DecidableEq, Repr

/-- The work of a GATHER_SAMPLES (R131 to R133), keyed by task number. -/
structure GatherWork where
  n : Nat := 1
  keyLo : Nat := 0
  keyHi : Nat := 0
  epoch : Nat := 0
  first : Nat := 0
  count : Nat := 0
  indexAddr : Nat := 0
  fromMemory : Bool := false
  permAddr : Nat := 0
  toMemory : Bool := false
  outAddr : Nat := 0
  stream : Nat := 0
  stageAddr : Nat := 0
  stageBytes : Nat := 0
  /-- Positions whose windows have been delivered, and bytes written to memory. -/
  sent : Nat := 0
  written : Nat := 0
  deriving DecidableEq, Repr

/-- Index work. -/
structure Index where
  lookups : Tab LookupWork := []
  gathers : Tab GatherWork := []
  /-- Keys written by each SORT, by task number (R126). -/
  sorts : Tab Nat := []
  /-- Pitter units of the SORT, SHUFFLE and GATHER_SAMPLES jobs, by task number (R116). -/
  units : Tab (List Nat) := []
  deriving DecidableEq, Repr

/-- The work of the device. -/
structure Work where
  tbl : Tables := {}
  upd : Updates := {}
  feeds : Tab Channel := []
  idx : Index := {}
  chain : Chain := {}
  deriving DecidableEq, Repr

end Sys2Proof.Machine
end

