-- ==== Sys2Proof/Machine/State.lean ====
section
/-! DEFINITION. The state of the Gotus 8400 as plain data, its reset value, and the reasons for which a step can stop. -/

namespace Sys2Proof.Machine

/-- The faults of a step. Every behaviour that the manual calls a fault is an effect on the state (a fault record, a
status, SAFE), so no step of this model ends in one. -/
inductive Fault where
  /-- Raised by no meaning of this model. Safe: a step that stopped would allow no claim about what follows. -/
  | unreachable
  deriving DecidableEq, Repr

/-- The refusals of a step. -/
inductive Refusal where
  /-- Raised by `exec` for a row that has no meaning yet, with the row's mnemonic. Safe: nothing is claimed of it. -/
  | notModelled (mnemonic : String)
  deriving DecidableEq, Repr

/-- The whole state. Every field starts at its reset value. -/
structure State where
  /-- The commands that wait, first in, first out. The model's own field. -/
  pending : List Instr := []
  /-- Reference-clock time since COLD_RESET_N was deasserted, in 10 ns (R456, R486). -/
  clock : Nat := 0
  /-- Free values used so far. The model's own field. -/
  freeCtr : Nat := 0
  fuses : Fuses := {}
  /-- The boot flash by flash address; an unlisted byte is erased and reads 0xFF (R510, R514). -/
  flash : List Host.Cell := []
  sys : Sys := {}
  mbx : Mailbox := {}
  dbg : DebugWin := {}
  fq : FaultQueue := {}
  irq : Irq := {}
  attach : Attach := {}
  journal : Journal := {}
  ctxs : Tab Ctx := []
  queues : Tab Queue := []
  /-- Tasks of each queue by queue × 2^32 + SEQ. -/
  tasks : Tab Task := []
  /-- Ranges by DEV_BASE (R329). -/
  ranges : Tab Range := []
  windows : Tab Window := []
  ats : Ats := {}
  streams : Streams := {}
  stackTab : Tab StackPort := []
  power : Power := {}
  faults : Faults := {}
  mpLower : MpState := {}
  mpUpper : MpState := {}
  events : EventLog := {}
  counters : Counters := {}
  i3c : I3c := {}
  tap : Tap := {}
  spdm : Spdm := {}
  fw : FwUpd := {}
  links : Links := {}
  /-- Device memory by device address; an unlisted byte is zero (R330, R515). -/
  mem : List Host.Cell := []
  /-- Host memory by host address, plus 2^64 × (1 + PASID) for an address with PASID; an unlisted byte is zero. -/
  hostMem : List Host.Cell := []
  /-- What the device has sent through its ports, oldest first. The model's own record. -/
  sent : List OutMsg := []
  work : Work := {}
  deriving DecidableEq, Repr

/-- The machine right after reset: COLD_RESET_N asserted, nothing started, and the boot flash erased (log entry 3). -/
def State.reset : State := {}

end Sys2Proof.Machine
end

