-- ==== Sys2Proof/Machine/Ops.lean ====
section
/-! DEFINITION. The named operations on the state: memory and addresses, interrupts, events, counters, fault records, the
mailbox protocol, and the end of tasks. -/

namespace Sys2Proof.Machine

/-- The outcome of a row whose effect is `f`, while the device state is not frozen (R463, R464, R471). -/
def live (f : State → State) (s : State) : Host.Outcome State Fault Refusal :=
  .next (if s.sys.frozen then s else f s)

/-- `f` where the condition holds, and the state unchanged otherwise. -/
def whenS (c : Bool) (f : State → State) (s : State) : State := if c then f s else s

/-- Tasks and queues run: in READY, and throughout an update (R359, R499). -/
def tasksRun (s : State) : Bool := decide (s.sys.engState = .ready) || decide (s.sys.engState = .updating)

/-! ### Time, counters and events -/

/-- The reference clock advances by 10 ns. -/
def tick (s : State) : State := { s with clock := s.clock + 1 }

/-- A 64-bit statistics counter rises by `n`, saturating with its sticky bit (R11, R483). -/
def countAt (i n : Nat) (s : State) : State :=
  let v := Tab.getD s.counters.values i 0
  { s with counters :=
      { values := Tab.put s.counters.values i (satAdd 64 v n)
        overflow := if satOvf 64 v n then Tab.put s.counters.overflow i true else s.counters.overflow } }

/-- A named counter rises by `n`. -/
def count (c : Ctr) (n : Nat) (s : State) : State := countAt c.index n s

/-- The value of a counter. -/
def counterVal (s : State) (i : Nat) : Nat := Tab.getD s.counters.values i 0

/-- A message is sent. -/
def send (m : OutMsg) (s : State) : State := { s with sent := s.sent ++ [m] }

/-! ### Messages over UCIe (R405 to R409) -/

/-- The module. -/
def ucieOf (s : State) (m : Nat) : Ucie := Tab.getD s.links.ucie m {}

/-- A module is put. -/
def putUcie (m : Nat) (u : Ucie) (s : State) : State := { s with links := { s.links with ucie := Tab.put s.links.ucie m u } }

/-- The module carries a class: the link is up and both HELLOs list it (R410). CONTROL goes whenever the link is up. -/
def carries (s : State) (m cls : Nat) : Bool :=
  let u := ucieOf s m
  u.up && (decide (cls = 8) || (u.helloOk && u.classes.testBit cls))

/-- A flit (R405). -/
def mkFlit (u : Ucie) (cls ch : Nat) (som eom replay : Bool) (bs : List Byte) : BitVec 2048 :=
  let head := packFields [(0, 4, cls), (4, 5, ch), (9, 1, b2n som), (10, 1, b2n eom), (11, 8, bs.length - 1), (19, 1, b2n replay),
    (32, 12, u.txSeq), (44, 12, u.rxSeq), (56, 1, b2n u.rxAny)]
  let body := toBytes 8 head ++ bs ++ zeroBytes (244 - bs.length)
  BitVec.ofNat 2048 (ofBytes (body ++ toBytes 4 (crc32c body)))

/-- The flits of a message take the next numbers and are kept (R407). -/
def keepFlits (cls ch : Nat) (replay som : Bool) : List (List Byte) → Ucie → Ucie
  | [], u => u
  | bs :: rest, u =>
    keepFlits cls ch replay false rest { u with
      txSeq := (u.txSeq + 1) % 4096
      kept := u.kept ++ [{ seq := u.txSeq, flit := mkFlit u cls ch som rest.isEmpty replay bs }] }

/-- Flits of a message. -/
def flitCount (n : Nat) : Nat := max 1 ((n + 243) / 244)

/-- A message goes out in flits (R407). -/
def sendMsg (m cls ch : Nat) (replay : Bool) (bs : List Byte) (s : State) : State :=
  send (.message m cls ch bs replay)
    (putUcie m (keepFlits cls ch replay true (chunks 244 (flitCount bs.length) bs) (ucieOf s m)) s)

/-- A control message goes out while the link is up. -/
def sendControl (m : Nat) (msg : Word128) (s : State) : State :=
  if (ucieOf s m).up then
    send (.control m msg) (putUcie m (keepFlits 8 0 false true [toBytes 16 msg.toNat] (ucieOf s m)) s)
  else s

/-- The key under which a class's credits are held: the class, or 32 plus the delivery stream (R409). -/
def creditKey (cls ch : Nat) : Nat := if cls = 7 then 32 + ch else cls

/-- 16-byte units of a message. -/
def unitsOfMsg (bs : List Byte) : Nat := (bs.length + 15) / 16

/-- The module may send the message now: it carries the class, holds credit for all of its units (R409), and its replay buffer of 512
flits is not full (R407). -/
def hasCredit (s : State) (m cls ch : Nat) (bs : List Byte) : Bool :=
  carries s m cls && decide ((ucieOf s m).kept.length < 512) &&
    decide (unitsOfMsg bs ≤ Tab.getD (ucieOf s m).credits (creditKey cls ch) 0)

/-- Credit for a message is spent. -/
def spendCredit (m cls ch : Nat) (bs : List Byte) (s : State) : State :=
  let u := ucieOf s m
  let k := creditKey cls ch
  putUcie m { u with credits := Tab.put u.credits k (Tab.getD u.credits k 0 - unitsOfMsg bs) } s

/-- A message of a class with credits goes out, or waits for credit (R409). -/
def postMsg (m cls ch : Nat) (bs : List Byte) (s : State) : State :=
  if hasCredit s m cls ch bs then sendMsg m cls ch false bs (spendCredit m cls ch bs s)
  else
    let u := ucieOf s m
    putUcie m { u with waiting := u.waiting ++ [(cls, ch, bs)] } s

/-- Messages that wait go out in order while credit lasts (R409). -/
def drainWaiting (m : Nat) (s : State) : State :=
  let ws := (ucieOf s m).waiting
  ws.foldl (fun s w => postMsg m w.1 w.2.1 w.2.2 s) (putUcie m { ucieOf s m with waiting := [] } s)

/-- An in-band interrupt of one kind: raised at once while enabled, and otherwise pending once (R490). -/
def raiseIbi (kind : Nat) (s : State) : State :=
  if s.i3c.ibiEnabled then send (.ibi kind) s
  else if s.i3c.pending.contains kind then s
  else { s with i3c := { s.i3c with pending := s.i3c.pending ++ [kind] } }

/-- The host port carries traffic: its link is up and no host loss is in force (R397). -/
def hostUp (s : State) : Bool := s.links.host.up && !s.attach.lost

/-- The MSI-X message of a vector is sent, or the vector becomes pending (R395); a vector of UCIE_VECTOR_MASK goes as a
notice over UCIe (R412). -/
def sendVector (v : Nat) (s : State) : State :=
  if s.sys.cfg.ucieVectorMask.testBit v then
    postMsg s.sys.cfg.ucieVectorModule 4 0 (toBytes 16 v) s
  else
    let e := Tab.getD s.irq.msixTable v {}
    if s.irq.msixEnable && !e.masked && hostUp s then send (.msix v e.addr e.data) s
    else if s.irq.pending.contains v then s
    else { s with irq := { s.irq with pending := insertBy id v s.irq.pending } }

/-- A cause becomes 1; an enabled cause that was 0 sends its vector (R394, R395). -/
def raiseCause (c : Cause) (s : State) : State :=
  if s.irq.causes.toNat.testBit c.index then s
  else
    let s' := { s with irq := { s.irq with causes := s.irq.causes ||| BitVec.ofNat 7 (2 ^ c.index) } }
    if s.irq.enables.toNat.testBit c.index then sendVector c.vector s' else s'

/-- An event is appended to the log (R485), with cause EVENT and its in-band interrupt (R490). -/
def event (code : EventCode) (args : Nat) (s : State) : State :=
  let e : Event := { code := code, seq := s.events.nextSeq, time := s.clock, args := args }
  let full := decide (4096 ≤ s.events.events.length)
  let es := if full then s.events.events.drop 1 else s.events.events
  let s := { s with events := { events := es ++ [e], nextSeq := s.events.nextSeq + 1 } }
  let s := whenS full (count .eventsOverwritten 1) s
  raiseIbi 3 (raiseCause .event s)

/-- STATE of ENG_STATE changes (R354): cause STATE_CHANGE and an in-band interrupt (R394, R490). -/
def setEngState (st : EngState) (s : State) : State :=
  if s.sys.engState = st then s
  else raiseIbi 1 (raiseCause .stateChange { s with sys := { s.sys with engState := st } })

/-! ### Fault records -/

/-- FULL of R392. -/
def fqFull (fq : FaultQueue) : Bool :=
  !fq.enable || decide ((fq.prod - fq.cons).toNat = 8192)

/-- The 64 bytes of a fault record (R456). -/
def faultBytes (r : FaultRecord) : List Byte :=
  let common := packFields
    [(0, 4, r.cls.code), (4, 4, r.sev.code), (8, 8, r.ctx.getD 0), (16, 1, b2n r.ctx.isSome), (17, 1, b2n r.deferred),
     (18, 1, b2n r.task.isSome), (32, 32, r.recordSeq), (64, 64, r.time), (128, 64, r.location),
     (192, 32, (r.task.map Prod.snd).getD 0), (224, 10, (r.task.map Prod.fst).getD 0)]
  toBytes 32 common ++ toBytes 32 r.spec

/-- Cause FAULTQ_FULL, once each time FULL becomes 1 (R393). -/
def fqEdge (before : FaultQueue) (s : State) : State :=
  if fqFull s.fq && !fqFull before then raiseCause .faultqFull s else s

/-- A record is written to the queue (R392, R393): the record, then FQ_PROD, then the cause. -/
def fqWrite (r : FaultRecord) (s : State) : State :=
  let a := s.fq.base.toNat + 64 * (s.fq.prod.toNat % 8192)
  let before := s.fq
  let s := { s with hostMem := cellWrite 0 s.hostMem a (faultBytes r), fq := { s.fq with prod := s.fq.prod + 1 } }
  fqEdge before (raiseCause .faultRecord s)

/-- A fault is counted as not written (R393). -/
def fqDrop (cls : Nat) (s : State) : State :=
  { s with fq := { s.fq with
      dropped := satAdd 64 s.fq.dropped 1
      droppedOvf := s.fq.droppedOvf || satOvf 64 s.fq.dropped 1
      classDropped := Tab.put s.fq.classDropped cls (satAdd 32 (Tab.getD s.fq.classDropped cls 0) 1) } }

/-- A fault record is created: it takes the next RECORD_SEQ and the time, and is written, or dropped and counted, or kept
for the streams that wait on it (R393, R456). -/
def faultRecord (r : FaultRecord) (s : State) : State :=
  let r := { r with recordSeq := s.fq.recordSeq, time := s.clock }
  let s := { s with fq := { s.fq with recordSeq := seqNext 32 s.fq.recordSeq } }
  if fqFull s.fq then
    let s := fqDrop r.cls.code s
    if r.tag.isSome then { s with fq := { s.fq with waiting := s.fq.waiting ++ [r] } } else s
  else fqWrite r s

/-- A LINK record of start-up is written once the queue is enabled (R515). -/
def keepRecord (r : FaultRecord) (s : State) : State :=
  if fqFull s.fq then
    let r := { r with recordSeq := s.fq.recordSeq, time := s.clock }
    { s with fq := { s.fq with recordSeq := seqNext 32 s.fq.recordSeq, kept := s.fq.kept ++ [r] } }
  else faultRecord r s

/-! ### Locations -/

/-- Location code of a device address by region (R459). -/
def locDev (a : Nat) : Nat :=
  let k := if a < 2 ^ 39 then LocKind.hbm
    else if a < 0x0500_0000_0000 then .expander
    else if a < 0x0020_0000_0000_0000 then .host
    else .flash
  (a / 16) * 16 + k.code

/-- Location code of a bank word: core number under R17 and word (R459). -/
def locBank (core word : Nat) : Nat := packFields [(0, 4, 1), (4, 20, core), (24, 9, word)]

/-- Location code of an accumulator word (R459). -/
def locAccum (cluster word : Nat) : Nat := packFields [(0, 4, 2), (4, 9, cluster), (13, 17, word)]

/-- Location code of a bond wire (R459). -/
def locBond (channel dir wire : Nat) : Nat := packFields [(0, 4, 8), (4, 8, channel), (12, 1, dir), (13, 10, wire)]

/-- Location code of a peer link (R459). -/
def locPeer (port addr : Nat) : Nat := packFields [(0, 4, 9), (4, 4, port), (8, 4, addr)]

/-- Location code of a program word (R459). -/
def locProgram (core slot word : Nat) : Nat := packFields [(0, 4, 10), (4, 20, core), (24, 3, slot), (27, 4, word)]

/-- Location code of a UCIe module (R459). -/
def locUcie (m : Nat) : Nat := packFields [(0, 4, 11), (4, 3, m)]

/-- Location code of a management processor (R459). -/
def locMp (half : Nat) : Nat := packFields [(0, 4, 12), (4, 1, half)]

/-! ### Addresses -/

/-- The half of a cluster: bit 8 of its number (R17). -/
def halfOf (cluster : Nat) : Nat := (cluster / 256) % 2

/-- The populated stack ports for STACKS (R321). -/
def populatedPorts (count : Nat) : List Nat :=
  if count = 4 then [0, 1, 4, 5] else if count = 6 then [0, 1, 2, 4, 5, 6]
  else if count = 8 then [0, 1, 2, 3, 4, 5, 6, 7] else []

/-- The stack port is populated (R321). -/
def populated (s : State) (p : Nat) : Bool := (populatedPorts s.sys.cfg.stackCount).contains p

/-- The state of a stack port. -/
def stackPort (s : State) (p : Nat) : StackPort := Tab.getD s.stackTab p {}

/-- The part of a stack that is memory in the pool or in ranges: the retired slice is left out for RANGE_MAP (R455). -/
def stackUsable (p : StackPort) : Nat :=
  if p.retiredChannel.isSome then p.capacity - p.capacity / 32 else p.capacity

/-- An area of device addresses lies wholly in one stack's memory (R321). -/
def inStack (s : State) (a n : Nat) : Bool :=
  let p := a / 2 ^ 36
  decide (p < 8) && populated s p && !(stackPort s p).lost && decide (a % 2 ^ 36 + n ≤ (stackPort s p).capacity)

/-- An area lies wholly in one expander's memory (R327). -/
def inExpander (s : State) (a n : Nat) : Bool :=
  let e := (a - 2 ^ 40) / 2 ^ 40
  decide (2 ^ 40 ≤ a) && decide (e < 4) &&
    decide ((a - 2 ^ 40) % 2 ^ 40 + n ≤ (Tab.getD s.links.expanders e {}).capacity)

/-- The range that covers an area, whatever its context, and whether or not it is UNMAPPING (R333). -/
def rangeAt (s : State) (a n : Nat) : Option (Nat × Range) :=
  s.ranges.find? fun e => decide (e.1 ≤ a) && decide (a + n ≤ e.1 + e.2.len)

/-- The range of a context that covers an area, as queue-time resolution sees it (R332, R335). -/
def ctxRange (s : State) (ctx a n : Nat) : Option (Nat × Range) :=
  s.ranges.find? fun e =>
    decide (e.1 ≤ a) && decide (a + n ≤ e.1 + e.2.len) && decide (e.2.ctx = ctx) && !e.2.unmapping

/-- The rights of R333. -/
inductive Right where
  | r | w | a
  deriving DecidableEq, Repr

/-- The range grants the right (R333). -/
def Range.grants (g : Range) : Right → Bool
  | .r => g.r
  | .w => g.w
  | .a => g.a

/-- The kinds of range to which a rule confines an area. -/
inductive AreaKind where
  /-- Any range. -/
  | any
  /-- A STACK range. -/
  | stack
  /-- A STACK or PINNED HOST range. -/
  | stackOrPinned
  /-- A STACK, EXPANDER or PINNED HOST range (R335). -/
  | near
  /-- A PINNED HOST range. -/
  | pinned
  deriving DecidableEq, Repr

/-- The range is of the kind. -/
def AreaKind.admits (k : AreaKind) (g : Range) : Bool :=
  match k with
  | .any => true
  | .stack => decide (g.kind = .stack)
  | .stackOrPinned => decide (g.kind = .stack) || (decide (g.kind = .host) && g.pinned)
  | .near => decide (g.kind = .stack) || decide (g.kind = .expander) || (decide (g.kind = .host) && g.pinned)
  | .pinned => decide (g.kind = .host) && g.pinned

/-- An area lies in one range of the context, of the kind and with the right (R335, R524). -/
def areaOk (s : State) (ctx a n : Nat) (right : Right) (k : AreaKind) : Bool :=
  match ctxRange s ctx a n with
  | some (_, g) => g.grants right && k.admits g
  | none => false

/-- The key of a host address in host memory: 2^64 × (1 + PASID) above the address, or the address itself (R334). -/
def hostKey (pasidValid : Bool) (pasid ha : Nat) : Nat := if pasidValid then 2 ^ 64 * (1 + pasid) + ha else ha

/-- Where a device address is held: device memory, or host memory under a key (R334, R343). -/
def locate (s : State) (a : Nat) : Bool × Nat :=
  if a < 0x0010_0000_0000_0000 then (false, a)
  else match rangeAt s a 1 with
    | some (base, g) =>
      if g.kind = .host then
        match Tab.get? g.devicePages ((a - base) / 4096) with
        | some p => (false, p + (a - base) % 4096)
        | none => (true, hostKey g.pasidValid g.pasid (g.hostStart + (a - base)))
      else (false, a)
    | none => (false, a)

/-- The byte at a device address. -/
def devGet (s : State) (a : Nat) : Byte :=
  let l := locate s a
  if l.1 then cellGet 0 s.hostMem l.2 else cellGet 0 s.mem l.2

/-- A byte is written at a device address. -/
def devSet (a : Nat) (b : Byte) (s : State) : State :=
  let l := locate s a
  if l.1 then { s with hostMem := cellSet 0 s.hostMem l.2 b } else { s with mem := cellSet 0 s.mem l.2 b }

/-- `n` bytes at a device address. -/
def devRead (s : State) (a : Nat) : Nat → List Byte
  | 0 => []
  | n + 1 => devGet s a :: devRead s (a + 1) n

/-- Bytes are written from a device address on. -/
def devWrite (a : Nat) : List Byte → State → State
  | [], s => s
  | b :: bs, s => devWrite (a + 1) bs (devSet a b s)

/-- A number of `n` bytes at a device address, lowest byte first (R7). -/
def devNat (s : State) (a n : Nat) : Nat := ofBytes (devRead s a n)

/-- Bytes that the host wrote to its memory become visible. -/
def hostWrote (cs : List Host.Cell) (s : State) : State :=
  { s with hostMem := cellApply 0 s.hostMem cs }

/-- Physical cores of a cluster that are good and serve as no logical core, in ascending order (R451). -/
def spareList (s : State) (cluster : Nat) : List Nat :=
  let m := Tab.getD s.faults.coreMaps cluster {}
  let taken := m.worn ++ m.replaced.map Prod.snd ++
    (s.faults.replacing.filter fun e => decide (e.1 / 2048 = cluster)).map Prod.snd
  (((List.range 2112).filter fun p => !m.failed.contains p).drop 2048).filter fun p => !taken.contains p

/-- Spare cores of a cluster, each of which lends a transit bank (R137, R451). -/
def spareCores (s : State) (cluster : Nat) : Nat := (spareList s cluster).length

/-- Clusters that are not retired (R454). -/
def serviceClusters (s : State) : List Nat :=
  (List.range 512).filter fun c => !s.faults.retiredClusters.contains c

/-- The physical core behind a logical core of a cluster (R451). -/
def physicalOf (s : State) (cluster core : Nat) : Nat :=
  let m := Tab.getD s.faults.coreMaps cluster {}
  match Tab.get? m.replaced core with
  | some p => p
  | none => ((List.range 2112).filter fun p => !m.failed.contains p).getD core 0

/-- The Lull state of a cluster pair (R478). -/
def lullOf (s : State) (pair : Nat) : Lull := Tab.getD s.power.lull pair {}

/-- The cluster is in service and its pair in L0: requests for it need not wait (R478, R480). -/
def clusterAwake (s : State) (c : Nat) : Bool :=
  decide (c < 512) && !s.faults.retiredClusters.contains c && decide ((lullOf s (c % 256)).state = 0)

/-- The work of a core is held while it is replaced, and while its pair is not in L0 (R453, R480). -/
def coreHeld (s : State) (core : Nat) : Bool := Tab.has s.faults.replacing core || !clusterAwake s (core / 2048)

/-- The engines of a core do no work: the core is held, or its island's credit bucket is empty until the next refill (R474). -/
def engineHeld (s : State) (core : Nat) : Bool :=
  coreHeld s core || (Tab.getD s.power.islands (core / 2048) s.power.base).stalled

/-- The engines of a cluster work: it is awake, and its credit bucket is not empty (R474, R480). -/
def enginesRun (s : State) (c : Nat) : Bool := clusterAwake s c && !(Tab.getD s.power.islands c s.power.base).stalled

/-- A word of the area is fenced, or the area lies in a stack that is lost (R449, R460). -/
def areaFenced (s : State) (a n : Nat) : Option Nat :=
  if a < 2 ^ 39 ∧ (stackPort s (a / 2 ^ 36)).lost = true then some (locDev a)
  else (s.faults.fences.find? fun e =>
    decide (4 ≤ e.1 % 16) && decide (e.1 % 16 ≤ 7) && decide (a < e.1 / 16 * 16 + 16) && decide (e.1 / 16 * 16 < a + n)).map Prod.fst

/-- A write of the area clears the fence of every 16 B word that it covers whole (R449). -/
def clearFences (a n : Nat) (s : State) : State :=
  { s with faults := { s.faults with fences := s.faults.fences.filter fun e =>
      !(decide (4 ≤ e.1 % 16) && decide (e.1 % 16 ≤ 7) && decide (a ≤ e.1 / 16 * 16)
        && decide (e.1 / 16 * 16 + 16 ≤ a + n)) } }

/-! ### Tasks -/

/-- The number of a task: its queue and SEQ. -/
def tid (queue seq : Nat) : Nat := queue * 2 ^ 32 + seq % 2 ^ 32

/-- The task of a queue with SEQ. -/
def task? (s : State) (queue seq : Nat) : Option Task := Tab.get? s.tasks (tid queue seq)

/-- A task is replaced. -/
def putTask (t : Task) (s : State) : State := { s with tasks := Tab.put s.tasks (tid t.queue t.seq) t }

/-- A task is changed. -/
def updTask (queue seq : Nat) (f : Task → Task) (s : State) : State :=
  { s with tasks := Tab.upd s.tasks (tid queue seq) f }

/-- The context, or an empty one. -/
def ctxD (s : State) (c : Nat) : Ctx := Tab.getD s.ctxs c {}

/-- The ACTIVE code slot of a context (R246). -/
def activeSlot (c : Ctx) : Option (Nat × CodeSlot) := c.codeSlots.find? fun e => decide (e.2.state = .active)

/-- A task's write of an area of a HOST range is noted, with the lowest and highest address (R398). -/
def noteWrite (queue seq a n : Nat) (s : State) : State :=
  match rangeAt s a n with
  | none => s
  | some (base, g) =>
    if g.kind ≠ .host ∨ n = 0 then s
    else updTask queue seq (fun t =>
      let old := t.hostWrites.find? fun w => decide (w.1 = base)
      let w := match old with
        | some (_, lo, hi) => (base, min lo a, max hi (a + n - 1))
        | none => (base, a, a + n - 1)
      { t with hostWrites := t.hostWrites.filter (fun w => decide (w.1 ≠ base)) ++ [w] }) s

/-- A task writes bytes from a device address on: fences of words that the write covers clear (R449), and host ranges are noted
(R398). -/
def taskWrite (queue seq a : Nat) (bs : List Byte) (s : State) : State :=
  noteWrite queue seq a bs.length (clearFences a bs.length (devWrite a bs s))

/-- Bytes that the manual does not give, from free value `k` on. -/
def freeBytes (k n : Nat) : List Byte :=
  ((List.range ((n + 7) / 8)).flatMap fun i => toBytes 8 (Config.freeWord (k + i)).toNat).take n

/-- A task uses an area as scratch or as a stage: what its bytes hold afterwards is not given (log entry 31). -/
def useScratch (queue seq a n : Nat) (s : State) : State :=
  taskWrite queue seq a (freeBytes s.freeCtr n) { s with freeCtr := s.freeCtr + (n + 7) / 8 }

/-- A context is changed. -/
def updCtx (c : Nat) (f : Ctx → Ctx) (s : State) : State := { s with ctxs := Tab.upd s.ctxs c f }

/-- A queue is changed. -/
def updQueue (q : Nat) (f : Queue → Queue) (s : State) : State := { s with queues := Tab.upd s.queues q f }

/-- The task is the waiter. -/
def SemWho.of : SemWho → Nat × Nat
  | .task q n => (q, n)
  | .entry q n _ => (q, n)

/-- A task's waits leave every semaphore's order (R314) and every outstanding fault (R341). -/
def dropWaits (queue seq : Nat) (s : State) : State :=
  let mine := (s.streams.transfers.filter fun e => decide (e.2.queue = queue) && decide (e.2.seq = seq)).map Prod.fst
  let fs := s.ats.outFaults.map fun e => (e.1, { e.2 with waiters := e.2.waiters.filter fun x => !mine.contains x })
  { s with
    ctxs := s.ctxs.map fun c => (c.1, { c.2 with waiters := c.2.waiters.filter fun w => w.who.of != (queue, seq) })
    ats := { s.ats with outFaults := fs.filter fun e => !e.2.waiters.isEmpty } }

/-- Transfers of a task that have not issued are given up, and their entries stay incomplete (R318, R319, R375). -/
def dropUnissued (queue seq : Nat) (s : State) : State :=
  let mine (e : Nat × Transfer) : Bool := decide (e.2.queue = queue) && decide (e.2.seq = seq) && !e.2.issued
  let gone := ((s.streams.transfers.filter fun e => mine e && e.2.gate.isNone).map fun e => e.2.entry).eraseDups
  { s with streams := { s.streams with
      transfers := s.streams.transfers.filter fun e => !mine e
      streams := Tab.upd s.streams.streams (tid queue seq) fun x => { x with broken := x.broken ++ gone } } }

/-! ### Feed channels -/

/-- The channel. -/
def chan (s : State) (c : Nat) : Channel := Tab.getD s.work.feeds c {}

/-- A channel is put. -/
def putChan (c : Nat) (x : Channel) (s : State) : State :=
  { s with work := { s.work with feeds := Tab.put s.work.feeds c x } }

/-- The tag of a buffered record. -/
def BufRec.tag (b : BufRec) : Nat := bits b.hdr 64 16

/-- Some buffered record's tag has no ACTIVE claimer (R96). -/
def unclaimed (x : Channel) : Bool :=
  x.buffer.any fun b => (match Tab.get? x.uses b.tag with
    | some u => u.owner.isNone
    | none => true)

/-- FEED_STATUS (R96). -/
def feedStatus (x : Channel) : Nat :=
  packFields [(0, 1, b2n x.isOpen), (1, 1, b2n x.stopped), (2, 1, b2n x.overrun), (3, 1, b2n (unclaimed x)),
    (4, 19, x.free / 16)]

/-- A control message of the device streaming protocol (R408). -/
def controlMsg (opcode channel : Nat) (fs : List (Nat × Nat × Nat)) : Word128 :=
  BitVec.ofNat 128 (packFields ([(0, 4, opcode), (4, 5, channel)] ++ fs))

/-- STOP or RESUME where free space has crossed the stopping distance (R102). -/
def stopCheck (c : Nat) (s : State) : State :=
  let x := chan s c
  let want := x.isOpen && decide (x.free ≤ x.stopDistance)
  if want = x.stopped then s
  else
    let x' := { x with stopped := want }
    sendControl (c / 4) (controlMsg (if want then 4 else 5) c [(64, 32, feedStatus x')]) (putChan c x' s)

/-- Length of a record by its header: header and padded payload (R98, R164). -/
def bufLength (h : Word128) : Nat :=
  let n := bits h 8 12 + 1
  match bits h 0 4 with
  | 1 => 16 + roundup16 (8 * n)
  | 2 => 16 + roundup16 (12 * n)
  | 3 => 16 + roundup16 (4 * n)
  | 8 => 16 + roundup16 (4 * n)
  | 9 => 16 + roundup16 (2 * n)
  | 10 => 16 + roundup16 (4 * n)
  | 11 => 16 + roundup16 (2 * n)
  | _ => 16

/-- The record is the TAG_END of a tag. -/
def isTagEnd (tag : Nat) (b : BufRec) : Bool := decide (b.tag = tag) && decide (bits b.hdr 0 4 = 4)

/-- `n` records are counted as discarded (R96). -/
def discard (n : Nat) (x : Channel) : Channel :=
  { x with discarded := satAdd 64 x.discarded n, discardedOvf := x.discardedOvf || satOvf 64 x.discarded n }

/-- The buffer without the records of a tag up to and with its first TAG_END: what stays, the records dropped, and whether the
TAG_END was there. -/
def dropTag (tag : Nat) : List BufRec → List BufRec × List BufRec × Bool
  | [] => ([], [], false)
  | b :: bs =>
    if b.tag = tag then
      if isTagEnd tag b then (bs, [b], true)
      else let r := dropTag tag bs; (r.1, b :: r.2.1, r.2.2)
    else let r := dropTag tag bs; (b :: r.1, r.2.1, r.2.2)

/-- A tag begins to drain on a channel (R100): buffered records are discarded and counted; a buffered TAG_END ends the drain
uncounted. -/
def drainTag (c tag : Nat) (s : State) : State :=
  let x := chan s c
  let (keep, gone, ended) := dropTag tag x.buffer
  let x := discard (gone.length - b2n ended) { x with
    buffer := keep, free := x.free + sumNat (gone.map fun b => bufLength b.hdr) }
  let u := Tab.getD x.uses tag {}
  let u' : TagUse := { u with owner := none, nextSeq := 0, draining := !ended }
  let x := { x with uses := if ended && u.lostSeq.isNone then Tab.del x.uses tag else Tab.put x.uses tag u' }
  stopCheck c (putChan c x s)

/-- The tags that a task still holds drain on their channels (R100). -/
def releaseTags (queue seq : Nat) (s : State) : State :=
  s.work.feeds.foldl (fun s e =>
    (e.2.uses.filter fun u => decide (u.2.owner = some (tid queue seq))).foldl (fun s u => drainTag e.1 u.1 s) s) s

/-- The retained-map record that a LOOKUP took is freed when it does not end COMPLETE (R160). -/
def freeMap (queue seq : Nat) (s : State) : State :=
  match task? s queue seq with
  | none => s
  | some t =>
    if t.ttype = .lookup then
      { s with work := { s.work with upd := { s.work.upd with
          maps := s.work.upd.maps.filter fun m =>
            m.retained || !(decide (m.queue = queue) && decide (m.ctx = t.ctx) && decide (m.seq = seq)) } } }
    else s

/-- The counter that a final state counts in (R484). -/
def finalCtr : TaskState → Ctr
  | .complete => .tasksComplete
  | .aborted => .tasksAborted
  | _ => .tasksFailed

/-- A publish that waits for a PUBLISH task is given up when the task ends otherwise. -/
def dropPublish (queue seq : Nat) (s : State) : State :=
  { s with work := { s.work with tbl := { s.work.tbl with
      publishes := s.work.tbl.publishes.filter fun p => p.task != some (queue, seq) } } }

/-- The compare-and-set of R372: a QUEUED or ACTIVE task enters the final state with the status and detail; a task that
has a final state keeps it. -/
def endTask (queue seq : Nat) (st : TaskState) (status : Status) (d : Detail) (s : State) : State :=
  match task? s queue seq with
  | none => s
  | some t =>
    if t.state.final then s
    else
      let t' := { t with state := st, status := status, detail := d, finalAt := s.clock
                         wasActive := decide (t.state = .active) }
      let s := dropPublish queue seq (releaseTags queue seq (dropUnissued queue seq (dropWaits queue seq (putTask t' s))))
      let s := if st = .complete then s else freeMap queue seq s
      count (finalCtr st) 1 s

/-- A task ends FAILED with a status (R372). -/
def failTask (queue seq : Nat) (status : Status) (d : Detail) (s : State) : State :=
  endTask queue seq .failed status d s

/-- DETAIL_KIND and its values (R377). -/
def detKey (k : Nat) : Detail := { kind := 1, d0 := k }
/-- Kind FEED (R377). -/
def detFeed (channel seq : Nat) : Detail := { kind := 2, d0 := channel, d1 := seq }
/-- Kind OFFSET (R377). -/
def detOffset (o : Nat) : Detail := { kind := 3, d0 := o }
/-- Kind DESC_BIT (R377). -/
def detBit (b : Nat) : Detail := { kind := 4, d0 := b }
/-- Kind ADDRESS (R377). -/
def detAddr (a : Nat) : Detail := { kind := 5, d0 := a }
/-- Kind SIZE (R377). -/
def detSize (n : Nat) : Detail := { kind := 6, d0 := n }
/-- Kind TABLE (R377). -/
def detTable (h : Nat) : Detail := { kind := 7, d0 := h }
/-- Kind ENTRY (R377). -/
def detEntry (i reason : Nat) : Detail := { kind := 8, d0 := i, d1 := reason }
/-- Kind LOCATION (R377). -/
def detLoc (loc rec : Nat) : Detail := { kind := 9, d0 := loc, d1 := rec }

/-- A duration in 10 ns, saturating at 32 bits (R376). -/
def sat32 (n : Nat) : Nat := min n (2 ^ 32 - 1)

/-- PHASE of the slot or record with count `n` in a ring of 2^k entries (R364). -/
def phaseBit (k n : Nat) : Nat := if n.testBit k then 0 else 1

/-- The 128 bytes of a task's completion record at posting count `n` in a ring of 2^k (R376). -/
def completionBytes (t : Task) (k n : Nat) : List Byte :=
  let queuedEnd := if t.wasActive then t.admittedAt else t.finalAt
  let head := packFields
    [(0, 1, phaseBit k n), (1, 3, t.state.code), (8, 8, t.typeCode), (16, 10, t.queue), (32, 32, t.seq),
     (64, 16, t.status.code), (80, 4, t.detail.kind), (96, 64, t.detail.d0), (160, 32, t.detail.d1),
     (192, 64, t.userTag.toNat), (256, 32, sat32 (queuedEnd - t.queuedAt)),
     (288, 32, if t.wasActive then sat32 (t.finalAt - t.admittedAt) else 0), (320, 1, b2n t.journaled)]
  toBytes 64 head ++ sliceBytes t.record 0 64

/-- The completion interrupt of a queue: sent at once, or after the coalescing interval (R395). -/
def queueInterrupt (qn : Nat) (q : Queue) (s : State) : State :=
  if q.holdoffUs = 0 then sendVector q.vector s
  else updQueue qn (fun q => { q with holdoffPending := true }) s

/-- A task's record is written at ring index CQ_POSTED mod 2^n and CQ_POSTED advances (R376); INTERRUPT raises the
queue's vector (R364, R395). -/
def postRecord (t : Task) (s : State) : State :=
  match Tab.get? s.queues t.queue with
  | none => s
  | some q =>
    let n := q.posted.toNat
    let s := devWrite (q.cqAddr + 128 * (n % 2 ^ q.slotsLog2)) (completionBytes t q.slotsLog2 n) s
    let s := updQueue t.queue (fun q => { q with posted := q.posted + 1 }) s
    let s := updTask t.queue t.seq (fun t => { t with posted := true, postIndex := n }) s
    if t.interrupt then queueInterrupt t.queue q s else s

/-! ### The mailbox protocol -/

/-- What the execution of a mailbox command comes to. -/
inductive MbxRes where
  /-- A refusal, or an end with no effect but the status and the result. -/
  | refuse (st : Status)
  /-- The command has ended in the state given, with a status and a result block. -/
  | reply (s : State) (st : Status) (result : Nat)
  /-- The command goes on in the state given until what it waits for. -/
  | waits (s : State) (w : JobWait)

/-- The command ends: MBX_RESULT, STATUS and TAG_ECHO are written, BUSY cleared and DONE set, and the cause raised (R356). -/
def mbxEnd (tag : Word32) (st : Status) (result : BitVec 2048) (s : State) : State :=
  raiseCause .mailboxDone { s with mbx := { s.mbx with
    result := result, status := BitVec.ofNat 16 st.code, tagEcho := tag, busy := false, done := true, running := none } }

/-- A ticket for a command that goes on: the lowest number not outstanding (R358; log entry 9). -/
def ticketFor (s : State) : Option Nat := firstFree 64 (s.mbx.tickets.map Prod.fst)

/-- The command takes a ticket and answers ACCEPTED (R358). -/
def mbxDefer (r : Running) (t : Nat) (s : State) : State :=
  mbxEnd r.tag .accepted (BitVec.ofNat 2048 t)
    { s with mbx := { s.mbx with tickets := Tab.put s.mbx.tickets t r } }

/-- The mailbox registers as GO writes them: BUSY is set and DONE cleared (R356). -/
def mbxTake (opcode : Nat) (m : MbxCall) (args : BitVec 2048) (s : State) : State :=
  { s with mbx := { s.mbx with
      opcode := BitVec.ofNat 16 opcode, issuer := BitVec.ofNat 8 m.issuer, tag := m.tag, args := args, busy := true,
      done := false } }

/-- Commands that are served outside READY (R359, R500). -/
def servedNow (s : State) (always safeToo : Bool) : Bool :=
  match s.sys.engState with
  | .ready => true
  | .updating => always
  | .booting => always && decide (6 ≤ s.sys.bootStep)
  | .safe => safeToo && decide (s.sys.safeCause = .bootImageInvalid)
  | .reset => false

/-- A mailbox command, from GO to its end, its ACCEPTED or its wait (R356, R358, R359). `always` and `safeToo` name the
commands that R359 and R500 serve outside READY; `mayDefer` is the column of R360. A command that is written while the
host port is down does not reach the mailbox. -/
def mailbox (opcode : Nat) (mayDefer always safeToo : Bool) (args : BitVec 2048) (body : State → MbxRes) (m : MbxCall)
    (s : State) : State :=
  if !hostUp s then s
  else if s.mbx.busy then { s with mbx := { s.mbx with collision := true } }
  else
    let s0 := mbxTake opcode m args (hostWrote m.host s)
    if !servedNow s0 always safeToo then mbxEnd m.tag .notReady 0 s0
    else
      let defers := mayDefer && m.defer
      match body s0 with
      | .refuse st => mbxEnd m.tag st 0 s0
      | .reply s1 st result =>
        if defers && decide (st = .ok) then
          match ticketFor s0 with
          | none => mbxEnd m.tag .ticketLimit 0 s0
          | some t => mbxDefer { opcode := opcode, tag := m.tag, issuer := m.issuer, wait := .ended, status := some st
                                 result := BitVec.ofNat 2048 result } t s1
        else mbxEnd m.tag st (BitVec.ofNat 2048 result) s1
      | .waits s1 w =>
        if defers then
          match ticketFor s0 with
          | none => mbxEnd m.tag .ticketLimit 0 s0
          | some t => mbxDefer { opcode := opcode, tag := m.tag, issuer := m.issuer, wait := w } t s1
        else { s1 with mbx := { s1.mbx with
                 running := some { opcode := opcode, tag := m.tag, issuer := m.issuer, wait := w } } }

/-- The outcome of a mailbox row. In SAFE the mailbox still refuses (R463), so a frozen state does not hold it. -/
def mbxRow (f : State → State) (s : State) : Host.Outcome State Fault Refusal := .next (f s)

/-- What a command waits for has come: the command in the mailbox ends, and a deferred one has its outcome, which
DEFERRED_COMMAND_END reports. -/
def jobEnd (w : JobWait) (st : Status) (result : Nat) (s : State) : State :=
  match s.mbx.running with
  | some r =>
    if r.wait = w then mbxEnd r.tag st (BitVec.ofNat 2048 result) s
    else { s with mbx := { s.mbx with tickets := s.mbx.tickets.map fun e =>
      if e.2.wait = w then (e.1, { e.2 with wait := .ended, status := some st, result := BitVec.ofNat 2048 result })
      else e } }
  | none =>
    { s with mbx := { s.mbx with tickets := s.mbx.tickets.map fun e =>
      if e.2.wait = w then (e.1, { e.2 with wait := .ended, status := some st, result := BitVec.ofNat 2048 result })
      else e } }

/-- Some command waits for this. -/
def jobWaiting (w : JobWait) (s : State) : Bool :=
  (match s.mbx.running with
   | some r => decide (r.wait = w)
   | none => false) || s.mbx.tickets.any fun e => decide (e.2.wait = w)

/-- The context exists, is not being destroyed, and is the issuer (R357). -/
def ctxOk (s : State) (m : MbxCall) (ctx : Nat) : Bool :=
  decide (ctx = m.issuer % 256) && (match Tab.get? s.ctxs ctx with
    | some c => !c.destroying
    | none => false)

/-- A context that is being destroyed is gone, and CTX_DESTROY has its end, when no queue, table, range or window of it is left
(R361). -/
def ctxCheck (c : Nat) (s : State) : State :=
  if (ctxD s c).destroying && !(s.queues.any fun e => decide (e.2.ctx = c)) && !(s.work.tbl.tables.any fun e => decide (e.2.ctx = c)) &&
      !(s.ranges.any fun e => decide (e.2.ctx = c)) then
    jobEnd (.ctxDestroy c) .ok 0 { s with ctxs := Tab.del s.ctxs c }
  else s

/-! ### Stack counters (R326) -/

/-- The counters of a stack port, in the order of R326. -/
inductive StackCtr where
  | readBytes | writeBytes | breeze | memopElems | headwindHolds | aged | throttleUs
  deriving DecidableEq, Repr

/-- The place of a counter. -/
def StackCtr.index : StackCtr → Nat
  | .readBytes => 0 | .writeBytes => 1 | .breeze => 2 | .memopElems => 3 | .headwindHolds => 4 | .aged => 5 | .throttleUs => 6

/-- A counter of a stack port rises; other ports have none. -/
def stackCount (p : Nat) (c : StackCtr) (n : Nat) (s : State) : State :=
  if p < 8 then
    let x := stackPort s p
    let v := Tab.getD x.counters c.index 0
    let x := { x with
      counters := Tab.put x.counters c.index (satAdd 64 v n)
      overflow := if satOvf 64 v n then Tab.put x.overflow c.index true else x.overflow }
    { s with stackTab := Tab.put s.stackTab p x }
  else s

end Sys2Proof.Machine
end

