-- ==== Sys2Proof/Machine/Flash.lean ====
section
/-! DEFINITION. The boot flash (R510 to R514), the calibration set (R492 to R494) and firmware images (R497). -/

namespace Sys2Proof.Machine

/-- `n` bytes of the flash; erased bytes read 0xFF (R514). -/
def flashRead (s : State) (a n : Nat) : List Byte := cellRead 0xFF s.flash a n

/-- Bytes are written to the flash. -/
def flashWrite (a : Nat) (bs : List Byte) (s : State) : State := { s with flash := cellWrite 0xFF s.flash a bs }

/-- An area of the flash is erased. -/
def flashErase (a n : Nat) (s : State) : State := { s with flash := cellClear s.flash a n }

/-! ### The directory (R511) -/

/-- The fields of a directory record. -/
structure DirRec where
  seq : Nat
  fwSlot : Nat
  cfgCopy : Nat
  calCopy : Nat
  recal : Bool
  deriving DecidableEq, Repr

/-- The bytes of a directory record (R511). -/
def dirBytes (d : DirRec) : List Byte :=
  let b12 := toBytes 12 (packFields
    [(0, 32, 0x52494447), (32, 32, d.seq), (64, 1, d.fwSlot), (65, 1, d.cfgCopy), (66, 1, d.calCopy), (67, 1, b2n d.recal)])
  b12 ++ toBytes 4 (crc32c b12) ++ zeroBytes 48

/-- The directory record in region `i`, if it is valid: MAGIC and RECORD_CRC match (R511). -/
def dirAt (s : State) (i : Nat) : Option DirRec :=
  let bs := flashRead s (i * 0x1000) 64
  let x := ofBytes bs
  if decide (bitsOf x 0 32 = 0x52494447) && decide (bitsOf x 96 32 = crc32c (bs.take 12)) then
    some { seq := bitsOf x 32 32, fwSlot := bitsOf x 64 1, cfgCopy := bitsOf x 65 1, calCopy := bitsOf x 66 1
           recal := x.testBit 67 }
  else none

/-- The record in force and its region: the valid record whose SEQ is later (R511). -/
def dirInForce (s : State) : Option (Nat × DirRec) :=
  match dirAt s 0, dirAt s 1 with
  | some a, some b => if seqBefore 32 a.seq b.seq then some (1, b) else some (0, a)
  | some a, none => some (0, a)
  | none, some b => some (1, b)
  | none, none => none

/-- The record in force, or its values when none is valid (R511). -/
def directory (s : State) : DirRec :=
  match dirInForce s with
  | some (_, d) => d
  | none => { seq := 0, fwSlot := 0, cfgCopy := 0, calCopy := 0, recal := false }

/-- A new record is written in the region that does not hold the valid one, with the next SEQ (R511). -/
def writeDir (f : DirRec → DirRec) (s : State) : State :=
  let d := f (directory s)
  let region := match dirInForce s with
    | some (0, _) => 1
    | _ => 0
  let seq := match dirInForce s with
    | some (_, old) => seqNext 32 old.seq
    | none => 0
  flashWrite (region * 0x1000) (dirBytes { d with seq := seq }) s

/-! ### The boot configuration (R512, R513, R415) -/

/-- Flash address of boot configuration copy `c` (R510). -/
def cfgAddr (c : Nat) : Nat := if c = 0 then 0x10000 else 0x20000

/-- ROLE of lane group `g` (R414). -/
def roleOf (table g : Nat) : Nat := bitsOf table (4 * g) 2

/-- PAIR_LOW of lane group `g` (R414). -/
def pairLow (table g : Nat) : Bool := table.testBit (4 * g + 2)

/-- The lane groups of a role that begin a port: not the upper group of a pair. -/
def portGroups (table role : Nat) : List Nat :=
  (List.range 12).filter fun g => decide (roleOf table g = role) && !(decide (g % 2 = 1) && pairLow table (g - 1))

/-- A role table that meets every rule of R415, its reserved bits zero. -/
def rolesOk (table : Nat) : Bool :=
  ((List.range 12).all fun g => !table.testBit (4 * g + 3) &&
    (!pairLow table g ||
      (decide (g % 2 = 0) && decide (roleOf table (g + 1) = roleOf table g) && !pairLow table (g + 1)))) &&
  decide ((portGroups table 1).length = 1) &&
  decide (((List.range 12).filter fun g => roleOf table g = 2).length ≤ 4) &&
  ((List.range 12).all fun g => !(decide (roleOf table g = 2) && pairLow table g))

/-- The fields of a boot configuration image and whether it is valid (R512, R513). -/
def parseCfg (bs : List Byte) : BootCfg :=
  let x := ofBytes bs
  let f := fun lo len => bitsOf x lo len
  let ok := decide (f 0 32 = 0x47464347) && decide (f 32 16 = 1) &&
    decide (f 64 32 = crc32c ((bs.drop 16).take 496)) &&
    decide (f 48 16 = 0) && decide (f 96 32 = 0) && decide (f 291 13 = 0) && decide (f 384 128 = 0) &&
    decide (f 1536 2560 = 0) && [4, 6, 8].contains (f 272 4) && decide (1000 ≤ f 304 16) && decide (f 304 16 ≤ 2500) &&
    rolesOk (f 224 48) && (decide (f 512 1024 = 0) || (f 280 8).testBit (f 288 3))
  { valid := ok, pciIds := f 128 96, roleTable := f 224 48, stackCount := f 272 4, stackRate := x.testBit 276
    hostClocking := x.testBit 277, orchardProtect := x.testBit 278, ucieDebug := x.testBit 279, ucieModules := f 280 8
    ucieVectorModule := f 288 3, powerLimit := f 304 16, cxlCtx := f 320 64, ucieVectorMask := f 512 1024 }

/-- The committed boot configuration (R511, R512). -/
def bootCfg (s : State) : BootCfg := parseCfg (flashRead s (cfgAddr (directory s).cfgCopy) 512)

/-! ### The repair log (R514) -/

/-- One repair-log entry: ACTION and UNIT. -/
def logEntryBytes (action unit : Nat) : List Byte :=
  let body := toBytes 12 (packFields [(0, 4, action), (32, 64, unit)])
  toBytes 4 (crc32c body) ++ body

/-- The entries of the repair log that count, from index `i`: entries up to the first erased one, those whose ENTRY_CRC does
not match left out (R514). -/
def logEntries (s : State) (i fuel : Nat) : List (Nat × Nat) :=
  match fuel with
  | 0 => []
  | fuel + 1 =>
    let bs := flashRead s (0x70000 + 16 * i) 16
    if bs.all fun b => b == 0xFF then []
    else
      let x := ofBytes bs
      let rest := logEntries s (i + 1) fuel
      if decide (bitsOf x 0 32 = crc32c (bs.drop 4)) then (bitsOf x 32 4, bitsOf x 64 64) :: rest else rest

/-- The repair log (R514): the region holds 16,384 entries. -/
def repairLog (s : State) : List (Nat × Nat) := logEntries s 0 16384

/-- The index of the first erased entry of the log, from `i`. -/
def logEnd (s : State) (i fuel : Nat) : Option Nat :=
  match fuel with
  | 0 => none
  | fuel + 1 =>
    if (flashRead s (0x70000 + 16 * i) 16).all fun b => b == 0xFF then some i else logEnd s (i + 1) fuel

/-- A repair is recorded in the log; a log that cannot be written raises REPAIR_LOG_FULL, with a record NOT_RECORDED, and the
repair still takes effect (R452, R458). -/
def logRepair (action unit loc : Nat) (s : State) : State :=
  match logEnd s 0 16384 with
  | some i => flashWrite (0x70000 + 16 * i) (logEntryBytes action unit) s
  | none => event .repairLogFull 0 (faultRecord
      { cls := .sparing, sev := .degraded, location := loc, spec := packFields [(0, 4, 6), (64, 64, loc)] } s)

/-! ### The calibration set (R492 to R494) -/

/-- Flash address of calibration copy `c` (R510). -/
def calAddr (c : Nat) : Nat := if c = 0 then 0x30000 else 0x50000

/-- A trim entry within the ranges of R493, its reserved bits zero. -/
def trimOk (x : Nat) : Bool :=
  let kind := bitsOf x 0 4
  let item := bitsOf x 4 4
  let unit := bitsOf x 8 12
  let v := signedOf (bitsOf x 32 32) 32
  let within := fun (lo hi : Int) => decide (lo ≤ v) && decide (v ≤ hi)
  decide (bitsOf x 20 12 = 0) && decide (bitsOf x 64 64 = 0) &&
  (match kind, item with
   | 1, 1 => within (-16) 0
   | 1, 2 => within 32 63
   | 1, 3 => within (-24) 0
   | 1, 4 => within 0 31
   | 1, 5 => within (-32) 31
   | 2, 1 => within 0 15
   | 2, 2 => within 0 63
   | 2, 3 => within (-32) 31
   | 3, 1 => within (-1024) 1023
   | 3, 2 => within (-50000) 50000
   | _, _ => false) &&
  (match kind with
   | 1 => decide (unit ≤ 95)
   | 2 => decide (unit < 1024)
   | _ => decide (unit ≤ 521))

/-- The length in bytes of the set whose header is the list. -/
def calLength (bs : List Byte) : Nat := 32 + 16 * bitsOf (ofBytes (bs.take 32)) 64 16

/-- SERIAL of the lower half (R424). -/
def serial (s : State) : Nat := bits s.fuses.lowerId 16 32

/-- A set that R494 applies: MAGIC, SET_CRC and SERIAL match and every entry is valid. -/
def calOk (s : State) (bs : List Byte) : Bool :=
  let h := ofBytes (bs.take 32)
  let n := bitsOf h 64 16
  let body := sliceBytes bs 32 (16 * n)
  decide (bitsOf h 0 32 = 0x4C414347) && decide (bitsOf h 32 16 = 1) && decide (bitsOf h 48 2 ≠ 3) &&
  decide (bitsOf h 96 32 = crc32c body) && decide (bitsOf h 128 32 = serial s) &&
  (chunks 16 n body).all fun e => trimOk (ofBytes e)

/-- A set with the ORIGIN given and these entries (R492). -/
def calImage (s : State) (origin : Nat) (entries : List Byte) : List Byte :=
  toBytes 32 (packFields
    [(0, 32, 0x4C414347), (32, 16, 1), (48, 2, origin), (64, 16, entries.length / 16), (96, 32, crc32c entries),
     (128, 32, serial s)]) ++ entries

/-- The set stored in the flash (R492, R511). -/
def calStored (s : State) : List Byte :=
  let a := calAddr (directory s).calCopy
  flashRead s a (min (calLength (flashRead s a 32)) 131072)

/-- A new set is stored in the copy not in use and then named by a new directory record (R495, R511). -/
def storeCal (bs : List Byte) (s : State) : State :=
  let c := 1 - (directory s).calCopy
  let s := flashWrite (calAddr c) bs (flashErase (calAddr c) 131072 s)
  writeDir (fun d => { d with calCopy := c, recal := false }) s

/-! ### Firmware images (R497) -/

/-- Flash address of a firmware slot, or of the recovery image (R510). -/
def imageAddr : FwImage → Nat
  | .slot 0 => 0x00100000
  | .slot _ => 0x01100000
  | .recovery => 0x02100000
  | .i3c => 0

/-- Outcome of the checks of R497. -/
inductive ImageCheck where
  | ok | badImage | badSignature | rollback
  deriving DecidableEq, Repr

/-- The checks of R497 on a header of 512 bytes. `sigOk` is the verdict on the key hash, the signature and the payload hash,
which the image and the fuses decide (log entry 8). -/
def checkHeader (s : State) (h : Nat) (sigOk : Bool) : ImageCheck :=
  if !(decide (bitsOf h 0 32 = 0x4D495746) && decide (bitsOf h 32 16 = 1) && decide (bitsOf h 80 16 = 2) &&
       decide (1 ≤ bitsOf h 128 32) && decide (bitsOf h 128 32 ≤ 16776704)) then .badImage
  else if !sigOk then .badSignature
  else if decide (bitsOf h 96 16 < s.fuses.minSvn) then .rollback
  else .ok

/-- The header of an image in the flash. -/
def imageHeader (s : State) (im : FwImage) : Nat := ofBytes (flashRead s (imageAddr im) 512)

/-- The header of the image written through I3C (R491). -/
def i3cHeader (s : State) : Nat := ofBytes (cellRead 0 s.sys.imgData 0 512)

end Sys2Proof.Machine
end

