-- ==== Sys2Proof/Machine/Bond.lean ====
section
/-! DEFINITION. Bond channels (R418 to R423): wire repair, half width and loss, LINK_DEGRADED, and entry into SAFE. -/

namespace Sys2Proof.Machine

/-! ### SAFE -/

/-- The device enters SAFE with a cause (R354). `freeze` stops every transfer, engine, admission and record post (R463). -/
def enterSafe (cause : SafeCause) (freeze : Bool) (s : State) : State :=
  let s := { s with sys := { s.sys with safeCause := cause } }
  let s := setEngState .safe s
  whenS freeze (fun s => { s with sys := { s.sys with frozen := true } }) s

/-! ### LINK_DEGRADED (R423) -/

/-- The event-specific fields of LINK_DEGRADED (R423): kind, index, widths before and after, spares left. -/
def linkFields (kind index old new spares : Nat) : Nat :=
  packFields [(0, 4, kind), (4, 8, index), (12, 10, old), (22, 10, new), (32, 16, spares)]

/-- The event LINK_DEGRADED (R423, R486). -/
def linkDegraded (kind index old new spares : Nat) (s : State) : State :=
  event .linkDegraded (linkFields kind index old new spares) s

/-- Location code of a link (R459): BOND, UCIE and PEER have one. -/
def linkLoc (kind index : Nat) : Nat :=
  match kind with
  | 1 => locBond index 0 0
  | 2 => locUcie index
  | 3 => locPeer index 0
  | _ => 0

/-- A LINK record (R458): REASON 1 REPAIR, 2 DEGRADE, 3 LOST, 4 TEST, with the severity of R521. -/
def linkRecord (reason kind index old new spares : Nat) : FaultRecord :=
  let sev := if reason = 1 ∨ (reason = 4 ∧ old = new) then Severity.corrected else .degraded
  { cls := .link, sev := sev, location := linkLoc kind index
    spec := linkFields kind index old new spares + reason * 2 ^ 64 }

/-! ### Bond channels -/

/-- The state of a bond channel. -/
def bondOf (s : State) (ch : Nat) : Bond := Tab.getD s.links.bonds ch {}

/-- The failed data wires of a list that lie in sub-bundle `sub` (R418). -/
def subFailed (ws : List Nat) (sub : Nat) : Nat :=
  (ws.filter fun w => decide (w < 512) && decide (w / 256 = sub)).length

/-- The failed data wires of a list. -/
def dataFailed (ws : List Nat) : Nat := (ws.filter fun w => decide (w < 512)).length

/-- Unused spares of a direction: 16, less the failed spares and the failed data wires that the width in use repairs. -/
def sparesLeft (b : Bond) (dir : Nat) : Nat :=
  let ws := if dir = 0 then b.failed0 else b.failed1
  let sub := if dir = 0 then b.sub0 else b.sub1
  let used := if b.half then subFailed ws sub else dataFailed ws
  16 - ((ws.filter fun w => decide (512 ≤ w)).length + used)

/-- The sub-bundle with fewer failed wires (R422). -/
def betterSub (ws : List Nat) : Nat := if subFailed ws 1 < subFailed ws 0 then 1 else 0

/-- The sub-bundle a direction uses at half width: the one in use while it holds at most 16 failed wires, else the other
(R422). -/
def subInUse (ws : List Nat) (cur : Nat) : Nat := if subFailed ws cur ≤ 16 then cur else 1 - cur

/-- Both sub-bundles of a direction hold more than 16 failed wires (R422). -/
def dirLost (ws : List Nat) : Bool := decide (16 < subFailed ws 0) && decide (16 < subFailed ws 1)

/-- The channel as R421 and R422 leave it with the failed wires it now has. -/
def bondSettle (b : Bond) : Bond :=
  if b.lost then b
  else if dirLost b.failed0 || dirLost b.failed1 then { b with lost := true }
  else if b.half then { b with sub0 := subInUse b.failed0 b.sub0, sub1 := subInUse b.failed1 b.sub1 }
  else if decide (16 < dataFailed b.failed0) || decide (16 < dataFailed b.failed1) then
    { b with half := true, sub0 := betterSub b.failed0, sub1 := betterSub b.failed1 }
  else b

/-- The width of a channel in wires. -/
def bondWidth (b : Bond) : Nat := if b.lost then 0 else if b.half then 256 else 512

/-- Unused spares in the worse direction (R423). -/
def worseSpares (b : Bond) : Nat := min (sparesLeft b 0) (sparesLeft b 1)

/-- A wire of a direction is failed. -/
def failWire (dir wire : Nat) (b : Bond) : Bond :=
  if dir = 0 then (if b.failed0.contains wire then b else { b with failed0 := insertBy id wire b.failed0 })
  else (if b.failed1.contains wire then b else { b with failed1 := insertBy id wire b.failed1 })

/-- The channel is put. -/
def putBond (ch : Nat) (b : Bond) (s : State) : State :=
  { s with links := { s.links with bonds := Tab.put s.links.bonds ch b } }

/-- The wires named by a list of channel, direction and wire fail at start-up: each channel settles (R421, R422, R466). -/
def bondTest (ws : List (Nat × Nat × Nat)) (s : State) : State :=
  ws.foldl (fun s w =>
    if w.1 < 256 ∧ w.2.1 < 2 ∧ w.2.2 < 528 then
      let b := bondOf s w.1
      let b' := bondSettle (failWire w.2.1 w.2.2 b)
      if b' = b then s else putBond w.1 b' s
    else s) s

/-- Bond channels that are lost. -/
def lostBonds (s : State) : List Nat := (s.links.bonds.filter fun e => e.2.lost).map Prod.fst

end Sys2Proof.Machine
end

