-- ==== Sys2Proof/Machine/Coding.lean ====
section
/-! DEFINITION. The prefix code of cold pages and peer payloads (R242 to R245, R269). -/

namespace Sys2Proof.Machine

/-- The 288 code lengths of a code-table image (R245). -/
def codeLens (image : List Byte) : List Nat :=
  (sliceBytes image 16 144).flatMap fun b => [b.toNat % 16, b.toNat / 16]

/-- The image is well formed: MAGIC, a complete code, and at least two symbols (R245). -/
def codeImageOk (image : List Byte) : Bool :=
  let lens := codeLens image
  decide (ofBytes (sliceBytes image 0 16) = 0x4C425443) &&
    decide (sumNat (lens.map fun l => if l = 0 then 0 else 2 ^ (15 - l)) = 2 ^ 15) &&
    decide (2 ≤ (lens.filter fun l => decide (l ≠ 0)).length)

/-- The first code of each length (RFC 1951, 3.2.2; R244). -/
def firstCode (lens : List Nat) : Nat → Nat
  | 0 => 0
  | b + 1 => (firstCode lens b + (lens.filter fun l => decide (l = b) && decide (b ≠ 0)).length) * 2

/-- Each coded symbol with its length and code (R244). -/
def codeBook (lens : List Nat) : List (Nat × Nat × Nat) :=
  (lens.zip (List.range lens.length)).filterMap fun e =>
    if e.1 = 0 then none
    else some (e.2, e.1, firstCode lens e.1 + ((lens.take e.2).filter fun l => decide (l = e.1)).length)

/-- The bits of a code, first bit first: a Huffman code goes most significant bit first (RFC 1951). -/
def codeBits (len code : Nat) : List Bool := (List.range len).map fun i => code.testBit (len - 1 - i)

/-- Bytes at the head of the list that equal `prev`, at most 35. -/
def runOf (prev : Byte) (bs : List Byte) : Nat := ((bs.take 35).takeWhile fun b => decide (b = prev)).length

/-- The symbol for the next bytes: the longest run symbol that is coded and that the bytes allow, else the literal (R244). -/
def nextSymbol (book : List (Nat × Nat × Nat)) (prev : Byte) (bs : List Byte) : Option (Nat × Nat × Nat) :=
  let n := runOf prev bs
  let runs := book.filter fun e => decide (256 ≤ e.1) && decide (e.1 - 252 ≤ n)
  match runs.getLast? with
  | some e => some e
  | none => book.find? fun e => decide (e.1 = (bs.headD 0).toNat)

/-- Bytes that a symbol covers. -/
def symbolLength (sym : Nat) : Nat := if sym < 256 then 1 else sym - 252

/-- The coded bit stream of the bytes, none where a byte has no code (R244). -/
def encodeBits (book : List (Nat × Nat × Nat)) (prev : Byte) (bs : List Byte) : Nat → Option (List Bool)
  | 0 => if bs.isEmpty then some [] else none
  | fuel + 1 =>
    if bs.isEmpty then some []
    else match nextSymbol book prev bs with
      | none => none
      | some (sym, len, code) =>
        let prev' := if sym < 256 then BitVec.ofNat 8 sym else prev
        (encodeBits book prev' (bs.drop (symbolLength sym)) fuel).map fun r => codeBits len code ++ r

/-- Bits packed into bytes, first bit lowest (RFC 1951). -/
def packBits (fuel : Nat) (bs : List Bool) : List Byte :=
  match fuel with
  | 0 => []
  | fuel + 1 =>
    if bs.isEmpty then []
    else BitVec.ofNat 8 (sumNat (((bs.take 8).zip (List.range 8)).map fun e => if e.1 then 2 ^ e.2 else 0)) ::
      packBits fuel (bs.drop 8)

/-- The coded stream of a 4 KiB block, where the code covers it. -/
def codeStream (image block : List Byte) : Option (List Byte) :=
  (encodeBits (codeBook (codeLens image)) 0 block 4097).map fun bs => packBits (bs.length + 1) bs

/-- The stored length of a coded block (R242). -/
def storedLength (coded : Nat) : Nat := roundUp (16 + coded) 256

/-- The coded form of a block with its header, where R242 stores it coded. -/
def codeBlock (image block : List Byte) (slot ctx loadId : Nat) : Option (List Byte) :=
  match codeStream image block with
  | none => none
  | some st =>
    if storedLength st.length ≤ 3584 then
      let head := packFields [(0, 4, 1), (4, 2, slot), (16, 12, st.length), (32, 32, crc32c block), (64, 8, ctx),
        (72, 16, loadId)]
      let body := toBytes 16 head ++ st
      some (body ++ zeroBytes (storedLength st.length - body.length))
    else none

/-- The bits of a byte list, lowest first. -/
def unpackBits (bs : List Byte) : List Bool := bs.flatMap fun b => (List.range 8).map fun i => b.toNat.testBit i

/-- The symbol whose code heads the bits, and the rest. -/
def decodeSymbol (book : List (Nat × Nat × Nat)) (bits : List Bool) : Option (Nat × List Bool) :=
  match book.find? fun e => decide (bits.take e.2.1 = codeBits e.2.1 e.2.2) with
  | some e => some (e.1, bits.drop e.2.1)
  | none => none

/-- The bytes of a stream until `n` have been emitted; none for a symbol past the end, a stream that ends early, or padding that
is not zero (R244). -/
def decodeBits (book : List (Nat × Nat × Nat)) (prev : Byte) (n : Nat) (bits : List Bool) : Nat → Option (List Byte)
  | 0 => if n = 0 ∧ bits.all (fun b => !b) then some [] else none
  | fuel + 1 =>
    if n = 0 then (if bits.all fun b => !b then some [] else none)
    else match decodeSymbol book bits with
      | none => none
      | some (sym, rest) =>
        let k := symbolLength sym
        if n < k then none
        else
          let prev' := if sym < 256 then BitVec.ofNat 8 sym else prev
          (decodeBits book prev' (n - k) rest fuel).map fun r => List.replicate k prev' ++ r

/-- A coded block decoded with the code-table image of a slot, and its CRC and the slot's load number checked (R244). -/
def decodeBlock (image : List Byte) (loadId : Nat) (bs : List Byte) : Option (List Byte) :=
  let head := ofBytes (bs.take 16)
  let n := bitsOf head 16 12
  match decodeBits (codeBook (codeLens image)) 0 4096 (unpackBits (bs.drop 16)) 4097 with
  | some out =>
    if bitsOf head 0 4 = 1 ∧ bitsOf head 72 16 = loadId ∧ n + 16 ≤ bs.length ∧ crc32c out = bitsOf head 32 32 ∧ out.length = 4096 then
      some out
    else none
  | none => none

/-- The payload of a coded peer packet: 4 KiB blocks, each coded or raw; the block map and the stored bytes (R269). -/
def codePayload (image payload : List Byte) (slot ctx loadId : Nat) : Nat × List Byte :=
  let n := (payload.length + 4095) / 4096
  let padded := payload ++ zeroBytes (4096 * n - payload.length)
  ((chunks 4096 n padded).zip (List.range n)).foldl (fun acc b =>
    match codeBlock image b.1 slot ctx loadId with
    | some c => (acc.1 + 2 ^ b.2, acc.2 ++ c)
    | none => (acc.1, acc.2 ++ b.1)) (0, [])

/-- The payload of a received coded packet, block by block; none where a block does not decode (R269). -/
def decodePayload (image : List Byte) (loadId map : Nat) (bs : List Byte) (k : Nat) : Nat → Option (List Byte)
  | 0 => some []
  | n + 1 =>
    if map.testBit k then
      let len := storedLength (bitsOf (ofBytes (bs.take 16)) 16 12)
      match decodeBlock image loadId (bs.take len) with
      | some b => (decodePayload image loadId map (bs.drop len) (k + 1) n).map fun r => b ++ r
      | none => none
    else (decodePayload image loadId map (bs.drop 4096) (k + 1) n).map fun r => bs.take 4096 ++ r

end Sys2Proof.Machine
end

