-- ==== Sys2Proof/Machine/Enum.lean ====
section
/-! DEFINITION. The chain: links and routes (R256 to R259), enumeration (R260 to R262), peer packets, flows and their coding
(R257, R265, R269). -/

namespace Sys2Proof.Machine

/-- The chain part of the state is changed. -/
def updChain (f : Chain → Chain) (s : State) : State := { s with work := { s.work with chain := f s.work.chain } }

/-! ### Links and routes -/

/-- One link of the chain table (R386): addresses, ports, width and whether it is up. -/
structure ChainLink where
  a : Nat
  pa : Nat
  b : Nat
  pb : Nat
  width : Nat
  up : Bool
  deriving DecidableEq, Repr

/-- A link entry read (R386). -/
def chainLink (w : Word32) : ChainLink :=
  { a := bits w 0 4, pa := bits w 4 4, b := bits w 8 4, pb := bits w 12 4, width := bits w 16 5, up := bit w 21 }

/-- A link entry written (R386). -/
def linkWord (l : ChainLink) : Word32 :=
  BitVec.ofNat 32 (packFields [(0, 4, l.a), (4, 4, l.pa), (8, 4, l.b), (12, 4, l.pb), (16, 5, l.width), (21, 1, b2n l.up)])

/-- The peer link of a port. -/
def peerLink (s : State) (p : Nat) : Link := Tab.getD s.links.peers p {}

/-- A peer port that carries traffic. -/
def peerUp (s : State) (p : Nat) : Bool := (peerLink s p).up && !s.work.chain.silent.contains p

/-- The links of the table that are up. -/
def upLinks (s : State) : List ChainLink := (s.work.chain.links.map chainLink).filter fun l => l.up

/-- Neighbours of a device over links that are up: address and port of the device. -/
def neighbours (ls : List ChainLink) (x : Nat) : List (Nat × Nat) :=
  ls.flatMap fun l => (if l.a = x then [(l.b, l.pa)] else []) ++ (if l.b = x then [(l.a, l.pb)] else [])

/-- Devices reached from `seen` in one more hop, with their distance. -/
def hopStep (ls : List ChainLink) (n : Nat) (seen : Tab Nat) : Tab Nat :=
  seen.foldl (fun acc e => (neighbours ls e.1).foldl (fun acc v =>
    if Tab.has acc v.1 then acc else Tab.put acc v.1 n) acc) seen

/-- Hops from every device to `dst` (R258). -/
def hopsTo (ls : List ChainLink) (dst : Nat) : Tab Nat :=
  (List.range 15).foldl (fun seen n => hopStep ls (n + 1) seen) [(dst, 0)]

/-- The port that a packet to `dst` leaves by: fewest hops, then the lowest neighbour, then the lowest port (R258). -/
def routePort (s : State) (dst : Nat) : Option Nat :=
  let ls := upLinks s
  let hops := hopsTo ls dst
  let cands := (neighbours ls s.work.chain.addr).filter fun v => Tab.has hops v.1
  ((sortBy (fun v : Nat × Nat => (Tab.getD hops v.1 99) * 256 + v.1 * 16 + v.2) cands).head?).map Prod.snd

/-- The device can be reached, or is this one (R259). -/
def reachable (s : State) (dst : Nat) : Bool :=
  s.work.chain.valid && (decide (dst = s.work.chain.addr) || (routePort s dst).isSome)

/-! ### Packets and flows -/

/-- A peer packet header (R265). -/
def peerHeader (type src dst job ctx aux seq units : Nat) (last : Bool) (coded : Option Nat) : Word128 :=
  BitVec.ofNat 128 (packFields
    [(0, 4, type), (4, 4, src), (8, 4, dst), (16, 12, job), (32, 8, ctx), (40, 1, b2n coded.isSome),
     (41, 2, coded.getD 0), (43, 1, b2n last), (48, 16, units), (64, 32, seq), (96, 32, aux)])

/-- Number of a flow: device and JOB (R257). -/
def flowKey (dev job : Nat) : Nat := dev * 4096 + job

/-- The slot with which payloads for the destination are coded (R269). -/
def peerSlot (s : State) (dst ctx type : Nat) : Option (Nat × CodeSlot) :=
  if (ctxD s ctx).peerCompress ∧ [2, 3, 4, 7].contains type then
    match activeSlot (ctxD s ctx), Tab.get? s.work.chain.notices (dst * 256 + ctx) with
    | some (k, sl), some (n, crc) => if n = k ∧ crc = crc32c sl.image then some (k, sl) else none
    | _, _ => none
  else none

/-- A packet goes out on the port of its route, where there is one. -/
def peerOut (dst : Nat) (hdr : Word128) (payload : List Byte) (s : State) : State :=
  match routePort s dst with
  | some p => send (.peer p hdr payload) s
  | none => s

/-- A packet is sent on a flow: it takes the flow's next SEQ and is kept until it is acknowledged (R257, R269). -/
def peerSend (type dst job ctx aux : Nat) (last : Bool) (payload : List Byte) (s : State) : State :=
  let k := flowKey dst job
  let f := Tab.getD s.work.chain.flows k {}
  let raw := pad16 payload
  let me := s.work.chain.addr
  let p : SentPkt := match peerSlot s dst ctx type with
    | some (slot, sl) =>
      let c := codePayload sl.image raw slot ctx sl.loadId
      { seq := f.nextSeq, payload := c.2, raw := raw
        hdr := peerHeader type me dst job ctx (c.1 + (raw.length / 16) * 2 ^ 16) f.nextSeq (c.2.length / 16) last (some slot) }
    | none =>
      { seq := f.nextSeq, payload := raw, raw := raw
        hdr := peerHeader type me dst job ctx aux f.nextSeq (raw.length / 16) last none }
  let f' : Flow := { nextSeq := seqNext 32 f.nextSeq, unacked := f.unacked ++ [p] }
  peerOut dst p.hdr p.payload (updChain (fun c => { c with flows := Tab.put c.flows k f' }) s)

/-- Fields of a received header. -/
def pktType (p : PeerPkt) : Nat := bits p.hdr 0 4
/-- SRC. -/
def pktSrc (p : PeerPkt) : Nat := bits p.hdr 4 4
/-- DST. -/
def pktDst (p : PeerPkt) : Nat := bits p.hdr 8 4
/-- JOB. -/
def pktJob (p : PeerPkt) : Nat := bits p.hdr 16 12
/-- CTX_ID. -/
def pktCtx (p : PeerPkt) : Nat := bits p.hdr 32 8
/-- SEQ. -/
def pktSeq (p : PeerPkt) : Nat := bits p.hdr 64 32
/-- AUX. -/
def pktAux (p : PeerPkt) : Nat := bits p.hdr 96 32
/-- COMPRESSED. -/
def pktCoded (p : PeerPkt) : Bool := bit p.hdr 40
/-- LAST. -/
def pktLast (p : PeerPkt) : Bool := bit p.hdr 43

/-- The type is reserved or a reserved field of the header is not zero (R265, R266). -/
def pktBad (p : PeerPkt) : Bool :=
  !(decide (1 ≤ pktType p) && decide (pktType p ≤ 11)) || !zeroFields p.hdr [(12, 4), (28, 4), (44, 4)]

/-- An ACK of a flow's highest accepted SEQ (R257). -/
def sendAck (src job seq : Nat) (s : State) : State :=
  peerOut src (peerHeader 11 s.work.chain.addr src job 0 seq 0 0 true none) [] s

/-- A flow is acknowledged again, with the highest SEQ accepted (R257, R265). -/
def ackAgain (src job : Nat) (s : State) : State :=
  match Tab.get? s.work.chain.accepted (flowKey src job) with
  | some n => sendAck src job ((n + 2 ^ 32 - 1) % 2 ^ 32) s
  | none => s

/-- The packet's SEQ has been accepted already (R257). -/
def pktOld (s : State) (p : PeerPkt) : Bool :=
  match Tab.get? s.work.chain.accepted (flowKey (pktSrc p) (pktJob p)) with
  | some n => seqBefore 32 (pktSeq p) n
  | none => false

/-- The packet is not the next of its flow: packets before it are still to come (R257). -/
def pktAhead (s : State) (p : PeerPkt) : Bool :=
  match Tab.get? s.work.chain.accepted (flowKey (pktSrc p) (pktJob p)) with
  | some n => decide (pktSeq p ≠ n)
  | none => false

/-- The packet is accepted on its flow and acknowledged (R257). -/
def pktAccept (p : PeerPkt) (s : State) : State :=
  sendAck (pktSrc p) (pktJob p) (pktSeq p)
    (updChain (fun c => { c with accepted := Tab.put c.accepted (flowKey (pktSrc p) (pktJob p)) (seqNext 32 (pktSeq p)) }) s)

/-- The payload of a packet, decoded where it is coded (R269); none where a block does not decode. -/
def pktBody (s : State) (p : PeerPkt) : Option (List Byte) :=
  if pktCoded p then
    match Tab.get? (ctxD s (pktCtx p)).codeSlots (bits p.hdr 41 2) with
    | some sl =>
      let n := (pktAux p / 2 ^ 16) * 16
      (decodePayload sl.image sl.loadId (pktAux p) p.payload 0 ((n + 4095) / 4096)).map fun b => b.take n
    | none => none
  else some p.payload

/-- A group sub-header with a reserved field that is not zero: the bits that R267 reserves, and those of ID in a PARTIAL. -/
def groupBad (type : Nat) (bs : List Byte) : Bool :=
  let h := ofBytes (bs.take 32)
  [2, 3, 4].contains type && !((if type = 2 then decide (bitsOf h 24 40 = 0) else true) && decide (bitsOf h 109 3 = 0) &&
    decide (bitsOf h 123 5 = 0) && decide (bitsOf h 141 3 = 0) && decide (bitsOf h 155 101 = 0))

/-- A packet whose group sub-header is bad, as far as it can be read (R266, R267). -/
def groupPktBad (s : State) (p : PeerPkt) : Bool := (pktBody s p).any (groupBad (pktType p))

/-- Kinds of CONTROL packets, in the model's own layout (log entry 16): kind in [7:0], a flag byte in [15:8], a 16-bit number in
[31:16], a 32-bit number in [63:32] and a 64-bit number in [127:64], then a list. -/
inductive Ctl where
  | taskBegin | taskEnd | codeNotice | relay | relayReport | loadReport | mapInstall | mapInstalled | uncoded | resend
  | genRetired | chainTable
  deriving DecidableEq, Repr

/-- The code of a CONTROL kind (log entry 16). -/
def Ctl.code : Ctl → Nat
  | .taskBegin => 1 | .taskEnd => 2 | .codeNotice => 3 | .relay => 4 | .relayReport => 5 | .loadReport => 6
  | .mapInstall => 7 | .mapInstalled => 8 | .uncoded => 9 | .resend => 10 | .genRetired => 11 | .chainTable => 12

/-- A CONTROL payload (log entry 16). -/
def ctlBytes (k : Ctl) (flag a16 a32 a64 : Nat) (tail : List Byte) : List Byte :=
  toBytes 16 (packFields [(0, 8, k.code), (8, 8, flag), (16, 16, a16), (32, 32, a32), (64, 64, a64)]) ++ tail

/-- A CONTROL packet is sent. -/
def ctlSend (k : Ctl) (dst job ctx flag a16 a32 a64 : Nat) (tail : List Byte) (s : State) : State :=
  peerSend 10 dst job ctx 0 true (ctlBytes k flag a16 a32 a64 tail) s

/-- The head of a received CONTROL payload. -/
def ctlHead (bs : List Byte) : Nat := ofBytes (bs.take 16)

/-- A packet for another device is forwarded along its route (R258). -/
def forwardPkt (p : PeerPkt) (s : State) : State := peerOut (pktDst p) p.hdr p.payload s

/-- A received packet of the type: forwarded where it is for another device, dropped where its SEQ was accepted before, asked for
again uncoded where a block does not decode, left to PEER_BAD_PACKET where its group is bad, and otherwise accepted and handled (R257, R258,
R266, R269). -/
def onPacket (type : Nat) (p : PeerPkt) (f : List Byte → State → State) (s : State) : State :=
  if !peerUp s p.port || !s.work.chain.valid || decide (pktType p ≠ type) || pktBad p then s
  else if pktDst p ≠ s.work.chain.addr then forwardPkt p s
  else if pktOld s p then ackAgain (pktSrc p) (pktJob p) s
  else if pktAhead s p then s
  else match pktBody s p with
    | none => count .peerDecodeRetries 1 (ctlSend .uncoded (pktSrc p) 4095 (pktCtx p) 0 (pktJob p) (pktSeq p) 0 [] s)
    | some b => if groupBad type b then s else f b (pktAccept p s)

/-- A received CONTROL packet of a kind. -/
def onControl (k : Ctl) (p : PeerPkt) (f : List Byte → State → State) (s : State) : State :=
  if bitsOf (ctlHead p.payload) 0 8 = k.code then onPacket 10 p f s else s

/-! ### Route changes -/

/-- What a code notice says of a context: whether a slot is ACTIVE, its number and the CRC-32C of its image (R269). -/
def noticeOf (s : State) (ctx : Nat) : Nat × Nat × Nat :=
  match activeSlot (ctxD s ctx) with
  | some (k, sl) => (1, k, crc32c sl.image)
  | none => (0, 0, 0)

/-- Unacknowledged packets of a kind are those of a task or job that has reached a final state (R259). -/
def markGone (mine : Nat → SentPkt → Bool) (s : State) : State :=
  updChain (fun c => { c with flows := c.flows.map fun e => (e.1, { e.2 with
    unacked := e.2.unacked.map fun p => if mine e.1 p then { p with gone := true } else p }) }) s

/-- A packet that is not sent again leaves its SEQ to a code notice, which tells what the destination knows already (R257, R259; log entry
16). -/
def fillerFor (s : State) (p : SentPkt) : SentPkt :=
  if p.gone then
    let ctx := bits p.hdr 32 8
    let n := noticeOf s ctx
    let bs := ctlBytes .codeNotice n.1 n.2.1 n.2.2 0 []
    { seq := p.seq, payload := bs, raw := bs
      hdr := peerHeader 10 (bits p.hdr 4 4) (bits p.hdr 8 4) (bits p.hdr 16 12) ctx 0 p.seq 1 true none }
  else p

/-- Every unacknowledged packet of a flow is sent again, in order (R257). -/
def resendFlow (key : Nat) (f : Flow) (s : State) : State :=
  f.unacked.foldl (fun s p => peerOut (key / 4096) p.hdr p.payload s) s

/-- After a change of routes, the flows whose route differs from that in `before` are sent again; where there was none, without the packets of
what has ended since (R257 to R259). -/
def resendFlows (before s : State) : State :=
  s.work.chain.flows.foldl (fun s e =>
    let d := e.1 / 4096
    if routePort before d = routePort s d then s
    else
      let f := if (routePort before d).isNone then { e.2 with unacked := e.2.unacked.map (fillerFor s) } else e.2
      resendFlow e.1 f (updChain (fun c => { c with flows := Tab.put c.flows e.1 f }) s)) s

/-- Two link entries name the same two ports. -/
def sameLink (a b : ChainLink) : Bool :=
  (decide (a.a = b.a) && decide (a.pa = b.pa) && decide (a.b = b.b) && decide (a.pb = b.pb)) ||
    (decide (a.a = b.b) && decide (a.pa = b.pb) && decide (a.b = b.a) && decide (a.pb = b.pa))

/-- Entries of the chain table take what newer entries of the same links say (R258). -/
def newLinks (ws old : List Word32) : List Word32 :=
  old.map fun w => (ws.find? fun x => sameLink (chainLink x) (chainLink w)).getD w

/-- The table's entry of this device's port, with a width and whether it is up. -/
def portLinks (port lanes : Nat) (up : Bool) (s : State) : List Word32 :=
  let me := s.work.chain.addr
  (s.work.chain.links.filter fun w =>
    let l := chainLink w
    decide (l.a = me ∧ l.pa = port) || decide (l.b = me ∧ l.pb = port)).map fun w => linkWord { chainLink w with up := up, width := lanes }

/-- The table's entry of this device's port is marked up or down. -/
def markLink (port lanes : Nat) (up : Bool) (s : State) : State :=
  let ws := portLinks port lanes up s
  updChain (fun c => { c with links := newLinks ws c.links }) s

/-! ### Enumeration (R260 to R262) -/

/-- Peer ports in ascending order that are up and not yet used by the enumeration. -/
def enumPorts (s : State) : List Nat :=
  (s.links.peers.filter fun e => e.2.up && !s.work.chain.usedPorts.contains e.1).map Prod.fst

/-- Devices of the chain other than this one. -/
def otherDevices (s : State) : List Nat :=
  (List.range s.work.chain.size).filter fun a => decide (a ≠ s.work.chain.addr)

/-- Link entries go to every other device, those with the fewest hops first: the whole chain table, or what has changed in it (R258, R260; log
entry 16). -/
def sendLinks (ws : List Word32) (s : State) : State :=
  let ls := upLinks s
  let far (d : Nat) : Nat := Tab.getD (hopsTo ls d) s.work.chain.addr 99
  (sortBy far (otherDevices s)).foldl (fun s d =>
    ctlSend .chainTable d 4095 0 0 s.work.chain.size s.work.chain.epoch.toNat ws.length (ws.flatMap fun w => toBytes 4 w.toNat) s) s

/-- The root has offered the token on every port: the chain table is complete and is sent to every device (R260). -/
def enumFinish (s : State) : State :=
  let s := updChain (fun c => { c with
    token := false, offered := none, links := c.found, size := c.nextAddr, addr := 0, valid := true, enumStatus := 2 }) s
  jobEnd .reenumerate .ok 0 (sendLinks s.work.chain.links s)

/-- The holder offers the token on its next port, or returns it, or, on the root, ends the enumeration (R260). -/
def enumAdvance (s : State) : State :=
  let c := s.work.chain
  match enumPorts s with
  | p :: _ =>
    send (.peerEnum p 1 [c.nextAddr, c.epoch.toNat, c.addr, p])
      (updChain (fun c => { c with offered := some p, usedPorts := c.usedPorts ++ [p] }) s)
  | [] =>
    match c.parent with
    | some p =>
      send (.peerEnum p 2 ([c.nextAddr, 0, c.addr, p] ++ c.found.map BitVec.toNat))
        (updChain (fun c => { c with token := false, offered := none }) s)
    | none => enumFinish s

/-- The root begins an enumeration: address 0, the next epoch, and no link known (R260, R264). -/
def enumStart (s : State) : State :=
  enumAdvance (updChain (fun c => { c with
    addr := 0, valid := false, size := 0, enumStatus := 1, epoch := c.epoch + 1, token := true, nextAddr := 1, parent := none
    offered := none, usedPorts := [], found := [], silent := [] }) s)

/-- Both roots stop, every device that either has reached hears of it on its ports, and no device keeps an address (R262; log entry 16). -/
def rootConflict (s : State) : State :=
  if s.work.chain.enumStatus = 4 then s
  else
    let s := jobEnd .reenumerate .ok 0 (updChain (fun c => { c with
      enumStatus := 4, valid := false, addr := 0, size := 0, token := false, offered := none, parent := none }) s)
    (s.links.peers.filter fun e => e.2.up).foldl (fun s e => send (.peerEnum e.1 4 []) s) s

/-- ENUM_TOKEN_OFFER: a device without an address takes the next one, unless sixteen are taken; a device with one refuses, and
the link is a cross link (R260, R262). A device offers the token on its own end of a cross link too. -/
def enumOffer (port : Nat) (fromRoot : Bool) (next : Nat) (epoch : Word32) (s : State) : State :=
  let c := s.work.chain
  if !(peerLink s port).up then s
  else if s.sys.chainRoot && fromRoot then rootConflict s
  else if c.enumStatus = 4 then s
  else if (c.enumStatus = 1 || s.sys.chainRoot) && c.epoch = epoch then send (.peerEnum port 3 [next, 1, c.addr, port]) s
  else if 16 ≤ next then
    send (.peerEnum port 3 [next, 2, 0, port]) (updChain (fun c => { c with enumStatus := 5, valid := false, addr := 0, size := 0 }) s)
  else
    enumAdvance (updChain (fun c => { c with
      addr := next, enumStatus := 1, epoch := epoch, token := true, nextAddr := next + 1, parent := some port
      offered := none, usedPorts := [port], found := [], valid := false, size := 0 }) s)

/-- ENUM_TOKEN_OFFER (R260). -/
def execEnumTokenOffer (port : Nat) (fromRoot : Bool) (next : Nat) (epoch : Word32) : State → Host.Outcome State Fault Refusal :=
  live (enumOffer port fromRoot next epoch)

/-- The link on offer as its two ends make it, unless it is known already (R260). -/
def foundLink (s : State) (port addr atPort : Nat) : List Word32 :=
  let l : ChainLink := { a := s.work.chain.addr, pa := port, b := addr, pb := atPort, width := (peerLink s port).lanes, up := true }
  if s.work.chain.found.any fun w => sameLink (chainLink w) l then [] else [linkWord l]

/-- ENUM_TOKEN_RETURN: the link on offer is recorded as a tree link, with what the neighbour has found, or as a cross link where a device with
an address has refused, or carries no traffic where the device could have none, and the holder goes on (R260, R262). -/
def enumReturned (port next : Nat) (r : EnumAnswer) (links : List Word32) (s : State) : State :=
  let c := s.work.chain
  if r = .conflict then (if (peerLink s port).up && c.enumStatus ≠ 0 && c.enumStatus ≠ 3 then rootConflict s else s)
  else if !c.token ∨ c.offered ≠ some port then s
  else
    let c' : Chain := { c with offered := none }
    enumAdvance (updChain (fun _ => match r with
      | .taken a q => { c' with nextAddr := next, found := c.found ++ foundLink s port a q ++ links }
      | .refused a q => { c' with found := c.found ++ foundLink s port a q }
      | _ => { c' with silent := c.silent ++ [port] }) s)

/-- ENUM_TOKEN_RETURN (R260). -/
def execEnumTokenReturn (port next : Nat) (r : EnumAnswer) (links : List Word32) : State → Host.Outcome State Fault Refusal :=
  live (enumReturned port next r links)

/-- The link entries of a chain-table packet (log entry 16). -/
def linksOf (bs : List Byte) : List Word32 :=
  (List.range (bitsOf (ctlHead bs) 64 64 % 256)).map fun i => BitVec.ofNat 32 (ofBytes (sliceBytes bs (16 + 4 * i) 4))

/-- A device that awaits the chain table takes it, and its address becomes valid (R260, R261). -/
def takeTable (p : PeerPkt) (s : State) : State :=
  let h := ctlHead p.payload
  pktAccept p (updChain (fun c => { c with size := bitsOf h 16 16, links := linksOf p.payload, valid := true, enumStatus := 2, token := false }) s)

/-- The device awaits this chain table. -/
def awaitsTable (s : State) (p : PeerPkt) : Bool :=
  let c := s.work.chain
  let h := ctlHead p.payload
  decide (c.enumStatus = 1) && !s.sys.chainRoot && peerUp s p.port && decide (pktType p = 10) && !pktBad p && decide (pktDst p = c.addr) &&
    decide (bitsOf h 0 8 = Ctl.chainTable.code) && decide (bitsOf h 32 32 = c.epoch.toNat) && decide (bitsOf h 16 16 ≤ 16)

/-- ENUM_NO_ROOT: no token within 500 ms of the links' training (R262). -/
def execEnumNoRoot : State → Host.Outcome State Fault Refusal :=
  live fun s =>
    if s.work.chain.enumStatus = 0 ∧ s.sys.chainRoot = false ∧ 12 ≤ s.sys.bootStep then
      updChain (fun c => { c with enumStatus := 3, valid := false, size := 0 }) s
    else s

end Sys2Proof.Machine
end

