-- ==== Sys2Proof/Machine/Boot.lean ====
section
/-! DEFINITION. Reset and start-up (R431, R432, R507 to R518, R425, R426, R465, R466, R491). -/

namespace Sys2Proof.Machine

/-! ### Reset -/

/-- Memory outside the stacks: the words of every stack are lost with the device's state, and read zero once step 9 has written them
(R515). Expanders and flash lie outside the device and keep their bytes. -/
def outsideStacks (cs : List Host.Cell) : List Host.Cell := cellClear cs 0 (2 ^ 39)

/-- What outlasts a reset: the waiting commands, the fuses, the boot flash, and what lies outside the device. -/
def afterReset (s : State) : State :=
  { pending := s.pending, freeCtr := s.freeCtr, fuses := s.fuses, flash := s.flash, mem := outsideStacks s.mem, hostMem := s.hostMem
    sent := s.sent }

/-- COLD_RESET_ASSERT: all work stops at once and all device state is lost (R431). -/
def execColdResetAssert (s : State) : Host.Outcome State Fault Refusal := .next (afterReset s)

/-- COLD_RESET_RELEASE: the fuses are reloaded, the straps sampled, and start-up begins (R431, R432, R515). It is an edge
only while the input is asserted, that is, in RESET. -/
def execColdResetRelease (st : Straps) (s : State) : Host.Outcome State Fault Refusal :=
  .next (if s.sys.engState = .reset then
      setEngState .booting { afterReset s with
        sys := { chainRoot := st.chainRoot, bootSrc := st.bootSrc % 4, cfg := {} } }
    else s)

/-- WARM_RESET: everything but the PLLs, the loaded fuse values and the sampled straps is reset, and start-up restarts at
step 4 (R431, R518). Before step 3 has completed there is nothing to keep, and the input has no effect beyond the reset in
force (log entry 10). -/
def execWarmReset (s : State) : Host.Outcome State Fault Refusal :=
  .next (if s.sys.engState = .reset ∨ s.sys.bootStep < 3 then s
    else
      setEngState .booting { afterReset s with
        clock := s.clock
        sys := { chainRoot := s.sys.chainRoot, bootSrc := s.sys.bootSrc, bootStep := 3 } })

/-! ### The steps -/

/-- STEPPING of an identity word (R424). -/
def steppingOf (w : Word128) : Nat := bits w 2 8

/-- HALF_ID of an identity word (R424). -/
def halfId (w : Word128) : Nat := bits w 0 2

/-- Bitwise majority of three words (R425). -/
def majority (a b c : Word128) : Word128 := (a &&& b) ||| (a &&& c) ||| (b &&& c)

/-- The pairings that run (R426): steppings as ENG_VERSION encodes them. -/
def pairingRuns (lower upper : Nat) : Bool :=
  [(0x10, 0x10), (0x10, 0x11), (0x11, 0x10), (0x11, 0x11), (0x11, 0x12), (0x12, 0x11), (0x12, 0x12)].contains
    (lower, upper)

/-- Outcome of the half exchange (R425): none, or the SAFE_CAUSE. -/
def halfExchange (copies : List (Word128 × Word128)) : Option SafeCause :=
  match copies with
  | [a, b, c] =>
    let lo := majority a.1 b.1 c.1
    let up := majority a.2 b.2 c.2
    if halfId lo ≠ 1 ∨ halfId up ≠ 2 then some .halfMismatch
    else if pairingRuns (steppingOf lo) (steppingOf up) then none else some .halfMismatch
  | _ => some .interconnectTestFailed

/-- A step completes (R515). -/
def stepDone (n : Nat) (s : State) : State := { s with sys := { s.sys with bootStep := n } }

/-- Step 4 (R425, R465, R466): the half exchange, then the bond test with its repairs. -/
def bootInterconnect (o : BootObs) (s : State) : State :=
  match halfExchange o.copies with
  | some c => enterSafe c false s
  | none =>
    let s := bondTest (s.fuses.bondWires ++ o.failedWires) s
    if 64 < (lostBonds s).length then enterSafe .interconnectTestFailed false s
    else
      let found := o.failedWires.map fun w => w.1
      let chans := (s.links.bonds.map Prod.fst).filter fun c => found.contains c
      stepDone 4 (chans.foldl (fun s c =>
        keepRecord (linkRecord 4 1 c 512 (bondWidth (bondOf s c)) (worseSpares (bondOf s c))) s) s)

/-- A repair that the log or the fuses name is applied (R451, R452, R514). -/
def applyRepair (s : State) (e : Nat × Nat) : State :=
  match e.1 with
  | 1 =>
    let cl := bitsOf e.2 0 9
    let m := Tab.getD s.faults.coreMaps cl {}
    let pc := bitsOf e.2 9 12
    if m.failed.contains pc then s
    else { s with faults := { s.faults with
      coreMaps := Tab.put s.faults.coreMaps cl { m with failed := insertBy id pc m.failed } } }
  | 2 =>
    let cl := bitsOf e.2 0 9
    if s.faults.retiredClusters.contains cl then s
    else { s with faults := { s.faults with retiredClusters := insertBy id cl s.faults.retiredClusters } }
  | 4 =>
    let p := bitsOf e.2 0 3
    { s with stackTab := Tab.put s.stackTab p { stackPort s p with retiredChannel := some (bitsOf e.2 3 5) } }
  | _ => s

/-- The first read of the boot flash is in 1S-1S-1S and reads the SFDP table; the device goes over to 8D-8D-8D only when the
table advertises it (R434). -/
def openFlash (o : BootObs) (s : State) : State :=
  { s with sys := { s.sys with flashMode := if o.sfdp8d then .octal else .serial } }

/-- Step 5: directory, boot configuration and repair log are read; core maps are built; retired clusters and channels
applied. Both clusters of a lost bond channel are out of service (R422). -/
def bootRom (s : State) : State :=
  let cfg := bootCfg s
  let s := { s with sys := { s.sys with cfg := cfg } }
  if !cfg.valid then enterSafe .bootImageInvalid false s
  else
    let fused := s.fuses.failedCores.map (fun e => (1, e.1 + e.2 * 512)) ++ s.fuses.retiredClusters.map (fun c => (2, c)) ++
      s.fuses.retiredChannels.map (fun e => (4, e.1 + e.2 * 8))
    let lost := (lostBonds s).flatMap fun c => [(2, c), (2, c + 256)]
    stepDone 5 ((fused ++ lost ++ repairLog s).foldl applyRepair s)

/-- The image that step 6 runs: what BOOT_SRC names and R497 accepts (R516). -/
def bootImage (o : BootObs) (s : State) : Option FwImage :=
  let ok := fun im sig => decide (checkHeader s (imageHeader s im) sig = .ok)
  match s.sys.bootSrc with
  | 0 =>
    let f := (directory s).fwSlot
    let sig := fun n => if n = 0 then o.sig0 else o.sig1
    if ok (.slot f) (sig f) then some (.slot f)
    else if ok (.slot (1 - f)) (sig (1 - f)) then some (.slot (1 - f)) else none
  | 1 => if ok .recovery o.sigRec then some .recovery else none
  | _ => if s.sys.imgStatus = 1 then some .i3c else none

/-- Verified firmware runs on both processors (R3, R354). -/
def runImage (im : FwImage) (header : Nat) (s : State) : State :=
  { s with sys := { s.sys with runningImage := some im, bootedImage := some im, protocol := bitsOf header 48 8, runningSvn := bitsOf header 96 16
                               lowerUp := true, upperUp := true } }

/-- Step 6 (R516, R517). With BOOT_SRC 0b10 it waits for an image that IMG_DONE has accepted (R491). -/
def bootFirmware (o : BootObs) (s : State) : State :=
  match bootImage o s with
  | some im =>
    let h := match im with
      | .i3c => i3cHeader s
      | _ => imageHeader s im
    stepDone 6 (runImage im h s)
  | none =>
    if s.sys.bootSrc = 2 then s
    else { s with sys := { s.sys with bootStep := 6, bootFail := true } }

/-- Step 7 (R494, R495): the stored set is applied, or defaults with CAL_DEFAULTS; with RECALIBRATE every trim is measured
and stored. -/
def bootCalibrate (o : BootObs) (s : State) : State :=
  let s :=
    if (directory s).recal then
      let img := calImage s 1 (o.trims.flatMap fun t => toBytes 16 t.toNat)
      storeCal img { s with sys := { s.sys with calInUse := img } }
    else
      let img := calStored s
      if calOk s img then { s with sys := { s.sys with calInUse := img } }
      else event .calDefaults 0 { s with sys := { s.sys with calInUse := [] } }
  stepDone 7 s

/-- Step 8 (R517, R519): the host link trains, or start-up goes on with the host port down. -/
def bootHost (o : BootObs) (s : State) : State :=
  let s := { s with links := { s.links with host := { up := decide (0 < o.hostLanes), lanes := o.hostLanes } } }
  let s := stepDone 8 s
  if s.sys.bootFail then enterSafe .bootImageInvalid false s else s

/-- The stack port of a device address (R321). -/
def stackOf (a : Nat) : Nat := a / 2 ^ 36

/-- The channel of a device address (R322). -/
def channelOf (a : Nat) : Nat := a / 4096 % 32

/-- A DRAM row repair of the log is applied again, and counts for its channel (R452, R455, R515). -/
def repairRow (s : State) (a : Nat) : State :=
  { s with stackTab := Tab.upd s.stackTab (stackOf a) fun x =>
      { x with rowRepairs := Tab.put x.rowRepairs (channelOf a) (Tab.getD x.rowRepairs (channelOf a) 0 + 1) } }

/-- Step 9 (R466, R515): the populated stacks train, or start-up ends in SAFE; the row repairs of the log are applied; every word is zero. -/
def bootHbm (o : BootObs) (s : State) : State :=
  if o.stackFail then enterSafe .interconnectTestFailed false s
  else
    let s := (populatedPorts s.sys.cfg.stackCount).foldl (fun s p =>
      { s with stackTab := Tab.put s.stackTab p { stackPort s p with capacity := min (o.stackBytes.getD p 0) 64000000000 } }) s
    let s := (((repairLog s).filter fun e => decide (e.1 = 3)).map Prod.snd).foldl repairRow s
    stepDone 9 { s with mem := outsideStacks s.mem }

/-- Step 10 (R454, R515): the arrays are zero and islands run at 1.25 GHz. -/
def bootArray (o : BootObs) (s : State) : State :=
  if o.arrayFail || (serviceClusters s).isEmpty then enterSafe .recoveryFailed false s
  else
    let n := (serviceClusters s).length
    stepDone 10 { s with power := { s.power with base := { s.power.base with k := 40 }, budget := 1536000 * n } }

/-- A module comes up after link training: its sequence numbers and credits start at zero and HELLO is sent (R409, R410). -/
def ucieTrain (m lanes : Nat) (s : State) : State :=
  let old := Tab.getD s.links.ucie m {}
  let held := old.deliveries.map fun d => { d with lastSeq := none }
  let new : Ucie := { up := true, lanes := lanes, deliveries := held, waiting := old.waiting }
  sendControl m (BitVec.ofNat 128 (packFields [(0, 4, 7), (16, 8, 1), (64, 16, 0x1FF)])) (putUcie m new s)

/-- Step 11 (R515): the modules set in UCIE_MODULES train. -/
def bootUcie (o : BootObs) (s : State) : State :=
  stepDone 11 (o.ucieLanes.foldl (fun s e =>
    if s.sys.cfg.ucieModules.testBit e.1 && decide (e.1 < 8) && decide (0 < e.2) then
      let s := ucieTrain e.1 e.2 s
      whenS (decide (e.2 < 64)) (keepRecord (linkRecord 4 2 e.1 64 e.2 0)) s
    else s) s)

/-- The widest width of the link that begins at a lane group (R414). -/
def fullLanes (s : State) (g : Nat) : Nat := if pairLow s.sys.cfg.roleTable g then 16 else 8

/-- Step 12 (R416, R515): expander ports train and their decoders are programmed; peer links train. -/
def bootLinks (o : BootObs) (s : State) : State :=
  let exps := portGroups s.sys.cfg.roleTable 2
  let s := (List.range exps.length).foldl (fun s e =>
    let cap := min (o.expanderBytes.getD e 0) (2 ^ 40)
    let l : Link := { up := decide (0 < cap), lanes := if 0 < cap then 8 else 0, capacity := cap }
    { s with links := { s.links with expanders := Tab.put s.links.expanders e l } }) s
  let peers := portGroups s.sys.cfg.roleTable 3
  let s := peers.foldl (fun s g =>
    let lanes := ((o.peerLanes.find? fun e => e.1 = g).map Prod.snd).getD 0
    let l : Link := { up := decide (0 < lanes), lanes := min lanes (fullLanes s g) }
    let s := { s with links := { s.links with peers := Tab.put s.links.peers g l } }
    whenS (decide (lanes < fullLanes s g)) (keepRecord (linkRecord 4 3 g (fullLanes s g) lanes 0)) s) s
  whenS (s.sys.chainRoot && !peers.isEmpty) enumStart (stepDone 12 s)

/-- Peer links that are up. -/
def peersUp (s : State) : List Nat := (s.links.peers.filter fun e => e.2.up).map Prod.fst

/-- Enumeration has ended, or there is nothing to enumerate (R515 step 13). -/
def enumEnded (s : State) : Bool := (peersUp s).isEmpty || decide (2 ≤ s.work.chain.enumStatus)

/-- Step 14 (R515): READY. -/
def bootReady (s : State) : State := setEngState .ready (stepDone 14 s)

/-- The step after `bootStep` completes, or ends start-up in SAFE (R515). -/
def bootNext (o : BootObs) (s : State) : State :=
  match s.sys.bootStep with
  | 0 => stepDone 1 s
  | 1 => if o.fusesOk then stepDone 2 s else enterSafe .halfMismatch false s
  | 2 => if s.sys.bootSrc = 3 then s else if o.pllOk then stepDone 3 s else enterSafe .recoveryFailed false s
  | 3 => bootInterconnect o s
  | 4 => bootRom (openFlash o s)
  | 5 => bootFirmware o s
  | 6 => bootCalibrate o s
  | 7 => bootHost o s
  | 8 => bootHbm o s
  | 9 => bootArray o s
  | 10 => bootUcie o s
  | 11 => bootLinks o s
  | 12 => if enumEnded s then stepDone 13 s else s
  | _ => bootReady s

/-- BOOT_STEP_DONE: the step in progress completes (R515). -/
def execBootStepDone (o : BootObs) (s : State) : Host.Outcome State Fault Refusal :=
  .next (if s.sys.engState = .booting then bootNext o s else s)

/-! ### The image registers (R491) -/

/-- Start-up waits for an image over I3C (R491). -/
def imgWaits (s : State) : Bool :=
  decide (s.sys.engState = .booting) && decide (s.sys.bootSrc = 2) && decide (s.sys.bootStep = 5)

/-- Data written at 0x0500 lands at IMG_OFFSET onward and IMG_OFFSET advances (R491). -/
def imgWrite (data : List Byte) (s : State) : State :=
  { s with sys := { s.sys with imgData := cellWrite 0 s.sys.imgData s.sys.imgOffset.toNat data
                               imgOffset := s.sys.imgOffset + BitVec.ofNat 32 data.length } }

/-- IMG_DATA_WRITE (R491): ignored unless start-up waits for an image. -/
def execImgDataWrite (data : List Byte) (s : State) : Host.Outcome State Fault Refusal :=
  .next (if imgWaits s then imgWrite data s else s)

/-- IMG_STATUS of an outcome (R491). -/
def imgStatusOf : ImageCheck → Nat
  | .ok => 1 | .badImage => 2 | .badSignature => 3 | .rollback => 4

/-- IMG_DONE verifies the image under R497; start-up goes on when IMG_STATUS reads OK (R491). -/
def execImgDone (sigOk : Bool) (s : State) : Host.Outcome State Fault Refusal :=
  .next (if imgWaits s then
      { s with sys := { s.sys with imgStatus := imgStatusOf (checkHeader s (i3cHeader s) sigOk) } }
    else s)

end Sys2Proof.Machine
end

