-- ==== Sys2Proof/Machine/Power.lean ====
section
/-! DEFINITION. Heat and the power manager (R325, R430, R470 to R477). -/

namespace Sys2Proof.Machine

/-- The island of a cluster. -/
def island (s : State) (c : Nat) : Island := Tab.getD s.power.islands c s.power.base

/-- The island of a cluster is put. -/
def putIsland (c : Nat) (i : Island) (s : State) : State :=
  { s with power := { s.power with islands := Tab.put s.power.islands c i } }

/-- The island level that a reading reaches (R470). -/
def islandLevelOf (t : Int) : Nat := if 105 ≤ t then 3 else if 102 ≤ t then 2 else if 98 ≤ t then 1 else 0

/-- The threshold of an island level (R470). -/
def islandThreshold (l : Nat) : Int := if l = 3 then 105 else if l = 2 then 102 else 98

/-- The stack level that a reading reaches (R325, R470). -/
def stackLevelOf (t : Int) : Nat :=
  if 100 ≤ t then 4 else if 95 ≤ t then 3 else if 92 ≤ t then 2 else if 88 ≤ t then 1 else 0

/-- The threshold of a stack level (R325, R470). -/
def stackThreshold (l : Nat) : Int := if l = 4 then 100 else if l = 3 then 95 else if l = 2 then 92 else 88

/-- The class-specific part of a THERMAL record (R472): SOURCE, LEVEL, UNIT, READING_C. -/
def thermalSpec (source level unit : Nat) (reading : Int) : Nat :=
  packFields [(0, 4, source), (4, 4, level), (16, 16, unit), (32, 8, unsignedOf reading 8)]

/-- A THERMAL record, with the in-band interrupt of the level (R472, R490). -/
def thermalRecord (source level unit : Nat) (reading : Int) (s : State) : State :=
  raiseIbi 2 (faultRecord { cls := .thermal, sev := .degraded, spec := thermalSpec source level unit reading } s)

/-- The thermal trip (R471): transfers and clocks stop, the state is frozen, and the device enters SAFE. -/
def thermalTrip (s : State) : State := enterSafe .thermalTrip true s

/-- The event of an island's level (R486). -/
def islandEvent (c level : Nat) (reading : Int) (s : State) : State :=
  event .islandThermal (packFields [(0, 9, c), (12, 3, level), (16, 8, unsignedOf reading 8)]) s

/-- An island enters a level: the event, and the record of level 3 (R470, R472). -/
def islandEnter (c level : Nat) (reading : Int) (s : State) : State :=
  let s := putIsland c { island s c with level := level } s
  let s := islandEvent c level reading s
  whenS (decide (level = 3)) (thermalRecord 1 3 c reading) s

/-- A cluster reading raises the level of its island (R470). -/
def clusterReading (c : Nat) (t : Int) (s : State) : State :=
  let s := putIsland c { island s c with temp := t } s
  let l := islandLevelOf t
  if (island s c).level < l then islandEnter c l t s else s

/-- A reading is only kept, for telemetry, once the state is frozen (R471). -/
def keepReading (c : Nat) (t : Int) (s : State) : State := putIsland c { island s c with temp := t } s

/-- Some island's clock is capped by heat: its own level, or that of a stack of its half (R325, R470). -/
def heatCaps (s : State) : Bool :=
  (s.power.islands.any fun e => decide (0 < e.2.level)) || !s.power.level2Halves.isEmpty ||
    s.stackTab.any fun e => decide (3 ≤ e.2.level)

/-- CLUSTER_SENSOR_READ: the readings are taken, levels rise, and a reading of 115 °C or more trips (R470, R471). Each reading stands for
10 µs of THERMAL_CAPPED_US (R484; log entry 32). -/
def clusterSensors (rs : List (Nat × Int)) (lower upper : Int) (s : State) : State :=
  let rs := rs.filter fun r => decide (r.1 < 512)
  let s := { s with power := { s.power with lowerDomain := lower, upperDomain := upper } }
  let trip := decide (115 ≤ lower) || decide (115 ≤ upper) || rs.any fun r => decide (115 ≤ r.2)
  if s.sys.frozen then rs.foldl (fun s r => keepReading r.1 r.2 s) s
  else
    let s := whenS (heatCaps s) (count .thermalCappedUs 10) s
    if trip then thermalTrip (rs.foldl (fun s r => keepReading r.1 r.2 s) s)
    else rs.foldl (fun s r => clusterReading r.1 r.2 s) s

/-- CLUSTER_SENSOR_READ (R470). -/
def execClusterSensorRead (rs : List (Nat × Int)) (lower upper : Int) (s : State) : Host.Outcome State Fault Refusal :=
  .next (if s.sys.engState = .reset then s else clusterSensors rs lower upper s)

/-- ISLAND_LEVEL_FALL: after 1 ms of readings below the threshold of the level minus 2 °C the level falls by one (R325,
R470). The reading held must lie below; that 1 ms has passed is the event's own (log entry 11). -/
def execIslandLevelFall (c : Nat) : State → Host.Outcome State Fault Refusal :=
  live fun s =>
    let i := island s c
    if c < 512 ∧ 0 < i.level ∧ i.temp < islandThreshold i.level - 2 then islandEnter c (i.level - 1) i.temp s else s

/-- A stack port is put. -/
def putStack (p : Nat) (st : StackPort) (s : State) : State := { s with stackTab := Tab.put s.stackTab p st }

/-- The event of a stack's level (R325, R486). -/
def stackEvent (p level : Nat) (reading : Int) (s : State) : State :=
  event .stackThrottle (packFields [(0, 3, p), (4, 3, level), (8, 8, unsignedOf reading 8)]) s

/-- The half of a stack port (R321). -/
def halfOfPort (p : Nat) : Nat := p / 4

/-- Some stack of the half is at level 2 or above. -/
def halfAtLevel2 (s : State) (h : Nat) : Bool :=
  s.stackTab.any fun e => decide (halfOfPort e.1 = h) && decide (2 ≤ e.2.level)

/-- A stack enters a level (R325, R470, R472); leaving level 2 ends the lasting cap of its half. -/
def stackEnter (p level : Nat) (reading : Int) (s : State) : State :=
  let old := stackPort s p
  let since := if level < 2 then none else if old.level < 2 then some s.clock else old.level2Since
  let s := putStack p { old with level := level, level2Since := since } s
  let s := stackEvent p level reading s
  let s := whenS (decide (level = 4) && decide (old.level < 4)) (thermalRecord 2 4 p reading) s
  if halfAtLevel2 s (halfOfPort p) then s
  else { s with power := { s.power with level2Halves := s.power.level2Halves.filter fun h => h != halfOfPort p } }

/-- STACK_TEMP_READ: the reading raises the level; 105 °C or more trips (R325, R471). Each reading stands for 100 µs of THROTTLE_US
(R326; log entry 32). -/
def stackReading (p : Nat) (t : Int) (s : State) : State :=
  let s := putStack p { stackPort s p with temp := t } s
  let s := whenS (!s.sys.frozen && decide (1 ≤ (stackPort s p).level)) (stackCount p .throttleUs 100) s
  if s.sys.frozen then s
  else if 105 ≤ t then thermalTrip s
  else if (stackPort s p).level < stackLevelOf t then stackEnter p (stackLevelOf t) t s
  else s

/-- STACK_TEMP_READ (R325). -/
def execStackTempRead (p : Nat) (t : Int) (s : State) : Host.Outcome State Fault Refusal :=
  .next (if populated s p then stackReading p t s else s)

/-- STACK_LEVEL_FALL (R325). -/
def execStackLevelFall (p : Nat) : State → Host.Outcome State Fault Refusal :=
  live fun s =>
    let st := stackPort s p
    if populated s p ∧ 0 < st.level ∧ st.temp < stackThreshold st.level - 2 then stackEnter p (st.level - 1) st.temp s
    else s

/-- STACK_LEVEL2_ISLAND_CAP: level 2 has lasted 10 ms, and the islands of the half are capped at 1.0 GHz (R325). -/
def execStackLevel2IslandCap (half : Nat) : State → Host.Outcome State Fault Refusal :=
  live fun s =>
    if half < 2 ∧ halfAtLevel2 s half ∧ ¬ s.power.level2Halves.contains half then
      { s with power := { s.power with level2Halves := insertBy id half s.power.level2Halves } }
    else s

/-! ### Clocks and credits -/

/-- The clock cap k of an island level (R470). -/
def levelCap (l : Nat) : Nat := if l = 0 then 40 else if l = 1 then 32 else if l = 2 then 24 else 16

/-- The clock cap k that the stacks of a half set (R325, R470). -/
def stackCap (s : State) (half : Nat) : Nat :=
  let top := maxNat ((s.stackTab.filter fun e => halfOfPort e.1 = half).map fun e => e.2.level)
  if 4 ≤ top then 16 else if top = 3 then 24 else if top = 2 ∧ s.power.level2Halves.contains half then 32 else 40

/-- The mirror cluster: the other cluster of the pair (R17). -/
def mirror (c : Nat) : Nat := if c < 256 then c + 256 else c - 256

/-- The highest k that every cap in force permits: the lowest holds (R325, R430, R470, R477). -/
def clockCapOf (s : State) (c : Nat) : Nat :=
  min (min s.power.kMax (min (levelCap (island s c).level) (levelCap (island s (mirror c)).level))) (stackCap s (halfOf c))

/-- ISLAND_CLOCK_CHANGE: the multiplier of an island becomes the highest that the caps permit (R430; log entry 12). -/
def execIslandClockChange (c : Nat) : State → Host.Outcome State Fault Refusal :=
  live fun s => if c < 512 ∧ 10 ≤ s.sys.bootStep then putIsland c { island s c with k := clockCapOf s c } s else s

/-- What one island's engines did since the last refill is taken from its bucket, which is then refilled by the grant and
holds at most 20 grants. A bucket that is empty all the same stalls the engines until the next refill (R474; log entry 70). -/
def refillIsland (worked : Nat) (i : Island) : Island :=
  let c := min (20 * i.grant) (i.credit - worked + i.grant)
  { i with credit := c, stalled := decide (c = 0) }

/-- CREDIT_REFILL: each entry names a cluster, the core-cycles in which its engines worked, and the core-cycles in which they
stalled, since the last refill (R474, R484). -/
def refillAll (worked : List (Nat × Nat × Nat)) (s : State) : State :=
  let get := fun c => ((worked.find? fun e => e.1 = c).map fun e => e.2.1).getD 0
  let is := s.power.islands.map fun e => (e.1, refillIsland (get e.1) e.2)
  let s := { s with power := { s.power with islands := is, base := refillIsland 0 s.power.base } }
  count .creditStallCycles (sumNat (worked.map fun e => e.2.2)) s

/-- CREDIT_REFILL (R474). -/
def execCreditRefill (worked : List (Nat × Nat × Nat)) : State → Host.Outcome State Fault Refusal :=
  live (refillAll worked)

/-- One island in the division of the budget: cluster, demand, least and greatest share. -/
structure Share where
  cluster : Nat
  demand : Nat
  least : Nat
  most : Nat
  deriving DecidableEq, Repr

/-- The division of R475: shares in proportion to demand; islands whose share would lie below their least receive that, then
islands whose share would pass their most receive that, and what is left goes to the others (log entry 13). -/
def divideBudget (fuel budget : Nat) (xs : List Share) : List (Nat × Nat) :=
  match fuel with
  | 0 => []
  | fuel + 1 =>
    let total := sumNat (xs.map Share.demand)
    let part := fun x : Share => budget * x.demand / total
    let low := xs.filter fun x => decide (part x < x.least)
    let high := xs.filter fun x => decide (x.most < part x)
    if xs.isEmpty then []
    else if !low.isEmpty then
      (low.map fun x => (x.cluster, min x.least x.most)) ++
        divideBudget fuel (budget - sumNat (low.map fun x => min x.least x.most))
          (xs.filter fun x => !decide (part x < x.least))
    else if !high.isEmpty then
      (high.map fun x => (x.cluster, x.most)) ++
        divideBudget fuel (budget - sumNat (high.map Share.most)) (xs.filter fun x => !decide (x.most < part x))
    else xs.map fun x => (x.cluster, part x)

/-- The cap of B (R475). -/
def budgetCap (s : State) : Nat := 1536000 * (serviceClusters s).length

/-- The grants of BUDGET_DIVIDE, halved for islands at level 3 (R470, R475). -/
def grantAll (demands : List (Nat × Nat)) (s : State) : State :=
  let n := (serviceClusters s).length
  let ds := demands.filter fun d => decide (0 < d.2) && (serviceClusters s).contains d.1
  let shares := ds.map fun d =>
    ({ cluster := d.1, demand := d.2, least := s.power.budget / (2 * n), most := 64000 * (island s d.1).k } : Share)
  let gs := divideBudget (shares.length + 1) s.power.budget shares
  let s := { s with power := { s.power with
    islands := s.power.islands.map fun e => (e.1, { e.2 with grant := 0 }), base := { s.power.base with grant := 0 } } }
  gs.foldl (fun s g =>
    let i := island s g.1
    let d := ((ds.find? fun d => d.1 = g.1).map Prod.snd).getD 0
    putIsland g.1 { i with grant := if i.level = 3 then g.2 / 2 else g.2, demand := d } s) s

/-- A power manager runs: the lower processor, or, once it holds the duties of a lower one that failed, the upper (R473). -/
def managerRuns (s : State) : Bool := s.sys.lowerUp || (s.sys.upperUp && (!s.mpLower.failed || s.mpLower.handedOver))

/-- BUDGET_DIVIDE: the demand of each island over the last 10 µs is the operand (R475). While no power manager runs every
island keeps its grant (R473). -/
def execBudgetDivide (demands : List (Nat × Nat)) : State → Host.Outcome State Fault Refusal :=
  live fun s => if managerRuns s then grantAll demands s else s

/-- The power limit L in force (R476, R477). -/
def limitInForce (s : State) : Nat :=
  if s.power.limitHint = 0 then s.sys.cfg.powerLimit else min s.power.limitHint s.sys.cfg.powerLimit

/-- B after one comparison of P with L (R476). -/
def nextBudget (cap limit watts budget : Nat) : Nat :=
  if limit < watts then budget - 468000 * (watts - limit)
  else if 100 * watts < 97 * limit then min cap (budget + cap / 20)
  else budget

/-- B in permille of its cap (R486, R489). -/
def budgetPermille (s : State) : Nat := s.power.budget * 1000 / max 1 (budgetCap s)

/-- B takes a new value; a change from its cap, or back to it, raises POWER_LIMITED (R476). -/
def setBudget (b : Nat) (s : State) : State :=
  let lim := decide (b < budgetCap s)
  let was := s.power.limited
  let s := { s with power := { s.power with budget := b, limited := lim } }
  if lim = was then s
  else event .powerLimited
    (packFields [(0, 1, b2n lim), (16, 16, s.power.meanWatts), (32, 10, budgetPermille s)]) s

/-- The cap of B falls with the clusters in service, and B is never above it (R28, R475). -/
def fitBudget (s : State) : State := setBudget (min s.power.budget (budgetCap s)) s

/-- A comparison stands for 100 µs of POWER_LIMITED_US and of energy at P watts (R484; log entry 32). -/
def powerTime (watts : Nat) (s : State) : State :=
  let e := s.power.energyRest + watts
  count .energyMj (e / 10) (whenS s.power.limited (count .powerLimitedUs 100) { s with power := { s.power with energyRest := e % 10 } })

/-- POWER_LIMIT_CHECK (R476): P is the operand. -/
def powerCheck (watts : Nat) (s : State) : State :=
  let s := powerTime watts s
  setBudget (nextBudget (budgetCap s) (limitInForce s) watts s.power.budget) { s with power := { s.power with meanWatts := watts } }

/-- POWER_LIMIT_CHECK (R476). -/
def execPowerLimitCheck (watts : Nat) : State → Host.Outcome State Fault Refusal :=
  live fun s => if managerRuns s && decide (10 ≤ s.sys.bootStep) then powerCheck watts s else s

/-! ### POWER_HINT (R477) -/

/-- The operation fields of a POWER_HINT argument block, with OP set by the row. -/
def hintArgs (op : Nat) (m : MbxCall) : BitVec 2048 := setField m.args 0 4 op

/-- Fields of the POWER_HINT block that are reserved, or that the operation does not use (R356, R477). -/
def hintReserved (op : Nat) : List (Nat × Nat) :=
  [(6, 10), (38, 26), (96, 1952)] ++ (if op = 4 then [] else [(4, 2)]) ++ (if op = 2 then [] else [(16, 16)]) ++
    (if op = 3 then [] else [(32, 6)]) ++ (if op = 1 then [] else [(64, 32)])

/-- NEXT_EVENT: no work is expected for IDLE_US; 0 withdraws the hint (R477). -/
def execNextEvent (m : MbxCall) : State → Host.Outcome State Fault Refusal :=
  mbxRow (mailbox 0x50 true false false (hintArgs 1 m) (fun s =>
    if !zeroFields (hintArgs 1 m) (hintReserved 1) then .refuse .badReserved
    else
      let us := bits m.args 64 32
      .reply { s with power := { s.power with nextEventAt := if us = 0 then none else some (s.clock + 100 * us) } } .ok 0) m)

/-- POWER_LIMIT: 1,000 to 2,500 W, or 0 for the boot value (R477). -/
def execPowerHintLimit (m : MbxCall) : State → Host.Outcome State Fault Refusal :=
  mbxRow (mailbox 0x50 true false false (hintArgs 2 m) (fun s =>
    let w := bits m.args 16 16
    if !zeroFields (hintArgs 2 m) (hintReserved 2) || !(decide (w = 0) || (decide (1000 ≤ w) && decide (w ≤ 2500))) then
      .refuse .badReserved
    else .reply { s with power := { s.power with limitHint := w } } .ok 0) m)

/-- CLOCK_CAP: k from 16 to 40 (R477). -/
def execClockCap (m : MbxCall) : State → Host.Outcome State Fault Refusal :=
  mbxRow (mailbox 0x50 true false false (hintArgs 3 m) (fun s =>
    let k := bits m.args 32 6
    if !zeroFields (hintArgs 3 m) (hintReserved 3) || !(decide (16 ≤ k) && decide (k ≤ 40)) then .refuse .badReserved
    else .reply { s with power := { s.power with kMax := k } } .ok 0) m)

/-- LULL_FLOOR: the deepest Lull state permitted (R477). -/
def execLullFloor (m : MbxCall) : State → Host.Outcome State Fault Refusal :=
  mbxRow (mailbox 0x50 true false false (hintArgs 4 m) (fun s =>
    if !zeroFields (hintArgs 4 m) (hintReserved 4) then .refuse .badReserved
    else .reply { s with power := { s.power with lullFloor := bits m.args 4 2 } } .ok 0) m)

end Sys2Proof.Machine
end

