-- ==== Sys2Proof/Machine/RowCodec.lean ====
section
/-! DEFINITION. Row and state records (R31, R33, R69 to R71), the terms they hold (R32, R34, R35), how the device encodes a
row (R36, R37), and the remainder plane (R57 to R60). -/

namespace Sys2Proof.Machine

/-- What fixes the layout of a table's records (R67, R69, R70). `remBits` is 0, 8 or 16. -/
structure RowShape where
  format : Format
  scaling : Scaling
  elements : Nat
  remBits : Nat
  planes : Nat
  stateBf16 : Bool
  words : Nat
  deriving DecidableEq, Repr

/-- Elements stored, rounded up to whole blocks for MX_BLOCK (R33, R69). -/
def storedElems (r : RowShape) : Nat := if r.scaling == .mxBlock then roundUp r.elements 32 else r.elements

/-- D of R69. -/
def elemBytes (r : RowShape) : Nat := (storedElems r * formatWidth r.format + 7) / 8

/-- The offset of the scale area (R69). -/
def scaleOffset (r : RowShape) : Nat := roundUp (elemBytes r) 4

/-- A of R69. -/
def scaleBytes (r : RowShape) : Nat :=
  match r.scaling with
  | .none => 0
  | .rowScale => 4
  | .rowScaleBias => 8
  | .mxBlock => (r.elements + 31) / 32

/-- P of R69: the length of the data part. -/
def dataBytes (r : RowShape) : Nat := roundup16 (scaleOffset r + scaleBytes r)

/-- The bytes of the remainder plane (R69). -/
def remBytes (r : RowShape) : Nat := r.elements * r.remBits / 8

/-- L of R69: the length of the row record. -/
def recordBytes (r : RowShape) : Nat := dataBytes r + roundup16 (remBytes r)

/-- Bytes of a state value (R70). -/
def stateWidth (r : RowShape) : Nat := if r.stateBf16 then 2 else 4

/-- The offset of state plane `k` in the state record (R70). -/
def planeOffset (r : RowShape) (k : Nat) : Nat := k * roundup16 (r.elements * stateWidth r)

/-- The offset of the state words (R70). -/
def wordsOffset (r : RowShape) : Nat := planeOffset r r.planes

/-- Z of R70: the length of the state record. -/
def stateBytes (r : RowShape) : Nat := wordsOffset r + roundup16 (4 * r.words)

/-- A row's footprint (R72). -/
def footprint (r : RowShape) : Nat := recordBytes r + stateBytes r

/-- The raw bits of element `i` of a data part (R31). -/
def rawElem (r : RowShape) (bs : List Byte) (i : Nat) : Nat :=
  match formatWidth r.format with
  | 32 => ofBytes (sliceBytes bs (4 * i) 4)
  | 16 => ofBytes (sliceBytes bs (2 * i) 2)
  | 8 => ofBytes (sliceBytes bs i 1)
  | 6 => bitsOf (ofBytes (sliceBytes bs (3 * (i / 4)) 3)) (6 * (i % 4)) 6
  | _ => bitsOf (ofBytes (sliceBytes bs (i / 2) 1)) (4 * (i % 2)) 4

/-- The number whose element `i` of width `w` is the i-th of the list, lowest first (R31). -/
def packElems (w : Nat) : List Nat → Nat
  | [] => 0
  | x :: xs => x % 2 ^ w + 2 ^ w * packElems w xs

/-- The packed element area of a list of raw elements (R31). -/
def packRaw (r : RowShape) (raws : List Nat) : List Byte :=
  toBytes (elemBytes r) (packElems (formatWidth r.format) raws)

/-- The stored FP32 scale (R69). -/
def storedScale (r : RowShape) (bs : List Byte) : Word32 := BitVec.ofNat 32 (ofBytes (sliceBytes bs (scaleOffset r) 4))

/-- The stored FP32 bias of ROW_SCALE_BIAS (R69). -/
def storedBias (r : RowShape) (bs : List Byte) : Word32 :=
  BitVec.ofNat 32 (ofBytes (sliceBytes bs (scaleOffset r + 4) 4))

/-- The scale byte of the block that holds element `i` (R33). -/
def blockScale (r : RowShape) (bs : List Byte) (i : Nat) : Nat := ofBytes (sliceBytes bs (scaleOffset r + i / 32) 1)

/-- A stored scale or bias makes its row NaN: it is NaN, infinite or negative, -0 counting as zero (R34). -/
def badScale (x : Word32) : Bool :=
  match val32 x with
  | .nan => true
  | .inf _ => true
  | .fin neg n _ => neg && n != 0

/-- A stored scale or bias as a value, -0 read as +0 (R34). -/
def scaleVal (x : Word32) : Val :=
  match val32 x with
  | .fin _ n d => .fin false n d
  | v => v

/-- The row's scale applied to an exact element value, before any rounding (R32, R34). -/
def applyScale (r : RowShape) (bs : List Byte) (i : Nat) (q : Val) : Val :=
  match r.scaling with
  | .none => q
  | .rowScale =>
    let s := storedScale r bs
    if badScale s then .nan
    else if isZeroVal (val32 s) then vzero
    else mulVal (scaleVal s) q
  | .rowScaleBias =>
    let s := storedScale r bs
    let b := storedBias r bs
    if badScale s || badScale b then .nan
    else if isZeroVal (val32 s) then scaleVal b
    else addVal (mulVal (scaleVal s) q) (scaleVal b)
  | .mxBlock =>
    let x := blockScale r bs i
    if x == 0xFF then .nan else mulVal (dyadic false 1 ((x : Int) - 127)) q

/-- The element value of R32, exact. -/
def elemVal (r : RowShape) (bs : List Byte) (i : Nat) : Val :=
  applyScale r bs i (decodeElem r.format (rawElem r bs i))

/-- Step 1 of R35: the element value rounded once to FP32. -/
def term1 (r : RowShape) (bs : List Byte) (i : Nat) : Word32 := round32 (elemVal r bs i)

/-- Step 2 of R35: the product with the bag weight rounded once to FP32. -/
def weightTerm (x w : Word32) : Word32 := fmul x w

/-! ### The remainder plane -/

/-- Rows that may carry a remainder plane (R57). -/
def remPermits (f : Format) (s : Scaling) : Bool :=
  (f == .bf16 || f == .fp16 || f == .e4m3 || f == .e5m2) && (s == .none || s == .rowScale)

/-- The exponent of ulp(s) for stored bits: the spacing of the format there (R58). -/
def ulpExp (f : Format) (raw : Nat) : Int :=
  let mag := raw % 2 ^ (formatWidth f - 1)
  let ex := mag / 2 ^ manBits f
  if ex == 0 then qmin f else qmin f + ex - 1

/-- The stored remainder of element `i` (R69). -/
def rawRem (r : RowShape) (bs : List Byte) (i : Nat) : Nat :=
  ofBytes (sliceBytes bs (dataBytes r + i * r.remBits / 8) (r.remBits / 8))

/-- The exact joined value s + r * ulp(s) * 2^-w of R58, before the row scale. The spec states no sign of a joined zero: it keeps that
of `s` (DESIGN CHOICE, log entry 72). -/
def joined (r : RowShape) (bs : List Byte) (i : Nat) : Val :=
  let raw := rawElem r bs i
  let s := decodeElem r.format raw
  if r.remBits == 0 || isNonfinite s then s
  else
    let k := signedOf (rawRem r bs i) r.remBits
    if k == 0 then s
    else addVal s (dyadic (k < 0) k.natAbs (ulpExp r.format raw - r.remBits))

/-- The value that LDRJ returns for element `i`, rounded once to FP32 (R58, R192). -/
def termJoined (r : RowShape) (bs : List Byte) (i : Nat) : Word32 := round32 (applyScale r bs i (joined r bs i))

/-- The remainder of R59 for the exact value `v` and the stored bits `raw`, as a w-bit number. -/
def splitRem (f : Format) (w : Nat) (v : Val) (raw : Nat) : Nat :=
  let s := decodeElem f raw
  match addVal v (negVal s) with
  | .fin neg n d =>
    if isNonfinite s then 0
    else
      let p := scale2 n d ((w : Int) - ulpExp f raw)
      let m := rneNat p.1 p.2
      let hi : Int := (2 ^ (w - 1) : Nat)
      let k : Int := if neg then -(m : Int) else (m : Int)
      unsignedOf (max (-hi) (min (hi - 1) k)) w
  | _ => 0

/-! ### Encoding a row -/

/-- The greatest magnitude among the finite values, as a fraction; (0, 1) when none is finite and non-zero. -/
def maxAbs (xs : List Val) : Nat × Nat :=
  xs.foldl (fun acc v =>
    match v with
    | .fin _ n d => if acc.1 * d < n * acc.2 then (n, d) else acc
    | _ => acc) (0, 1)

/-- F of R37. -/
def scaleDivisor (f : Format) : Nat × Nat :=
  match f with
  | .int8 => (127, 1)
  | .int4 => (7, 1)
  | _ =>
    match decodeFloat f (maxFinite f) with
    | .fin _ n d => (n, d)
    | _ => (1, 1)

/-- The scale that the device chooses for a ROW_SCALE or ROW_SCALE_BIAS row (R37). -/
def chooseScale (f : Format) (xs : List Val) : Word32 :=
  let m := maxAbs xs
  if m.1 == 0 then f1
  else
    let F := scaleDivisor f
    let s := round32 (.fin false (m.1 * F.2) (m.2 * F.1))
    if s == f0 then 1 else s

/-- E of R37. -/
def blockExp : Format → Int
  | .e4m3 => 8 | .e5m2 => 15 | .e3m2 => 4 | _ => 2

/-- The scale byte that the device chooses for a block of MX_BLOCK (R37). -/
def chooseBlock (f : Format) (xs : List Val) : Nat :=
  let m := maxAbs xs
  if m.1 == 0 then 0
  else (max 0 (min 254 (floorLog2 m.1 m.2 - blockExp f + 127))).toNat

/-- A row as the device encodes it: element bits, scale area, and the conversions made (R37). -/
structure Encoded where
  raws : List Nat
  scale : List Byte
  convs : List Conv
  deriving DecidableEq, Repr

/-- The scale bytes of an MX_BLOCK row (R37). -/
def blockScales (f : Format) (xs : List Val) : List Nat :=
  (chunks 32 ((xs.length + 31) / 32) xs).map (chooseBlock f)

/-- The device's encoding of a row of FP32 values (R36, R37). -/
def encodeRow (r : RowShape) (xs : List Word32) : Encoded :=
  let vs := xs.map val32
  match r.scaling with
  | .none =>
    let cs := vs.map (convert r.format)
    { raws := cs.map (·.raw), scale := [], convs := cs }
  | .mxBlock =>
    let bsc := blockScales r.format vs
    let cs := (List.range vs.length).map fun i =>
      let x := bsc.getD (i / 32) 0
      convert r.format (mulVal (vs.getD i vzero) (dyadic false 1 (127 - (x : Int))))
    { raws := cs.map (·.raw) ++ List.replicate (storedElems r - vs.length) 0,
      scale := bsc.map (BitVec.ofNat 8), convs := cs }
  | _ =>
    let s := chooseScale r.format vs
    let cs := vs.map fun v => convert r.format (divVal v (val32 s))
    { raws := cs.map (·.raw),
      scale := toBytes 4 s.toNat ++ (if r.scaling == .rowScaleBias then zeroBytes 4 else []), convs := cs }

/-- The data part of an encoded row: elements, scale area, zero padding (R69). -/
def dataPart (r : RowShape) (e : Encoded) : List Byte :=
  let bs := packRaw r e.raws
  let body := bs ++ zeroBytes (scaleOffset r - bs.length) ++ e.scale
  body ++ zeroBytes (dataBytes r - body.length)

/-- The remainder plane of a list of w-bit remainders, padded (R69). -/
def remPart (r : RowShape) (rs : List Nat) : List Byte :=
  if r.remBits == 0 then []
  else
    let bs := toBytes (remBytes r) (packElems r.remBits rs)
    bs ++ zeroBytes (roundup16 (remBytes r) - bs.length)

/-- Bytes cut or filled with zeros to a length. -/
def padTo (n : Nat) (bs : List Byte) : List Byte := sliceBytes bs 0 n

/-- A data part with every padding element, bit and byte zero (R33, R69). -/
def cleanData (r : RowShape) (bs : List Byte) : List Byte :=
  dataPart r { raws := (List.range r.elements).map (rawElem r bs), scale := sliceBytes bs (scaleOffset r) (scaleBytes r), convs := [] }

/-- A remainder plane with its padding zero (R69). -/
def cleanRems (r : RowShape) (bs : List Byte) : List Byte := padTo (roundup16 (remBytes r)) (sliceBytes bs 0 (remBytes r))

/-- A state record with its padding zero (R70; log entry 69). -/
def cleanState (r : RowShape) (bs : List Byte) : List Byte :=
  ((List.range r.planes).flatMap fun k =>
    padTo (roundup16 (r.elements * stateWidth r)) (sliceBytes bs (planeOffset r k) (r.elements * stateWidth r))) ++
  padTo (roundup16 (4 * r.words)) (sliceBytes bs (wordsOffset r) (4 * r.words))

/-- A never-written row record (R71). -/
def blankRecord (r : RowShape) : List Byte := zeroBytes (recordBytes r)

/-- A never-written state record (R71). -/
def blankState (r : RowShape) : List Byte := zeroBytes (stateBytes r)

/-- The state value at plane `k`, element `i`, decoded exactly to FP32 (R192). -/
def stateVal (r : RowShape) (st : List Byte) (k i : Nat) : Word32 :=
  let w := stateWidth r
  let raw := ofBytes (sliceBytes st (planeOffset r k + w * i) w)
  if r.stateBf16 then round32 (decodeFloat .bf16 raw) else BitVec.ofNat 32 raw

/-- State word `k` (R192). -/
def stateWord (r : RowShape) (st : List Byte) (k : Nat) : Word32 :=
  BitVec.ofNat 32 (ofBytes (sliceBytes st (wordsOffset r + 4 * k) 4))

/-- The bytes of a state value converted by R36 to STATE_FORMAT (R193). -/
def stateRaw (r : RowShape) (x : Word32) : List Byte :=
  if r.stateBf16 then toBytes 2 (convert .bf16 (val32 x)).raw else toBytes 4 (convert .fp32 (val32 x)).raw

end Sys2Proof.Machine
end

