-- ==== Sys2Proof/Machine/RowBase.lean ====
section
/-! DEFINITION. Tables and their rows: the descriptor (R67), the state of a row, load counters (R232), and what a row counts for in its
tiers. -/

namespace Sys2Proof.Machine

/-! ### Descriptor fields (R67) -/

/-- The most that a 48-bit limit states: no limit. -/
def noLimit : Nat := 2 ^ 48 - 1

/-- CTX_ID. -/
def tdCtx (d : BitVec 1024) : Nat := bits d 16 8
/-- ROW_ELEMENTS_M1 + 1. -/
def tdElems (d : BitVec 1024) : Nat := bits d 32 13 + 1
/-- PROGRAM_SLOT. -/
def tdSlot (d : BitVec 1024) : Nat := bits d 56 3
/-- PROGRAM_VALID. -/
def tdProgram (d : BitVec 1024) : Bool := bit d 59
/-- ROW_LIMIT_M1. -/
def tdRowLimit (d : BitVec 1024) : Nat := bits d 64 48
/-- ORCHARD_MODE. -/
def tdMode (d : BitVec 1024) : Nat := bits d 128 2
/-- CACHE_WAYS. -/
def tdWays (d : BitVec 1024) : Nat := bits d 130 4
/-- MAY_LEAVE. -/
def tdMayLeave (d : BitVec 1024) : Bool := bit d 134
/-- SHARDED. -/
def tdSharded (d : BitVec 1024) : Bool := bit d 135
/-- COMPRESS_COLD. -/
def tdCompress (d : BitVec 1024) : Bool := bit d 136
/-- ENCRYPT_COLD. -/
def tdEncrypt (d : BitVec 1024) : Bool := bit d 137
/-- PROBE_FUNC. -/
def tdProbe (d : BitVec 1024) : Nat := bits d 144 4
/-- The limit of tier `k`. -/
def tdLimit (d : BitVec 1024) (k : Nat) : Nat := bits d (192 + 64 * k) 48
/-- DELTA_LIMIT. -/
def tdDeltaLimit (d : BitVec 1024) : Nat := bits d 512 32
/-- PROBE_PARAM_ADDR. -/
def tdProbeAddr (d : BitVec 1024) : Nat := bits d 576 56
/-- SHARD_MAP. -/
def tdShardMap (d : BitVec 1024) : Nat := bits d 640 16

/-- The layout of the table's records (R69, R70). -/
def shapeOf (d : BitVec 1024) : RowShape :=
  { format := (formatOf (bits d 24 4)).getD .fp32
    scaling := (scalingOf (bits d 28 4)).getD .none
    elements := tdElems d
    remBits := 8 * bits d 45 2
    planes := bits d 48 2
    stateBf16 := bit d 50
    words := bits d 51 3 }

/-- A count stays below a limit that may be none. -/
def belowLimit (n limit : Nat) : Bool := decide (limit = noLimit) || decide (n < limit)

/-! ### Tables and rows -/

/-- The table with a handle. -/
def tbl? (s : State) (h : Nat) : Option Table := Tab.get? s.work.tbl.tables h

/-- The table of a context that is not being deleted. -/
def liveTbl (s : State) (ctx h : Nat) : Option Table :=
  match tbl? s h with
  | some t => if t.ctx = ctx ∧ t.deleting = false then some t else none
  | none => none

/-- The tables part of the state is changed. -/
def updTables (f : Tables → Tables) (s : State) : State := { s with work := { s.work with tbl := f s.work.tbl } }

/-- The updates part of the state is changed. -/
def updUpd (f : Updates → Updates) (s : State) : State := { s with work := { s.work with upd := f s.work.upd } }

/-- A table is changed. -/
def updTbl (h : Nat) (f : Table → Table) (s : State) : State :=
  updTables (fun w => { w with tables := Tab.upd w.tables h f }) s

/-- The row with a key, or a row that was never written. -/
def rowOf (s : State) (key : Nat) : Row := Tab.getD s.work.tbl.rows key {}

/-- The row is put; a row with no working version and no delta versions is dropped. -/
def putRow (key : Nat) (r : Row) (s : State) : State :=
  let gone := decide (r.place.tier = 0) && r.deltas.isEmpty && !r.fenced && decide (r.chain = 0) && !r.committing &&
    r.move.isNone
  updTables (fun w => { w with rows := if gone then Tab.del w.rows key else Tab.put w.rows key r }) s

/-- A row is changed. -/
def updRow (key : Nat) (f : Row → Row) (s : State) : State := putRow key (f (rowOf s key)) s

/-- The rows of a table, by key. -/
def tableRows (s : State) (h : Nat) : Tab Row := s.work.tbl.rows.filter fun e => decide (keyHandle e.1 = h)

/-- The working version has been written (R71). -/
def Row.written (r : Row) : Bool := decide (r.place.tier ≠ 0)

/-- The bytes of the working version: the T0 copy where one exists, else the backing location (R210). -/
def Row.bytes (r : Row) : List Byte :=
  match r.t0 with
  | some c => c.bytes
  | none => r.backing

/-- The footprint of the working version, blank where it was never written (R71). -/
def workingBytes (sh : RowShape) (r : Row) : List Byte :=
  if r.written then r.bytes else zeroBytes (footprint sh)

/-! ### Loads (R232) -/

/-- The shard of a key, numbered over all tables. -/
def shardOf (key : Nat) : Nat := mkKey (keyHandle key) (keyIndex key / 4096)

/-- The load counter of a key's shard. -/
def loadOf (s : State) (key : Nat) : Nat := Tab.getD s.work.tbl.loads (shardOf key) 0

/-- The shard has a written row. -/
def shardWritten (s : State) (key : Nat) : Bool := s.work.tbl.rows.any fun e => e.2.written && decide (shardOf e.1 = shardOf key)

/-- The counter of a shard that has a written row rises by 1, saturating (R232). -/
def bumpLoad (key : Nat) (s : State) : State :=
  if shardWritten s key then
    updTables (fun w => { w with loads := Tab.put w.loads (shardOf key) (satAdd 16 (Tab.getD w.loads (shardOf key) 0) 1) }) s
  else s

/-! ### What rows count for -/

/-- The move of a row has not switched. -/
def Row.moving (r : Row) : Bool := r.move.any fun m => !m.switched

/-- A move that has copied and waits to switch, with no commit in progress: the row migrates (R237). -/
def Row.migrating (r : Row) : Bool := r.move.any fun m => m.copied && !m.switched && !m.recopy && !r.committing

/-- The backing location to which a row is to move. -/
def Row.target (r : Row) : Option Place :=
  match r.move with
  | some m => if m.switched then none else match m.dest with
    | .place p => some p
    | _ => none
  | none => none

/-- The places that a row holds: its backing location, the destination of its move, and a source not yet free. -/
def Row.places (r : Row) : List Place := r.place :: (r.target.toList ++ (r.move.bind RowMove.oldPlace).toList)

/-- Rows of a table that lie in a tier, or are to move there (R25). -/
def tierRows (s : State) (h tier : Nat) : Nat :=
  ((tableRows s h).filter fun e => decide (e.2.place.tier = tier) || e.2.target.any fun p => decide (p.tier = tier)).length

/-- Rows of a table with a T0 copy. -/
def t0Rows (s : State) (h : Nat) : Nat := ((tableRows s h).filter fun e => e.2.t0.isSome).length

/-- Storage of a row in T1 to T4 (R72). -/
def placedBytes (sh : RowShape) : Nat := roundUp (footprint sh) 32

/-- The footprint that a key's table stores. -/
def placedOf (s : State) (key : Nat) : Nat :=
  match tbl? s (keyHandle key) with
  | some t => placedBytes (shapeOf t.desc)
  | none => 0

/-- Bytes of a delta version (R86, R87). -/
def deltaSize (P : Nat) (d : Delta) : Nat := if d.data.isSome then P else 16

/-- Storage of a delta version in T1 to T4. -/
def Delta.placed (P : Nat) (d : Delta) : Nat := roundUp (deltaSize P d) 32

/-- Bytes of a table's delta pool (R87). -/
def deltaBytes (s : State) (h : Nat) : Nat :=
  match tbl? s h with
  | none => 0
  | some t =>
    let P := dataBytes (shapeOf t.desc)
    sumNat ((tableRows s h).map fun e => sumNat (e.2.deltas.map (deltaSize P)))

/-- The row is pinned (R217): below T0_LIMIT of a scratchpad table, and not unpinned since. -/
def isPinned (t : Table) (index : Nat) : Bool :=
  decide (tdMode t.desc = 1) && decide (index < t.pinBelow) && belowLimit index (tdLimit t.desc 0)

/-- The context of a table, or 0. -/
def tdCtxOf (s : State) (h : Nat) : Nat := match tbl? s h with
  | some t => t.ctx
  | none => 0

/-- The table may use T2 to T4: MAY_LEAVE, and a key where its cold pages are encrypted (R211, R249). -/
def mayLeave (s : State) (t : Table) : Bool :=
  tdMayLeave t.desc && (!tdEncrypt t.desc || (ctxD s t.ctx).key.isSome)

/-- The tiers that a table's backing locations may use at all. -/
def tiersOf (s : State) (t : Table) : List Nat := if mayLeave s t then [1, 2, 3, 4] else [1]

end Sys2Proof.Machine
end

