-- ==== Sys2Proof/Machine/Orchard.lean ====
section
/-! DEFINITION. The Orchard's row space (R215 to R219): banks, the seats of a partition, homes of sets and pinned rows, and the dirty
shadow (R228 to R230). -/

namespace Sys2Proof.Machine

/-! ### Banks -/

/-- The row space of a bank (R72). -/
def rowSpace (s : State) : Nat := if s.sys.cfg.orchardProtect then 5376 else 6144

/-- Banks that one row takes (R215). -/
def spanOf (s : State) (f : Nat) : Nat := (f + rowSpace s - 1) / rowSpace s

/-- Line slots of a bank for a footprint (R215). -/
def slotsPerBank (s : State) (f : Nat) : Nat := rowSpace s / max 1 f

/-- Lines of one way, or pinned rows, that a run of banks holds (R215). -/
def bankUnits (s : State) (f len : Nat) : Nat := if spanOf s f ≤ 1 then len * slotsPerBank s f else len / spanOf s f

/-- Banks that `u` of them take. -/
def unitBanks (s : State) (f u : Nat) : Nat :=
  if spanOf s f ≤ 1 then (u + slotsPerBank s f - 1) / slotsPerBank s f else u * spanOf s f

/-- The seats of a way in a cluster. -/
def seatsAt (xs : List Seat) (way c : Nat) : List Seat :=
  xs.filter fun x => decide (x.way = way) && decide (x.lo ≤ c) && decide (c < x.hi)

/-- What the seats hold. -/
def seatUnits (s : State) (f : Nat) (xs : List Seat) : Nat := sumNat (xs.map fun x => bankUnits s f x.len)

/-- The first core of place `j` in the seats of one way in one cluster (R215). -/
def unitCore (s : State) (f j : Nat) : List Seat → Nat
  | [] => 0
  | x :: xs =>
    let n := bankUnits s f x.len
    if j < n then x.base + (if spanOf s f ≤ 1 then j / slotsPerBank s f else j * spanOf s f) else unitCore s f (j - n) xs

/-! ### Homes (R17, R217, R218) -/

/-- The clusters over which the partition is spread. -/
def Partition.clusters (p : Partition) : List Nat :=
  if p.without.isEmpty then List.range 512 else (List.range 512).filter fun c => !p.without.contains c

/-- The cluster and place that the even spread gives to a set or pinned row: the model's own choice (R17). -/
def nativeHome (p : Partition) (x : Nat) : Nat × Nat :=
  if p.without.isEmpty then (x % 512, x / 512)
  else
    let cs := p.clusters
    (cs.getD (x % max 1 cs.length) 0, x / max 1 cs.length)

/-- A place as the remaps leave it. -/
def remapped (p : Partition) (h : Nat × Nat) : Nat × Nat :=
  match p.remaps.find? fun r => decide (r.src = h.1) && decide (r.lo ≤ h.2) && decide (h.2 < r.hi) with
  | some r => (r.dst, r.at' + (h.2 - r.lo))
  | none => h

/-- The home cluster of a set or pinned row, and its place there (R17, R218). -/
def homeOf (p : Partition) (x : Nat) : Nat × Nat :=
  match Tab.get? p.homes x with
  | some h => h
  | none => remapped p (nativeHome p x)

/-- Core of a line: whole banks hold one way (R218). -/
def lineCore (s : State) (p : Partition) (f set way : Nat) : Nat :=
  unitCore s f (homeOf p set).2 (seatsAt p.seats way (homeOf p set).1)

/-- Core of a pinned row (R217). -/
def pinnedCore (s : State) (p : Partition) (f index : Nat) : Nat := lineCore s p f index 0

/-- Sets of a cache, or pinned rows (R217, R218). -/
def Table.units (t : Table) : Nat := if tdMode t.desc = 0 then t.part.nsets else if tdMode t.desc = 1 then t.pinBelow else 0

/-- The ways whose lines a table seats: those of a cache, or the one of its pinned rows. -/
def waysOf (d : BitVec 1024) : List Nat := if tdMode d = 0 then List.range (tdWays d) else [0]

/-- The unit that a place of a cluster is the home of. -/
def unitAt (p : Partition) (n c j : Nat) : Option Nat :=
  let cs := p.clusters
  let native (c j : Nat) : Option Nat := (cs.findIdx? fun x => decide (x = c)).map fun i => j * max 1 cs.length + i
  let tries := (native c j).toList ++ (p.remaps.filterMap fun r =>
    if r.dst = c ∧ r.at' ≤ j ∧ j < r.at' + (r.hi - r.lo) then native r.src (r.lo + (j - r.at')) else none) ++
    (p.homes.filter fun e => decide (e.2 = (c, j))).map Prod.fst
  tries.find? fun x => decide (x < n) && decide (homeOf p x = (c, j))

/-! ### Banks in use -/

/-- A core lies in the seats of a partition. -/
def inSeats (p : Partition) (c core : Nat) : Bool :=
  p.seats.any fun x => decide (x.lo ≤ c) && decide (c < x.hi) && decide (x.base ≤ core) && decide (core < x.base + x.len)

/-- Banks that hold rows outside the seats of their tables: delta versions, copies that still have to move, and sources of moves that are
not yet free. Cluster, first core and count. -/
def strayBanks (s : State) : List (Nat × Nat × Nat) :=
  s.work.tbl.rows.flatMap fun e =>
    let n := match tbl? s (keyHandle e.1) with
      | some t => max 1 (spanOf s (footprint (shapeOf t.desc)))
      | none => 1
    let out (c core : Nat) : Bool := match tbl? s (keyHandle e.1) with
      | some t => !inSeats t.part c core
      | none => true
    ((e.2.deltas.filter fun d => decide (d.place.tier = 0)).map fun d => (d.place.addr / 2048, d.place.addr % 2048, n)) ++
      ((e.2.t0.toList.filter fun x => out x.cluster x.core).map fun x => (x.cluster, x.core, n)) ++
      (((e.2.move.bind RowMove.oldCore).toList.filter fun x => out (x / 2048) (x % 2048)).map fun x => (x / 2048, x % 2048, n))

/-- Runs of banks of a cluster that tables other than `h` use, by first core. -/
def usedRuns (s : State) (stray : List (Nat × Nat × Nat)) (h c : Nat) : List (Nat × Nat) :=
  sortBy Prod.fst (((s.work.tbl.tables.filter fun e => decide (e.1 ≠ h)).flatMap fun e =>
    (e.2.part.seats.filter fun x => decide (x.lo ≤ c) && decide (c < x.hi)).map fun x => (x.base, x.len)) ++
    (stray.filter fun x => decide (x.1 = c)).map Prod.snd)

/-- The free runs between used runs in ascending order, from `lo` up to `hi`. -/
def freeRuns (lo hi : Nat) : List (Nat × Nat) → List (Nat × Nat)
  | [] => if lo < hi then [(lo, hi - lo)] else []
  | (a, l) :: rest => (if lo < a then [(lo, a - lo)] else []) ++ freeRuns (max lo (a + l)) hi rest

/-- A handle that no table has (R64). -/
def noHandle : Nat := 0x10000

/-! ### Seats (R215, R217 to R219) -/

/-- Banks for `u` units from runs: what is taken, the units that find none, and the runs left. -/
def takeRuns (s : State) (f : Nat) : Nat → List (Nat × Nat) → List (Nat × Nat) × Nat × List (Nat × Nat)
  | u, [] => ([], u, [])
  | u, (b, l) :: rest =>
    if u = 0 then ([], 0, (b, l) :: rest)
    else
      let k := min u (bankUnits s f l)
      let n := unitBanks s f k
      let r := takeRuns s f (u - k) rest
      ((if n = 0 then [] else [(b, n)]) ++ r.1, r.2.1, (if n < l then [(b + n, l - n)] else []) ++ r.2.2)

/-- Seats for `u` units of each way in the clusters `a` to `b` − 1: first the way's own banks, then free ones. None where they do not fit. -/
def seatWays (s : State) (f : Nat) (old : List Seat) (a b u : Nat) : List Nat → List (Nat × Nat) → Option (List Seat)
  | [], _ => some []
  | w :: ws, free =>
    let own := takeRuns s f u ((seatsAt old w a).map fun x => (x.base, x.len))
    let more := takeRuns s f own.2.1 free
    if more.2.1 ≠ 0 then none
    else (seatWays s f old a b u ws more.2.2).map fun xs =>
      ((own.1 ++ more.1).map fun r => { way := w, lo := a, hi := b, base := r.1, len := r.2 }) ++ xs

/-- The most units of each way, up to `need`, that the clusters `a` to `b` − 1 can seat, with their seats. -/
def fitSeats (s : State) (f : Nat) (old : List Seat) (ways : List Nat) (free : List (Nat × Nat)) (a b need : Nat) : Nat × List Seat :=
  match seatWays s f old a b need ways free with
  | some xs => (need, xs)
  | none =>
    ((List.range (min 2049 (unitBanks s f need))).reverse.findSome? fun k =>
      (seatWays s f old a b (bankUnits s f k) ways free).map fun xs => (bankUnits s f k, xs)).getD (0, [])

/-- Units of a partition of `n` that the even spread gives to a cluster, by the clusters in service. -/
def evenShare (cs : List Nat) (n c : Nat) : Nat :=
  let k := max 1 cs.length
  match cs.findIdx? fun x => decide (x = c) with
  | some i => n / k + (if i < n % k then 1 else 0)
  | none => 0

/-- Stretches of clusters in which banks are used alike, for a partition of `n` units. -/
def stretches (s : State) (stray : List (Nat × Nat × Nat)) (cs : List Nat) (n : Nat) : List (Nat × Nat) :=
  let seats := s.work.tbl.tables.flatMap fun e => e.2.part.seats
  let cuts := [0, 512, cs.getD (n % max 1 cs.length) 512] ++ seats.map Seat.lo ++ seats.map Seat.hi ++ stray.map Prod.fst ++
    stray.map fun x => x.1 + 1
  let cuts := (sortBy id cuts.eraseDups).filter fun c => decide (c ≤ 512)
  cuts.zip (cuts.drop 1)

/-- Blocks of places that their clusters cannot hold find room in other clusters: in banks already seated, or in more banks. `share` is what
each cluster holds of its own. -/
def seatBlocks (s : State) (stray : List (Nat × Nat × Nat)) (h f : Nat) (ways : List Nat) (share : Nat → Nat) :
    Nat → List (Nat × Nat × Nat) → List Nat → List Seat → List Remap → Option (List Seat × List Remap)
  | 0, _, _, _, _ => none
  | _ + 1, [], _, seats, maps => some (seats, maps)
  | _ + 1, _ :: _, [], _, _ => none
  | fuel + 1, (c, lo, hi) :: rest, d :: ds, seats, maps =>
    let used := share d + sumNat ((maps.filter fun r => decide (r.dst = d)).map fun r => r.hi - r.lo)
    let room := seatUnits s f (seatsAt seats (ways.headD 0) d) - used
    let took := seats.filter fun x => decide (x.lo ≤ d) && decide (d < x.hi)
    let more := if room = 0 then
        fitSeats s f [] ways (freeRuns 0 2048 (sortBy Prod.fst (usedRuns s stray h d ++ took.map fun x => (x.base, x.len)))) d (d + 1) (hi - lo)
      else (0, [])
    let k := min (hi - lo) (room + more.1)
    if k = 0 then seatBlocks s stray h f ways share fuel ((c, lo, hi) :: rest) ds seats maps
    else
      let maps := maps ++ [{ src := c, lo := lo, hi := lo + k, dst := d, at' := used }]
      seatBlocks s stray h f ways share fuel (if lo + k = hi then rest else (c, lo + k, hi) :: rest) (d :: ds) (seats ++ more.2) maps

/-- Seats for `n` units of each way, spread evenly over the clusters in service, and unevenly where some of them have no room. None where
the Orchard has no room at all. `h` is the table's handle, whose own banks are free to it. -/
def makeSeats (s : State) (h f n : Nat) (ways : List Nat) (old : List Seat) : Option (List Seat × List Remap) :=
  let cs := serviceClusters s
  let stray := strayBanks s
  let own (a : Nat) := old.filter fun x => decide (x.lo ≤ a) && decide (a < x.hi)
  let parts := (stretches s stray cs n).filterMap fun ab =>
    match cs.find? fun c => decide (ab.1 ≤ c) && decide (c < ab.2) with
    | none => none
    | some c =>
      let used := sortBy Prod.fst (usedRuns s stray h ab.1 ++ (own ab.1).map fun x => (x.base, x.len))
      some (ab, evenShare cs n c, fitSeats s f old ways (freeRuns 0 2048 used) ab.1 ab.2 (evenShare cs n c))
  let seats := parts.flatMap fun p => p.2.2.2
  let short := parts.flatMap fun p =>
    if p.2.2.1 < p.2.1 then (cs.filter fun c => decide (p.1.1 ≤ c) && decide (c < p.1.2)).map fun c => (c, p.2.2.1, p.2.1) else []
  if cs.isEmpty ∧ 0 < n then none
  else if short.isEmpty then some (seats, [])
  else seatBlocks s stray h f ways (evenShare cs n) 8192 short cs seats []

/-- Lines of each way that the Orchard offers to a table, in whole banks for each way (R218, R219). -/
def offeredUnits (s : State) (h f ways : Nat) : Nat :=
  let cs := serviceClusters s
  let stray := strayBanks s
  sumNat ((stretches s stray cs 0).map fun ab =>
    let free := freeRuns 0 2048 (usedRuns s stray h ab.1)
    let u := if spanOf s f ≤ 1 then sumNat (free.map Prod.snd) / max 1 ways * slotsPerBank s f
      else sumNat (free.map fun r => r.2 / spanOf s f) / max 1 ways
    u * (cs.filter fun c => decide (ab.1 ≤ c) && decide (c < ab.2)).length)

/-- Clusters that are out of service. -/
def clustersOut (s : State) : List Nat := s.faults.retiredClusters

/-- A partition of `n` units for a table, where it fits. -/
def partOf (s : State) (h : Nat) (d : BitVec 1024) (n : Nat) (old : Partition) : Option Partition :=
  (makeSeats s h (footprint (shapeOf d)) n (waysOf d) old.seats).map fun p =>
    { old with seats := p.1, remaps := p.2, without := clustersOut s, homes := [] }

/-- Places of a partition of `n` units that no cluster in service holds: cluster and places. -/
def homelessBlocks (s : State) (p : Partition) (n : Nat) : List (Nat × Nat × Nat) :=
  let out := clustersOut s
  let kept := p.remaps.filter fun r => !out.contains r.dst
  let share := evenShare p.clusters n
  let native := (out.filter fun c => !p.without.contains c).flatMap fun c =>
    (freeRuns 0 (share c) (sortBy Prod.fst ((kept.filter fun r => decide (r.src = c)).map fun r => (r.lo, r.hi - r.lo)))).map fun r =>
      (c, r.1, r.1 + r.2)
  native ++ (p.remaps.filter fun r => out.contains r.dst && !out.contains r.src && decide (r.lo < min r.hi (share r.src))).map fun r =>
    (r.src, r.lo, min r.hi (share r.src))

/-- The partition with a home in service for every unit, where the clusters that are left have room: units that Drift has moved go back where
the even spread has them (R241). -/
def mendPart (s : State) (h : Nat) (t : Table) : Option Partition :=
  let p := t.part
  let out := clustersOut s
  let share (d : Nat) : Nat := evenShare p.clusters t.units d - sumNat ((p.remaps.filter fun r => decide (r.src = d)).map fun r => r.hi - r.lo)
  (seatBlocks s (strayBanks s) h (footprint (shapeOf t.desc)) (waysOf t.desc) share 8192 (homelessBlocks s p t.units) (serviceClusters s) p.seats
    (p.remaps.filter fun r => !out.contains r.dst)).map fun x => { p with seats := x.1, remaps := x.2, homes := [] }

/-- Some unit of the table has no home in service. -/
def homeless (s : State) (t : Table) : Bool :=
  !(homelessBlocks s t.part t.units).isEmpty || t.part.homes.any fun e => (clustersOut s).contains e.2.1

/-- The largest partition of 2^k sets or fewer that fits (R219). -/
def sizeSets (s : State) (h : Nat) (d : BitVec 1024) (old : Partition) : Nat → Partition
  | 0 => match partOf s h d 1 old with
    | some p => { p with nsets := 1 }
    | none => { old with nsets := 0, seats := [], remaps := [], homes := [] }
  | k + 1 => match partOf s h d (2 ^ (k + 1)) old with
    | some p => { p with nsets := 2 ^ (k + 1) }
    | none => sizeSets s h d old k

/-- The set of a key (R218). -/
def setOf (nsets key : Nat) : Nat := mix64 key % max 1 nsets

/-- Free places of a cluster for `n` units of a table: those of its seats that no unit has, then those of more banks (R234). -/
def placesIn (s : State) (h : Nat) (t : Table) (c n : Nat) : Option (Partition × List Nat) :=
  let f := footprint (shapeOf t.desc)
  let ways := waysOf t.desc
  let cap := seatUnits s f (seatsAt t.part.seats (ways.headD 0) c)
  let free := ((List.range cap).filter fun j => (unitAt t.part t.units c j).isNone).take n
  if free.length = n then some (t.part, free)
  else
    let want := n - free.length
    let took := t.part.seats.filter fun x => decide (x.lo ≤ c) && decide (c < x.hi)
    let used := sortBy Prod.fst (usedRuns s (strayBanks s) h c ++ took.map fun x => (x.base, x.len))
    let more := fitSeats s f [] ways (freeRuns 0 2048 used) c (c + 1) want
    if more.1 < want then none
    else some ({ t.part with seats := t.part.seats ++ more.2 }, free ++ (List.range want).map fun i => cap + i)

/-- The cluster in service at or after a number: the model's own choice. -/
def clusterFor (s : State) (x : Nat) : Nat :=
  let cs := serviceClusters s
  (((List.range 512).map fun i => (x + i) % 512).find? fun c => cs.contains c).getD 0

/-- T0 copies and delta versions that a core's bank holds, or is to hold. -/
def coreLoad (s : State) (core : Nat) : Nat :=
  sumNat (s.work.tbl.rows.map fun e =>
    (e.2.t0.toList.filter fun x => decide (x.cluster * 2048 + x.core = core)).length +
      (e.2.deltas.filter fun d => decide (d.place.tier = 0) && decide (d.place.addr = core)).length +
      (match e.2.move with
       | some m => (match m.dest with
         | .cluster c k _ => if !m.switched && decide (c * 2048 + k = core) then 1 else 0
         | _ => 0) + (if m.oldCore = some core then 1 else 0)
       | none => 0))

/-- The bank of a core has a slot for one more line. -/
def coreRoom (s : State) (f core : Nat) : Bool := decide (coreLoad s core < max 1 (slotsPerBank s f))

/-! ### The dirty shadow (R228 to R230, R241) -/

/-- Bytes of one shadow entry (R228). -/
def shadowEntry (n : Nat) : Nat := roundup16 n + 16

/-- The shadow space of a cluster: 768 B in each of 2,048 banks (R228). -/
def shadowSpace : Nat := 1572864

/-- Bytes that the shadow regions of a cluster hold (R228, R230). -/
def shadowUsed (s : State) (c : Nat) : Nat :=
  sumNat (s.work.tbl.rows.map fun e =>
    (match e.2.t0 with
     | some t => if t.shadow = some c then shadowEntry t.bytes.length else 0
     | none => 0) +
      sumNat ((e.2.deltas.filter fun d => decide (d.shadow = some c)).map fun d => shadowEntry ((d.data.map List.length).getD 16)))

/-- The cluster that shadows `n` bytes homed in `c`: its mirror, or a substitute of the opposite half, one with room where there is one
(R228, R241). -/
def shadowHome (s : State) (c n : Nat) : Option Nat :=
  let cs := serviceClusters s
  if cs.contains (mirror c) then some (mirror c)
  else
    let far := cs.filter fun d => decide (halfOf d ≠ halfOf c)
    match far.find? fun d => decide (shadowUsed s d + shadowEntry n ≤ shadowSpace) with
    | some d => some d
    | none => far.head?

/-- The shadow has room for a dirty copy of `n` bytes homed in `c`, `own` bytes of entries already its own (R228). -/
def shadowRoom (s : State) (c n own : Nat) : Bool :=
  !s.sys.cfg.orchardProtect ||
    (match shadowHome s c n with
     | some m => decide (shadowUsed s m - own + shadowEntry n ≤ shadowSpace)
     | none => true)

/-- The shadow cluster of a dirty copy of `n` bytes homed in `c`, with update protection on (R228, R231). -/
def shadowOf (s : State) (c n : Nat) : Option Nat := if s.sys.cfg.orchardProtect then shadowHome s c n else none

/-- Clusters that hold shadow entries. -/
def shadowClusters (s : State) : List Nat :=
  (s.work.tbl.rows.flatMap fun e => (e.2.t0.bind T0Copy.shadow).toList ++ e.2.deltas.filterMap Delta.shadow).eraseDups

/-- Cleaning begins where a shadow lies above half full, and ends where it lies below a quarter (R229). -/
def cleanMarks (s : State) : State :=
  let high (m : Nat) : Bool := decide (shadowSpace < 2 * shadowUsed s m)
  let still (m : Nat) : Bool := s.work.tbl.cleaning.contains m && decide (shadowSpace ≤ 4 * shadowUsed s m)
  updTables (fun w => { w with cleaning := (shadowClusters s).filter fun m => high m || still m }) s

/-! ### Delta versions in T0 (R87, R230) -/

/-- A core whose bank takes a delta version of a table: one that holds some already, or a free one, in a cluster that is awake and whose
shadow has room (R87, R215, R230). -/
def deltaCore (s : State) (h : Nat) (t : Table) (n : Nat) : Option Nat :=
  let f := footprint (shapeOf t.desc)
  let span := max 1 (spanOf s f)
  let fits (c : Nat) : Bool := clusterAwake s c && shadowRoom s c n 0
  let mine := ((tableRows s h).flatMap fun e => (e.2.deltas.filter fun d => decide (d.place.tier = 0)).map fun d => d.place.addr).eraseDups
  match mine.find? fun core => fits (core / 2048) && coreRoom s f core && decide (span = 1) with
  | some core => some core
  | none =>
    let stray := strayBanks s
    (serviceClusters s).findSome? fun c =>
      if fits c then
        ((freeRuns 0 2048 (usedRuns s stray noHandle c)).find? fun r => decide (span ≤ r.2)).map fun r => c * 2048 + r.1 + r.2 - span
      else none

end Sys2Proof.Machine
end

