-- ==== Sys2Proof/Machine/Cold.lean ====
section
/-! DEFINITION. The tiers' pools (R211 to R213), cold pages and their stored blocks (R72, R242 to R248), and requests to the host agent
(R250, R251). -/

namespace Sys2Proof.Machine

/-! ### Pools (R212) -/

/-- The T4 attachment. -/
def t4Of (s : State) : T4 := s.work.tbl.t4

/-- The attachment is changed. -/
def updT4 (f : T4 → T4) (s : State) : State := updTables (fun w => { w with t4 := f w.t4 }) s

/-- T4 is being emptied (R250). -/
def detaching (s : State) : Bool := s.work.tbl.pending.any fun x => decide (x.kind = .detach)

/-- Ports and their usable bytes, as windows of the T1 pool (R212, R455). -/
def stackWindows (s : State) : List (Nat × Nat) :=
  ((populatedPorts s.sys.cfg.stackCount).filter fun p => !(stackPort s p).lost).map fun p =>
    (p * 2 ^ 36, stackUsable (stackPort s p))

/-- Windows of the T2 pool. -/
def expanderWindows (s : State) : List (Nat × Nat) :=
  (List.range 4).map fun e => (2 ^ 40 + e * 2 ^ 40, (Tab.getD s.links.expanders e {}).capacity)

/-- Windows of the T3 pool: ranges that have joined it and are not leaving (R212, R329). -/
def hostWindows (s : State) : List (Nat × Nat) :=
  (s.ranges.filter fun e => e.2.tierPool && !e.2.unmapping).map fun e => (e.1, e.2.len)

/-- The window of T4 pages, as page addresses: T4 has capacity only while an attachment stands (R250). -/
def flashWindow (s : State) : List (Nat × Nat) :=
  if (t4Of s).attached && !detaching s then [(0, 4096 * (t4Of s).capacity)] else []

/-- The windows of a tier. -/
def windowsOf (s : State) (tier : Nat) : List (Nat × Nat) :=
  match tier with
  | 1 => stackWindows s
  | 2 => expanderWindows s
  | 3 => hostWindows s
  | _ => flashWindow s

/-- Pages that MIGRATABLE ranges hold on the device (R346). -/
def migratedPages (s : State) : List (Nat × Nat) :=
  s.ranges.flatMap fun e => e.2.devicePages.map fun p => (p.2, 4096)

/-- The slice of a stack (R455): first address and length. -/
def sliceOf (s : State) (p : Nat) : Nat × Nat :=
  let x := stackPort s p
  (p * 2 ^ 36 + (x.capacity - x.capacity / 32), x.capacity / 32)

/-- Areas of a tier that rows leave and nothing enters: what RANGE_MAP commands have taken, and slices of channels that retire (R212,
R455). -/
def doomed (s : State) (tier : Nat) : List (Nat × Nat) :=
  (s.work.tbl.pending.filterMap fun x => match x.kind with
    | .map base g => if (tier = 1 ∧ g.kind = .stack) ∨ (tier = 2 ∧ g.kind = .expander) then some (base, g.len) else none
    | _ => none) ++ (if tier = 1 then s.faults.retiring.map fun e => sliceOf s (e / 32) else [])

/-- Delta versions of a table's rows with the bytes that each takes in a tier below T0. -/
def deltaPlaces (s : State) (h : Nat) (e : Nat × Row) : List (Place × Nat) :=
  match tbl? s h with
  | none => []
  | some t => (e.2.deltas.filter fun d => decide (d.place.tier ≠ 0)).map fun d => (d.place, d.placed (dataBytes (shapeOf t.desc)))

/-- The address space of a HOST range: 0 without PASID, PASID + 1 with it. -/
def Range.space (g : Range) : Nat := if g.pasidValid then g.pasid + 1 else 0

/-- Two areas meet. -/
def meets (a n b m : Nat) : Bool := decide (a < b + m) && decide (b < a + n)

/-- Areas of a tier that are in use, by first address. A row whose move has chosen a destination, or whose source is not yet
free, counts at both. -/
def usedIn (s : State) (tier : Nat) : List (Nat × Nat) :=
  let rows := if tier = 1 then s.work.tbl.rows.flatMap fun e =>
      ((e.2.places.filter fun p => decide (p.tier = 1)).map fun p => (p.addr, placedOf s e.1)) ++
        ((deltaPlaces s (keyHandle e.1) e).filter fun p => decide (p.1.tier = 1)).map fun p => (p.1.addr, p.2) else []
  let pages := (s.work.tbl.cold.filter fun e => decide (e.2.tier = tier)).map fun e => (e.2.base, 4096)
  let mapped (e : Nat × Range) : Bool := decide (tier = 1 ∧ e.2.kind = .stack) || decide (tier = 2 ∧ e.2.kind = .expander)
  let ranges := (s.ranges.filter mapped).map fun e => (e.1, e.2.len)
  let shut := doomed s tier
  let inside (a : Nat × Nat) : Bool := shut.any fun b => decide (b.1 ≤ a.1) && decide (a.1 + a.2 ≤ b.1 + b.2)
  let flash := if tier = 4 then
      (s.ranges.filter fun e => decide (e.2.kind = .flash)).map fun e => (e.2.hostStart, e.2.len) else []
  sortBy Prod.fst (((rows ++ pages ++ (if tier ≤ 2 then migratedPages s else [])).filter fun a => !inside a) ++ shut ++ ranges ++ flash)

/-- Placement metadata in the T1 pool (R213). -/
def metadataBytes (s : State) : Nat :=
  let written := s.work.tbl.rows.filter fun e => e.2.written
  8 * written.length + 16 * (written.map fun e => shardOf e.1).eraseDups.length

/-- Placement metadata that a row's first commit adds: its location word, and the record of a shard that had no written row (R213). -/
def metaNeed (s : State) (key : Nat) : Nat :=
  if (rowOf s key).written then 0 else 8 + (if shardWritten s key then 0 else 16)

/-- Bytes of a tier's windows. -/
def poolBytes (s : State) (tier : Nat) : Nat := sumNat ((windowsOf s tier).map Prod.snd)

/-- Bytes of a tier's windows in use: areas, and in T1 metadata. -/
def poolUsed (s : State) (tier : Nat) : Nat :=
  sumNat ((usedIn s tier).map Prod.snd) + (if tier = 1 then metadataBytes s else 0)

/-- The pool has room for `n` more bytes. -/
def poolRoom (s : State) (tier n : Nat) : Bool := decide (poolUsed s tier + n ≤ poolBytes s tier)

/-- An area of at most 4 KiB moved on so that it does not cross a 4 KiB boundary (R72). -/
def noCross (a n : Nat) : Nat :=
  let a := roundUp a 32
  if n ≤ 4096 ∧ a / 4096 ≠ (a + n - 1) / 4096 then roundUp a 4096 else a

/-- The first free address of an area of `n` bytes in a window, aligned to `al` or kept inside a 4 KiB block. -/
def fitIn (n al lo hi : Nat) : List (Nat × Nat) → Option Nat
  | [] =>
    let a := if al = 32 then noCross lo n else roundUp lo al
    if a + n ≤ hi then some a else none
  | (u, l) :: rest =>
    let a := if al = 32 then noCross lo n else roundUp lo al
    if a + n ≤ u then (if a + n ≤ hi then some a else none)
    else fitIn n al (max lo (u + l)) hi rest

/-- The first free area of a tier's pool. -/
def fitTier (s : State) (tier n al : Nat) : Option Nat :=
  let used := usedIn s tier
  (windowsOf s tier).findSome? fun w =>
    fitIn n al w.1 (w.1 + w.2) (used.filter fun u => decide (w.1 ≤ u.1) && decide (u.1 < w.1 + w.2))

/-! ### Cold pages: where rows lie in them (R72, R242) -/

/-- The first byte of a place in its table's cold space. -/
def Place.cold (p : Place) : Nat := p.page.getD 0 * 4096 + p.addr % 4096

/-- The cold pages that `n` bytes of a place lie in. -/
def Place.pages (p : Place) (n : Nat) : List Nat :=
  match p.page with
  | none => []
  | some k => (List.range ((p.addr % 4096 + max 1 n - 1) / 4096 + 1)).map fun i => k + i

/-- Cold page `k` of a table. -/
def coldPage (s : State) (h k : Nat) : Option ColdPage := Tab.get? s.work.tbl.cold (mkKey h k)

/-- A cold page is changed. -/
def updCold (h k : Nat) (f : ColdPage → ColdPage) (s : State) : State :=
  updTables (fun w => { w with cold := Tab.upd w.cold (mkKey h k) f }) s

/-- The stretches of device addresses that `n` bytes of a place take: first address and length. -/
def pieces (s : State) (h : Nat) (p : Place) (n : Nat) : List (Nat × Nat) :=
  match p.page with
  | none => [(p.addr, n)]
  | some _ => (p.pages n).map fun k =>
      let lo := max p.cold (4096 * k)
      let hi := min (p.cold + n) (4096 * (k + 1))
      (((coldPage s h k).map ColdPage.base).getD 0 + (lo - 4096 * k), hi - lo)

/-- The tier can be reached at an address: T2 needs the expander's link, T3 the host, and T4 an attachment too (R253, R400). -/
def addrUp (s : State) (tier addr : Nat) : Bool :=
  match tier with
  | 2 => (Tab.getD s.links.expanders ((addr - 2 ^ 40) / 2 ^ 40) {}).up
  | 3 => hostUp s
  | 4 => hostUp s && (t4Of s).attached
  | _ => true

/-- A place of `n` bytes can be reached (R253). -/
def placeUp (s : State) (h : Nat) (p : Place) (n : Nat) : Bool := (pieces s h p n).all fun x => addrUp s p.tier x.1

/-- A row's backing location can be reached (R253). -/
def rowUp (s : State) (key : Nat) : Bool := placeUp s (keyHandle key) (rowOf s key).place (placedOf s key)

/-- Areas of a table's cold space in use, rows and delta versions, by first byte. -/
def coldAreas (s : State) (h : Nat) : List (Nat × Nat) :=
  let n := placedOf s (mkKey h 0)
  sortBy Prod.fst ((tableRows s h).flatMap fun e =>
    ((e.2.places.filter fun p => p.page.isSome).map fun p => (p.cold, n)) ++
      ((deltaPlaces s h e).filter fun p => p.1.page.isSome).map fun p => (p.1.cold, p.2))

/-- A cold page takes rows of a tier: it lies in the tier's pool, and not where rows leave. -/
def pageOpen (s : State) (tier : Nat) (pg : ColdPage) : Bool :=
  decide (pg.tier = tier) && !pg.shut && ((windowsOf s tier).any fun w => decide (w.1 ≤ pg.base) && decide (pg.base < w.1 + w.2)) &&
    (doomed s tier).all fun a => !meets pg.base 4096 a.1 a.2

/-- The areas that meet a page. -/
def pageAreas (areas : List (Nat × Nat)) (k : Nat) : List (Nat × Nat) := areas.filter fun a => meets a.1 a.2 (4096 * k) 4096

/-- The cold page number next to use. -/
def nextPage (s : State) (h : Nat) : Nat :=
  match (s.work.tbl.cold.filter fun e => decide (keyHandle e.1 = h)).getLast? with
  | some e => keyIndex e.1 + 1
  | none => 0

/-- Where `n` bytes can start in or from page `k`: inside the page, or, for more than a page, after its last area (R72). -/
def startIn (s : State) (h tier n : Nat) (areas : List (Nat × Nat)) (k : Nat) : Option Nat :=
  let here := pageAreas areas k
  if n ≤ 4096 then fitIn n 32 (4096 * k) (4096 * (k + 1)) here
  else
    let off := roundUp (max (4096 * k) (maxNat (here.map fun a => a.1 + a.2))) 32
    let more := (List.range ((off + n - 1) / 4096 - k)).map fun i => k + 1 + i
    let free := more.all fun j => match coldPage s h j with
      | some pg => pageOpen s tier pg
      | none => true
    if off < 4096 * (k + 1) ∧ free = true ∧ areas.all (fun a => !meets a.1 a.2 off n) = true then some off else none

/-- The pages among those given that the table does not have yet are taken from the tier's pool; none where it has no room. -/
def takePages (h tier : Nat) : List Nat → State → Option State
  | [], s => some s
  | k :: ks, s =>
    if (coldPage s h k).isSome then takePages h tier ks s
    else if !poolRoom s tier 4096 then none
    else match fitTier s tier 4096 4096 with
      | none => none
      | some a => takePages h tier ks (updTables (fun w => { w with cold := Tab.put w.cold (mkKey h k) { tier := tier, base := a } }) s)

/-- A place of `n` bytes for a table in T2 to T4, in pages that it has or in new ones (R72, R242). -/
def placeCold (s : State) (h tier n : Nat) : Option (Place × State) :=
  let areas := coldAreas s h
  let mine := (s.work.tbl.cold.filter fun e => decide (keyHandle e.1 = h) && pageOpen s tier e.2).map fun e => keyIndex e.1
  let at' (off : Nat) : Option (Place × State) :=
    let ks := (List.range ((off + n - 1) / 4096 - off / 4096 + 1)).map fun i => off / 4096 + i
    (takePages h tier ks s).map fun s =>
      ({ tier := tier, addr := ((coldPage s h (off / 4096)).map ColdPage.base).getD 0 + off % 4096, page := some (off / 4096) }, s)
  match mine.findSome? fun k => (startIn s h tier n areas k).bind at' with
  | some r => some r
  | none => at' (4096 * nextPage s h)

/-- A place of `n` bytes, a multiple of 32, for a table in a tier from T1 to T4 (R72). -/
def placeBytes (s : State) (h tier n : Nat) : Option (Place × State) :=
  if tier = 1 then
    if poolRoom s 1 n then (fitTier s 1 n 32).map fun a => ({ tier := 1, addr := a }, s) else none
  else placeCold s h tier n

/-- A place for a row in a tier, where the pools have room for it and for its metadata (R211, R213). -/
def placeIn (s : State) (key tier : Nat) : Option (Place × State) :=
  let n := placedOf s key
  if poolRoom s 1 (metaNeed s key + (if tier = 1 then n else 0)) then placeBytes s (keyHandle key) tier n else none

/-- The first of the tiers given whose limit and pool have room for the row (R211, R214). -/
def choosePlace (s : State) (key : Nat) (t : Table) (tiers : List Nat) : Option (Place × State) :=
  tiers.findSome? fun k =>
    if belowLimit (tierRows s (keyHandle key) k) (tdLimit t.desc k) then placeIn s key k else none

/-! ### Stored blocks (R242 to R244, R248) -/

/-- What lies in a table's cold space: first byte, and bytes. -/
def coldContents (s : State) (h : Nat) : List (Nat × List Byte) :=
  (tableRows s h).flatMap fun e =>
    (if e.2.place.page.isSome then [(e.2.place.cold, e.2.backing)] else []) ++
      (e.2.deltas.filter fun d => d.place.page.isSome).map fun d => (d.place.cold, d.data.getD (zeroBytes 16))

/-- The raw bytes of a cold page, as its rows and delta versions lie in it. -/
def pageBytes (s : State) (h k : Nat) : List Byte :=
  (coldContents s h).foldl (fun bs e =>
    let lo := max e.1 (4096 * k)
    let hi := min (e.1 + e.2.length) (4096 * (k + 1))
    if lo < hi then overwrite bs (lo - 4096 * k) (sliceBytes e.2 (lo - e.1) (hi - lo)) else bs) (zeroBytes 4096)

/-- A page as it would be stored now, before encryption: coded with the ACTIVE slot where the coded block is short enough, else raw
(R242). -/
def codePage (s : State) (t : Table) (raw : List Byte) : Option (Nat × Nat) × List Byte :=
  if !tdCompress t.desc then (none, raw)
  else match activeSlot (ctxD s t.ctx) with
    | none => (none, raw)
    | some (k, sl) => match codeBlock sl.image raw k t.ctx sl.loadId with
      | some bs => (some (k, sl.loadId), bs)
      | none => (none, raw)

/-- The tweak of a page: page number, table handle and CTX_ID (R248). -/
def pageTweak (h k ctx : Nat) : Nat := packFields [(0, 48, k), (48, 16, h), (64, 8, ctx)]

/-- A cold page is stored: coded or raw, and encrypted under the key in use (R242, R248). -/
def storePage (h k : Nat) (s : State) : State :=
  match coldPage s h k, tbl? s h with
  | some pg, some t =>
    let raw := pageBytes s h k
    let c := codePage s t raw
    let key := if tdEncrypt t.desc then (ctxD s t.ctx).key else none
    let block := match key with
      | some x => xtsEncrypt x (pageTweak h k t.ctx) c.2
      | none => c.2
    let crc := if tdCompress t.desc && c.1.isNone then some (crc32c raw) else none
    let s := updCold h k (fun pg => { pg with
      coded := c.1, crc := crc, len := c.2.length, encrypted := key.isSome, oldKey := false, shut := false, block := if pg.tier = 3 then [] else block }) s
    if pg.tier = 3 then devWrite pg.base block s else s
  | _, _ => s

/-- The pages of a place are stored. -/
def storePlace (h : Nat) (p : Place) (n : Nat) (s : State) : State := (p.pages n).foldl (fun s k => storePage h k s) s

/-- The pages of a row's backing location are stored. -/
def storeRowPages (key : Nat) (s : State) : State := storePlace (keyHandle key) (rowOf s key).place (placedOf s key) s

/-- The raw bytes that a stored block of a cold page holds; none where it does not decode, or where the CRC of a raw block differs (R242,
R244). -/
def openBlock (s : State) (h k : Nat) (pg : ColdPage) (block : List Byte) : Option (List Byte) :=
  let ctx := tdCtxOf s h
  let c := ctxD s ctx
  let plain := match (if pg.encrypted then (if pg.oldKey then c.oldKey else c.key) else none) with
    | some x => xtsDecrypt x (pageTweak h k ctx) block
    | none => block
  match pg.coded with
  | some (slot, id) => match Tab.get? c.codeSlots slot with
    | some sl => if sl.loadId = id then decodeBlock sl.image id plain else none
    | none => none
  | none => match pg.crc with
    | some x => if crc32c plain = x then some plain else none
    | none => some plain

/-- The raw bytes of a page in T2 or T3, read where it is stored. -/
def loadPage (s : State) (h k : Nat) : Option (List Byte) :=
  match coldPage s h k with
  | none => none
  | some pg => openBlock s h k pg (if pg.tier = 3 then devRead s pg.base pg.len else pg.block)

/-- The bytes of pages in order, or the first that does not decode. -/
def loadPages (s : State) (h : Nat) : List Nat → Except Nat (List Byte)
  | [] => .ok []
  | k :: ks => match loadPage s h k with
    | none => .error k
    | some bs => match loadPages s h ks with
      | .ok rest => .ok (bs ++ rest)
      | .error e => .error e

/-- `n` bytes of a place in T2 or T3, read and decoded, or the page that does not decode (R242, R244). -/
def coldRead (s : State) (h : Nat) (p : Place) (n : Nat) : Except Nat (List Byte) :=
  match loadPages s h (p.pages n) with
  | .ok bs => .ok (sliceBytes bs (p.addr % 4096) n)
  | .error k => .error k

/-- The backing location of a row takes bytes. -/
def setBacking (key : Nat) (bytes : List Byte) (s : State) : State :=
  storeRowPages key (updRow key (fun r => { r with backing := bytes }) s)

/-! ### Requests to the host agent (R250, R251) -/

/-- The 32 bytes of a request entry (R251). -/
def t4Entry (op buffer seq page sectors : Nat) : List Byte :=
  toBytes 32 (packFields [(0, 8, op), (16, 16, buffer), (32, 32, seq), (64, 48, page), (112, 5, sectors)])

/-- The cold page that lies in a T4 page, by its key. -/
def pageInT4 (s : State) (page : Nat) : Option (Nat × ColdPage) :=
  s.work.tbl.cold.find? fun e => decide (e.2.tier = 4) && decide (e.2.base = 4096 * page)

/-- Stored bytes of a T4 page (R251). -/
def t4Length (s : State) (page : Nat) : Nat := ((pageInT4 s page).map fun e => e.2.len).getD 4096

/-- Bounce buffers that outstanding READ and WRITE requests name. -/
def t4Buffers (t : T4) : List Nat :=
  t.outstanding.filterMap fun e => match e.2.1 with
    | .free _ => none
    | _ => some e.2.2.1

/-- The ring, and for a READ or WRITE the bounce area, has room for one more request. -/
def t4Room (t : T4) (op : Nat) : Bool :=
  decide (t.outstanding.length < 2 ^ t.ringLog2) && (decide (op = 3) || decide ((t4Buffers t).length < t.buffers))

/-- One request is written to the ring at its SEQ, and the agent's vector is sent (R250, R251). -/
def t4Put (who : T4Who) (op page : Nat) (data : List Byte) (s : State) : State :=
  let t := t4Of s
  let b := if op = 3 then 0 else (firstFree t.buffers (t4Buffers t)).getD 0
  let seq := t.nextSeq.toNat
  let sectors := (if op = 2 then data.length else t4Length s page) / 256
  let s := if op = 2 then devWrite (t.bounce + 4096 * b) data s else s
  let s := devWrite (t.reqAddr + 32 * (seq % 2 ^ t.ringLog2)) (t4Entry op b seq page sectors) s
  sendVector t.vector (updT4 (fun t => { t with
    nextSeq := t.nextSeq + 1, outstanding := Tab.put t.outstanding seq (who, b, page, data) }) s)

/-- One request goes out, or waits for room behind those before it. None where the agent cannot be reached. -/
def t4Send (who : T4Who) (op page : Nat) (data : List Byte) (s : State) : Option State :=
  let t := t4Of s
  if !t.attached || !hostUp s then none
  else if t.waiting.isEmpty && t4Room t op then some (t4Put who op page data s)
  else some (updT4 (fun t => { t with waiting := t.waiting ++ [(who, op, page, data)] }) s)

/-- Requests for several pages, each with its data. None where the agent cannot be reached. -/
def t4SendAll (who : T4Who) (op : Nat) : List (Nat × List Byte) → State → Option State
  | [], s => some s
  | (page, data) :: rest, s =>
    match t4Send who op page data s with
    | some s => t4SendAll who op rest s
    | none => none

/-- Requests that waited for room go out, at most `fuel`. -/
def t4Pump : Nat → State → State
  | 0, s => s
  | fuel + 1, s => match (t4Of s).waiting with
    | [] => s
    | (who, op, page, data) :: rest =>
      if t4Room (t4Of s) op && hostUp s then t4Pump fuel (t4Put who op page data (updT4 (fun t => { t with waiting := rest }) s)) else s

/-- Some request for `who` is outstanding. -/
def t4Waiting (s : State) (who : T4Who) : Bool :=
  ((t4Of s).outstanding.any fun e => decide (e.2.1 = who)) || (t4Of s).waiting.any fun e => decide (e.1 = who)

/-- Requests of a requester are given up: what has not gone out does not go out, and the data of what has is not taken. -/
def t4Drop (who : T4Who) (s : State) : State :=
  updT4 (fun t => { t with
    outstanding := t.outstanding.map fun e => if e.2.1 = who then (e.1, .stale, e.2.2) else e
    waiting := t.waiting.filter fun e => decide (e.1 ≠ who)
    arrived := t.arrived.filter fun e => decide (e.1 ≠ who) }) s

/-- The row, cold page or load that a requester stands for. -/
def T4Who.key : T4Who → Option Nat
  | .read _ k => some k
  | .move k => some k
  | .clean k => some k
  | .fill k => some k
  | .deltas k => some k
  | .page k => some k
  | _ => none

/-- What has come for `who`: pages with their raw bytes. -/
def t4Got (s : State) (who : T4Who) : List (Nat × List Byte) := ((t4Of s).arrived.filter fun e => decide (e.1 = who)).map Prod.snd

/-- Requests for the keys that satisfy a test are given up. -/
def t4Forget (p : Nat → Bool) (s : State) : State :=
  let old (w : T4Who) : Bool := w.key.any p
  updT4 (fun t => { t with
    outstanding := t.outstanding.map fun e => if old e.2.1 then (e.1, .stale, e.2.2) else e
    waiting := t.waiting.filter fun e => !old e.1
    arrived := t.arrived.filter fun e => !old e.1 }) s

/-- The requester has taken what came for it. -/
def t4Clear (who : T4Who) (s : State) : State :=
  updT4 (fun t => { t with arrived := t.arrived.filter fun e => decide (e.1 ≠ who) }) s

/-- The T4 pages of a place, with the table's page numbers. -/
def t4PagesOf (s : State) (h : Nat) (p : Place) (n : Nat) : List (Nat × Nat) :=
  (p.pages n).filterMap fun k => (coldPage s h k).map fun pg => (k, pg.base / 4096)

/-- Every page of a place has come for `who`. -/
def t4Here (s : State) (who : T4Who) (h : Nat) (p : Place) (n : Nat) : Bool :=
  (t4PagesOf s h p n).all fun k => (t4Got s who).any fun e => decide (e.1 = k.2)

/-- The bytes of a place that have come for `who`. -/
def t4Bytes (s : State) (who : T4Who) (h : Nat) (p : Place) (n : Nat) : List Byte :=
  let raw := (t4PagesOf s h p n).flatMap fun k => (((t4Got s who).find? fun e => decide (e.1 = k.2)).map Prod.snd).getD (zeroBytes 4096)
  sliceBytes raw (p.addr % 4096) n

/-- READs for the pages of a place, where none is outstanding for `who` (R251). The state is unchanged where the agent cannot be
reached. -/
def t4Ask (who : T4Who) (h : Nat) (p : Place) (n : Nat) (s : State) : State :=
  if t4Waiting s who then s else (t4SendAll who 1 ((t4PagesOf s h p n).map fun k => (k.2, [])) s).getD s

/-- What the bytes of a place come to when the device reads them. -/
inductive Fetched where
  | got (bytes : List Byte)
  /-- READs have gone to the host agent. -/
  | wait (s : State)
  /-- The tier cannot be reached (R253). -/
  | away
  /-- A page does not decode (R244). -/
  | broken (page : Nat)
  deriving DecidableEq, Repr

/-- The bytes of a place in T1 to T4, as the device reads them for `who`; `now` is what the state says lies there in T1 (R242, R244, R251). -/
def fetch (s : State) (who : T4Who) (h : Nat) (p : Place) (now : List Byte) : Fetched :=
  if !placeUp s h p now.length then .away
  else if p.tier ≤ 1 then .got now
  else if p.tier = 4 then
    if t4Here s who h p now.length then .got (t4Bytes s who h p now.length) else .wait (t4Ask who h p now.length s)
  else match coldRead s h p now.length with
    | .ok bs => .got bs
    | .error k => .broken k

/-- The T4 pages of a table whose stored block is another in `s'` than in `s`, with that block: the WRITEs that the change takes. -/
def t4Writes (s s' : State) (h : Nat) : List (Nat × List Byte) :=
  (s'.work.tbl.cold.filter fun e => decide (keyHandle e.1 = h) && decide (e.2.tier = 4)).filterMap fun e =>
    match Tab.get? s.work.tbl.cold e.1 with
    | some pg => if pg.tier = 4 ∧ pg.base = e.2.base ∧ pg.block = e.2.block then none else some (e.2.base / 4096, e.2.block)
    | none => some (e.2.base / 4096, e.2.block)

/-- The WRITEs have been completed for `who`. -/
def t4Wrote (s : State) (who : T4Who) (ws : List (Nat × List Byte)) : Bool := ws.all fun w => (t4Got s who).contains w

/-- Cold pages that no row or delta version uses are freed; the agent is asked to free those of T4 (R251). -/
def freePages (h : Nat) (s : State) : State :=
  let areas := coldAreas s h
  let keep (e : Nat × ColdPage) : Bool := decide (keyHandle e.1 ≠ h) || !(pageAreas areas (keyIndex e.1)).isEmpty
  let gone := s.work.tbl.cold.filter fun e => !keep e && decide (e.2.tier = 4)
  let s := gone.foldl (fun s e => (t4Send (.free (e.2.base / 4096)) 3 (e.2.base / 4096) [] s).getD s) s
  updTables (fun w => { w with cold := w.cold.filter keep }) s

end Sys2Proof.Machine
end

