-- ==== Sys2Proof/Machine/Rows.lean ====
section
/-! DEFINITION. Generations and delta versions (R74 to R87), T0 copies (R216 to R231), and the commit of a row. -/

namespace Sys2Proof.Machine

/-! ### Generations and delta versions (R86, R87) -/

/-- The effective stamp of a row. -/
def stampOf (t : Table) (r : Row) : Nat := max r.stamp t.baseStamp

/-- Some generation from `lo` to `hi` is PUBLISHED or RELEASED. -/
def genIn (t : Table) (lo hi : Nat) : Bool := t.gens.any fun e => decide (lo ≤ e.1) && decide (e.1 ≤ hi)

/-- The delta version that a commit to the row must copy first (R86). -/
def deltaFor (t : Table) (r : Row) : Option Delta :=
  let e := stampOf t r
  if e ≤ t.highest ∧ genIn t e t.highest then
    some { lo := e, hi := t.highest
           data := if r.written then some (r.bytes.take (dataBytes (shapeOf t.desc))) else none, fenced := r.fenced, lostAt := r.lostAt
           fencedBy := r.fencedBy }
  else none

/-- A place for a delta version, within DELTA_LIMIT: in the first of the tiers that the table's limits permit, T0 first, that has room
(R87, R230). -/
def placeDelta (s : State) (h : Nat) (t : Table) (d : Delta) : Option (Delta × State) :=
  let P := dataBytes (shapeOf t.desc)
  let n := deltaSize P d
  let lim := tdDeltaLimit t.desc
  let inT0 := if tdMode t.desc ≠ 2 ∧ tdLimit t.desc 0 ≠ 0 then deltaCore s h t n else none
  if lim ≠ 0xFFFFFFFF ∧ 4096 * lim < deltaBytes s h + n then none
  else match inT0 with
    | some core => some ({ d with place := { tier := 0, addr := core }, shadow := shadowOf s (core / 2048) n, since := s.clock }, s)
    | none => (tiersOf s t).findSome? fun k =>
        if tdLimit t.desc k = 0 then none
        else (placeBytes s h k (d.placed P)).map fun p => ({ d with place := p.1 }, p.2)

/-- DELTA_POOL_HIGH where the pool has reached 90 % of its limit, once per crossing (R87). -/
def deltaHighCheck (h : Nat) (s : State) : State :=
  match tbl? s h with
  | none => s
  | some t =>
    let lim := tdDeltaLimit t.desc
    let used := deltaBytes s h
    let high := decide (lim ≠ 0xFFFFFFFF) && decide (4096 * lim * 9 ≤ used * 10) && decide (0 < used)
    if high && !t.deltaHigh then
      event .deltaPoolHigh (packFields [(0, 16, h), (16, 8, t.ctx), (32, 32, (used + 4095) / 4096)])
        (updTbl h (fun t => { t with deltaHigh := true }) s)
    else if !high && t.deltaHigh then updTbl h (fun t => { t with deltaHigh := false }) s
    else s

/-- What a reader bound to generation `gen`, or to the working generation, reads of a row: its data part, none where it was
never written (R86). The flag says that what it reads is fenced (R448). -/
def readVersion (t : Table) (r : Row) (gen : Option Nat) : Option (List Byte) × Bool :=
  let P := dataBytes (shapeOf t.desc)
  let work := (if r.written then some (r.bytes.take P) else none, r.fenced)
  match gen with
  | none => work
  | some g =>
    if stampOf t r ≤ g then work
    else match r.deltas.find? fun d => decide (d.lo ≤ g) && decide (g ≤ d.hi) with
      | some d => (d.data, d.fenced)
      | none => (none, false)

/-- The reader sees the row's working version (R86). -/
def seesWorking (s : State) (key : Nat) (gen : Option Nat) : Bool :=
  match gen, tbl? s (keyHandle key) with
  | some g, some t => decide (stampOf t (rowOf s key) ≤ g)
  | _, _ => true

/-- The delta version that a reader bound to generation `g` sees. -/
def deltaSeen (r : Row) (g : Nat) : Option Delta := r.deltas.find? fun d => decide (d.lo ≤ g) && decide (g ≤ d.hi)

/-- The cluster whose bank holds what the reader reads, where that lies in T0 (R136, R230). -/
def homeBank (s : State) (key : Nat) (gen : Option Nat) : Option Nat :=
  let r := rowOf s key
  if seesWorking s key gen then r.t0.map T0Copy.cluster
  else (gen.bind (deltaSeen r)).bind fun d => if d.place.tier = 0 ∧ d.data.isSome then some (d.place.addr / 2048) else none

/-- The place in T1 to T4 from which the reader reads, and what the state says lies there (R210, R238). None where it reads T0, or nothing was written. -/
def readPlace (s : State) (key : Nat) (gen : Option Nat) : Option (Place × List Byte) :=
  let r := rowOf s key
  if seesWorking s key gen then
    if r.written && r.t0.isNone && decide (r.chain = 0) then some (r.place, r.backing) else none
  else match gen.bind (deltaSeen r) with
    | some d => match d.data with
      | some bs => if d.place.tier = 0 then none else some (d.place, bs)
      | none => none
    | none => none

/-- The versions that no PUBLISHED or RELEASED generation sees are freed (R86). -/
def pruneDeltas (h : Nat) (s : State) : State :=
  match tbl? s h with
  | none => s
  | some t =>
    let s := (tableRows s h).foldl (fun s e =>
      if e.2.deltas.all fun d => genIn t d.lo d.hi then s
      else updRow e.1 (fun r => { r with deltas := r.deltas.filter fun d => genIn t d.lo d.hi }) s) s
    deltaHighCheck h (freePages h s)

/-- Delta versions of a row whose places satisfy a test go to the first of the tiers given that has room (R87, R238). None where some
finds none. -/
def sendDeltas (key : Nat) (go : Place → Bool) (tiers : List Nat) (s : State) : Option State :=
  match tbl? s (keyHandle key) with
  | none => some s
  | some t =>
    let P := dataBytes (shapeOf t.desc)
    (List.range (rowOf s key).deltas.length).foldl (fun (acc : Option State) i =>
      acc.bind fun s => match (rowOf s key).deltas[i]? with
        | none => some s
        | some d =>
          if !go d.place then some s
          else (tiers.findSome? fun k =>
              if tdLimit t.desc k = 0 then none else placeBytes s (keyHandle key) k (d.placed P)).map fun p =>
            let s := updRow key (fun r => { r with deltas := r.deltas.set i { d with place := p.1, shadow := none } }) p.2
            storePlace (keyHandle key) p.1 (d.placed P) s) (some s)

/-- The delta versions of a row that lie in T0 are written to lower tiers (R229, R230). None where no tier has room. -/
def spillDeltas (key : Nat) (s : State) : Option State :=
  match tbl? s (keyHandle key) with
  | none => some s
  | some t => sendDeltas key (fun p => decide (p.tier = 0)) (tiersOf s t) s

/-- A change of the state that stores pages of a table for a requester: made where nothing goes to T4 or its WRITEs have been completed;
otherwise the WRITEs are asked for. The flag tells that it was made (R251). -/
def throughT4 (who : T4Who) (h : Nat) (s s' : State) : Bool × State :=
  let ws := t4Writes s s' h
  if ws.isEmpty || t4Wrote s who ws then (true, t4Clear who s')
  else (false, if t4Waiting s who then s else (t4SendAll who 2 ws s).getD s)

/-! ### T0 copies -/

/-- The counters of R255. -/
inductive PartCtr where
  | hits | misses | fills | streamingFills | seqBypasses | evictions | writebacks | offersAccepted | offersDeclined
  deriving DecidableEq, Repr

/-- The place of a counter in R255. -/
def PartCtr.index : PartCtr → Nat
  | .hits => 0 | .misses => 1 | .fills => 2 | .streamingFills => 3 | .seqBypasses => 4 | .evictions => 5
  | .writebacks => 6 | .offersAccepted => 7 | .offersDeclined => 8

/-- A partition counter rises by 1 (R255). -/
def partCount (h : Nat) (c : PartCtr) (s : State) : State :=
  updTbl h (fun t =>
    let v := Tab.getD t.part.counters c.index 0
    { t with part := { t.part with
        counters := Tab.put t.part.counters c.index (satAdd 64 v 1)
        overflow := if satOvf 64 v 1 then Tab.put t.part.overflow c.index true else t.part.overflow } }) s

/-- A row's copy is written back: its backing location takes the bytes and the copy becomes clean (R225). -/
def cleanRow (key : Nat) (s : State) : State :=
  storeRowPages key (updRow key (fun r => match r.t0 with
    | some c => { r with backing := c.bytes, t0 := some { c with dirty := false, shadow := none } }
    | none => r) s)

/-- A row's dirty copy is cleaned, and counted, where its backing location can be reached. One backed in T4 is clean when the host agent has
written its page, and the WRITE goes out first (R225, R228, R251). The flag tells that the copy is clean. -/
def cleanCopy (key : Nat) (s : State) : Bool × State :=
  if !rowUp s key then (false, s)
  else match throughT4 (.clean key) (keyHandle key) s (cleanRow key s) with
    | (true, s) => (true, partCount (keyHandle key) .writebacks s)
    | r => r

/-- A row's copy is dropped. -/
def dropCopy (key : Nat) (s : State) : State := updRow key (fun r => { r with t0 := none }) s

/-- T1 accepts a line that leaves T0 (R223). -/
def offerPlace (s : State) (key : Nat) : Option (Place × State) :=
  match tbl? s (keyHandle key) with
  | some t =>
    if 8 ≤ loadOf s key ∧ belowLimit (tierRows s (keyHandle key) 1) (tdLimit t.desc 1) then placeIn s key 1
    else none
  | none => none

/-- The row leaves T0 with its move (R223). -/
def Row.leaving (r : Row) : Bool := r.move.any fun m => m.leave && !m.switched

/-- A line leaves T0 (R223): it is dropped, written back and dropped, or, accepted by T1, moves there and leaves with the switch. The flag
tells that it has left. -/
def evictRow (key : Nat) (s : State) : Bool × State :=
  let h := keyHandle key
  let r := rowOf s key
  let away (s : State) : Bool × State :=
    match r.t0 with
    | some c => if c.dirty then match cleanCopy key s with
        | (true, s) => (true, dropCopy key s)
        | x => x
      else (true, dropCopy key s)
    | none => (true, s)
  if r.t0.isNone then (true, s)
  else if r.leaving then (false, s)
  else if r.place.tier = 1 then away s
  else if r.moving then (false, s)
  else match (if r.move.isSome then none else offerPlace s key) with
    | some (p, s) =>
      (false, partCount h .offersAccepted (updRow key (fun r => { r with move := some { dest := .place p, leave := true } }) s))
    | none => match away s with
      | (true, s) => (true, partCount h .offersDeclined s)
      | x => x

/-- The lines of a set: key and copy. -/
def linesOf (s : State) (h set : Nat) : List (Nat × T0Copy) :=
  (tableRows s h).filterMap fun e => match e.2.t0 with
    | some c => (match c.line with
      | some (x, _) => if x = set then some (e.1, c) else none
      | none => none)
    | none => none

/-- The way of a copy. -/
def T0Copy.way (c : T0Copy) : Nat := match c.line with
  | some (_, w) => w
  | none => 0

/-- The ways of a set that lines hold, or are to move to. -/
def takenWays (s : State) (h set : Nat) : List Nat :=
  (((linesOf s h set).map fun l => l.2.way) ++ (tableRows s h).filterMap fun e => match e.2.move with
    | some { dest := .cluster _ _ (some (x, w)), switched := false, .. } => if x = set then some w else none
    | _ => none).eraseDups

/-- The ages of a set's lines rise until some powered way has age 3 (R220). -/
def ageRounds (ls : List (Nat × T0Copy)) : Nat := 3 - min 3 (maxNat (ls.map fun l => l.2.age))

/-- A line's age rises, up to 3 (R220). -/
def ageRow (n : Nat) (key : Nat) (s : State) : State :=
  updRow key (fun r => { r with t0 := r.t0.map fun c => { c with age := min 3 (c.age + n) } }) s

/-- What asking a set for a line comes to (R220). -/
inductive WayRes where
  /-- A powered way is invalid. -/
  | opened (s : State)
  /-- The victim is leaving, and the way will be free. -/
  | later (s : State)
  /-- The set takes no line. -/
  | shut
  deriving DecidableEq, Repr

/-- The victim of a set leaves for a new line (R220, R223). -/
def takeWay (h set waysOn : Nat) (s : State) : WayRes :=
  let ls := (linesOf s h set).filter fun l => decide (l.2.way < waysOn)
  if ((takenWays s h set).filter fun w => decide (w < waysOn)).length < waysOn then .opened s
  else if ls.any fun l => (rowOf s l.1).leaving || t4Waiting s (.clean l.1) then .later s
  else
    let n := ageRounds ls
    let s := (linesOf s h set).foldl (fun s l => ageRow n l.1 s) s
    let olds := (ls.filter fun l => decide (3 ≤ l.2.age + n)).map fun l => (l.2.way, l.1)
    match (sortBy Prod.fst olds).head? with
    | none => .shut
    | some (_, key) =>
      match evictRow key s with
      | (true, s) => .opened (partCount h .evictions s)
      | (false, s') =>
        if (rowOf s' key).leaving then .later (partCount h .evictions s')
        else if (rowOf s key).moving || rowUp s key then .later s' else .shut

/-- A line of the cache partition for a row is made ready (R218, R220): none where the partition has no line to give. `commit` wakes a pair in
L1 or L2; a set of a pair in L3 takes no line (R480). -/
def openWay (key : Nat) (commit : Bool) (s : State) : WayRes :=
  let h := keyHandle key
  match tbl? s h with
  | none => .shut
  | some t =>
    let set := setOf t.part.nsets key
    let cl := (homeOf t.part set).1
    let lull := (lullOf s (cl % 256)).state
    let full := decide (((takenWays s h set).filter fun w => decide (w < t.part.waysOn)).length < t.part.waysOn) &&
      !belowLimit (t0Rows s h) (tdLimit t.desc 0)
    if t.part.nsets = 0 ∨ t.part.waysOn = 0 ∨ s.faults.retiredClusters.contains cl = true ∨ lull = 3 ∨ (lull ≠ 0 ∧ commit = false) ∨
        full = true then .shut
    else takeWay h set t.part.waysOn s

/-- The cluster's pair leaves its Lull state to take a copy. -/
def wakeFor (cl : Nat) (s : State) : State := { s with power := { s.power with lull := Tab.del s.power.lull (cl % 256) } }

/-- A copy enters the first invalid way of its set (R218, R220, R221). The state is unchanged where there is none, or where the bank still
holds what is to leave it. -/
def fillLine (key age : Nat) (bytes : List Byte) (dirty : Bool) (s : State) : State :=
  let h := keyHandle key
  match tbl? s h with
  | none => s
  | some t =>
    let f := footprint (shapeOf t.desc)
    let set := setOf t.part.nsets key
    let cl := (homeOf t.part set).1
    let used := takenWays s h set
    match (List.range t.part.waysOn).find? fun w =>
        !used.contains w && coreRoom s f (cl * 2048 + lineCore s t.part f set w) with
    | none => s
    | some w =>
      let copy : T0Copy :=
        { cluster := cl, core := lineCore s t.part f set w, line := some (set, w), bytes := bytes, dirty := dirty, pinned := false
          age := age, shadow := if dirty then shadowOf s cl bytes.length else none, since := s.clock }
      let s := updRow key (fun r => { r with t0 := some copy }) (wakeFor cl s)
      partCount h .fills (whenS (decide (age = 3)) (partCount h .streamingFills) s)

/-- The age with which a fill enters (R221). -/
def fillAge (load : Nat) : Nat := if load < 4 then 3 else 1

/-- The detector of R222 is active. -/
def Partition.bypassing (p : Partition) : Bool := decide (1024 ≤ p.run)

/-- A commit miss updates the sequential-store detector (R222). -/
def Partition.missed (p : Partition) (index : Nat) : Partition :=
  let near := match p.lastMiss with
    | some l => decide (l < index) && decide (index ≤ l + 16)
    | none => false
  { p with lastMiss := some index, run := if near then min 4095 (p.run + 1) else 0 }

/-- The commit of a program to a row without a T0 copy allocates a line (R221, R222). -/
def allocates (t : Table) (index : Nat) : Bool :=
  decide (tdMode t.desc = 0) && decide (t.part.nsets ≠ 0) && !(t.part.missed index).bypassing

/-! ### The commit of a row -/

/-- What a commit comes to. -/
inductive CommitRes where
  | done (s : State)
  /-- No tier has room (R73). -/
  | tableFull
  /-- The delta pool has no room (R87). -/
  | deltaFull
  /-- The dirty shadow has no room (R178, R229). -/
  | shadowFull
  /-- The line that the commit takes is still leaving (R220, R223). -/
  | lineWait (s : State)

/-- The row with its new stamp, the delta version that the commit copies and its move's RECOPY bit (R86, R237). -/
def stampRow (t : Table) (d : Option Delta) (r : Row) : Row :=
  { r with
    stamp := t.highest + 1
    deltas := r.deltas ++ d.toList
    fenced := false
    move := r.move.map fun m => if m.switched then m else { m with recopy := true, copied := false } }

/-- The T0 copy of a row takes new bytes and becomes dirty (R220, R228). -/
def writeCopy (bytes : List Byte) (s : State) (c : T0Copy) : T0Copy :=
  { c with bytes := bytes, dirty := true, age := 0, since := s.clock
           shadow := if c.shadow.isSome then c.shadow else shadowOf s c.cluster bytes.length }

/-- The T0 copy of a pinned row (R217). -/
def pinnedCopy (s : State) (t : Table) (key : Nat) (bytes : List Byte) (dirty : Bool) : T0Copy :=
  let cl := (homeOf t.part (keyIndex key)).1
  { cluster := cl, core := pinnedCore s t.part (footprint (shapeOf t.desc)) (keyIndex key), line := none
    bytes := bytes, dirty := dirty, pinned := true, age := 0
    shadow := if dirty then shadowOf s cl bytes.length else none, since := s.clock }

/-- A pinned row takes its T0 copy (R217). -/
def pinRow (t : Table) (key : Nat) (bytes : List Byte) (dirty : Bool) (s : State) : State :=
  let copy := pinnedCopy s t key bytes dirty
  updRow key (fun r => { r with t0 := some copy }) (wakeFor copy.cluster s)

/-- READs of the row's backing location that are under way bring what a commit has made old. -/
def staleReads (key : Nat) (s : State) : State :=
  let old (w : T4Who) : Bool := match w with
    | .read _ k => decide (k = key)
    | .fill k => decide (k = key)
    | _ => false
  updT4 (fun t => { t with
    outstanding := t.outstanding.map fun e => if old e.2.1 then (e.1, .stale, e.2.2) else e
    waiting := t.waiting.filter fun e => !old e.1
    arrived := t.arrived.filter fun e => !old e.1 }) s

/-- The new bytes of a row that has a backing location are written by a program: to its T0 copy, to a new copy, or to the backing
location (R210, R217, R221, R222). -/
def writeRow (key : Nat) (bytes : List Byte) (s : State) : State :=
  let h := keyHandle key
  match tbl? s h with
  | none => s
  | some t =>
    match (rowOf s key).t0 with
    | some c =>
      let s := updRow key (fun r => { r with t0 := some (writeCopy bytes s c) }) (t4Drop (.clean key) s)
      whenS (decide (tdMode t.desc = 0)) (partCount h .hits) s
    | none =>
      let s := staleReads key s
      if isPinned t (keyIndex key) then pinRow t key bytes true s
      else if tdMode t.desc = 0 then
        let s := partCount h .misses (updTbl h (fun t => { t with part := t.part.missed (keyIndex key) }) s)
        if allocates t (keyIndex key) then
          let s' := fillLine key (fillAge (loadOf s key)) bytes true s
          if (rowOf s' key).t0.isSome then s' else setBacking key bytes s
        else whenS (decide (t.part.nsets ≠ 0)) (partCount h .seqBypasses) (setBacking key bytes s)
      else setBacking key bytes s

/-- The new bytes of a row are written by a load: to the backing location, and to the T0 copy in place, which is then clean. A load
allocates no line; a pinned row takes its copy (R217, R221). -/
def writeLoaded (key : Nat) (bytes : List Byte) (s : State) : State :=
  let h := keyHandle key
  let s := setBacking key bytes (staleReads key (t4Drop (.clean key) s))
  match tbl? s h with
  | none => s
  | some t =>
    match (rowOf s key).t0 with
    | some c =>
      let s := updRow key (fun r => { r with t0 := some { c with bytes := bytes, dirty := false, age := 0, shadow := none } }) s
      whenS (decide (tdMode t.desc = 0)) (partCount h .hits) s
    | none =>
      if isPinned t (keyIndex key) then pinRow t key bytes false s
      else whenS (decide (tdMode t.desc = 0)) (partCount h .misses) s

/-- The shadow has room for the copy that the commit of a program would dirty (R178, R228). -/
def shadowNeed (s : State) (key : Nat) (t : Table) (bytes : List Byte) : Bool :=
  match (rowOf s key).t0 with
  | some c => shadowRoom s c.cluster bytes.length (if c.shadow.isSome then shadowEntry c.bytes.length else 0)
  | none =>
    if isPinned t (keyIndex key) then shadowRoom s (homeOf t.part (keyIndex key)).1 bytes.length 0
    else if allocates t (keyIndex key) then shadowRoom s (homeOf t.part (setOf t.part.nsets key)).1 bytes.length 0
    else true

/-- The line that the commit of a program takes is ready, or will be, or none is taken (R220, R221). -/
def commitWay (s : State) (key : Nat) (t : Table) (program : Bool) : WayRes :=
  if program && (rowOf s key).t0.isNone && !isPinned t (keyIndex key) && allocates t (keyIndex key) then openWay key true s else .shut

/-- One commit of a row's footprint (R22, R73, R86, R210, R211): of a program, or of a load. -/
def commitRow (key : Nat) (bytes : List Byte) (program : Bool) (s : State) : CommitRes :=
  let h := keyHandle key
  match tbl? s h with
  | none => .tableFull
  | some t =>
    let go (s : State) : CommitRes :=
      let r := rowOf s key
      let made := match deltaFor t r with
        | none => some (none, s)
        | some d => (placeDelta s h t d).map fun p => (some p.1, p.2)
      match made with
      | none => .deltaFull
      | some (d, s) =>
        let s := updRow key (stampRow t d) s
        let s := match d with
          | some d => storePlace h d.place (d.placed (dataBytes (shapeOf t.desc))) s
          | none => s
        if program && !shadowNeed s key t bytes then .shadowFull
        else
          let finish (s : State) : State :=
            let s := if program then writeRow key bytes s else writeLoaded key bytes s
            cleanMarks (deltaHighCheck h (bumpLoad key s))
          if r.written then .done (finish s)
          else match choosePlace s key t (tiersOf s t) with
            | none => .tableFull
            | some (p, s) =>
              .done (finish (updRow key (fun r => { r with place := p, backing := zeroBytes (footprint (shapeOf t.desc)) }) s))
    match commitWay s key t program with
    | .later s => .lineWait s
    | .opened s => go s
    | .shut => go s

/-- A read of a row by a task: the shard's load counter rises with its first read of the row, and a read that takes the T0 copy renews the
line (R19, R220, R232). -/
def touchRow (key : Nat) (gen : Option Nat) (first : Bool) (s : State) : State :=
  let s := whenS first (bumpLoad key) s
  match tbl? s (keyHandle key), (if seesWorking s key gen then (rowOf s key).t0 else none) with
  | some t, some c =>
    let s := updRow key (fun r => { r with t0 := some { c with age := 0 } }) s
    whenS (decide (tdMode t.desc = 0)) (partCount (keyHandle key) .hits) s
  | some t, none => whenS (decide (tdMode t.desc = 0)) (partCount (keyHandle key) .misses) s
  | none, _ => s

/-- The reader count of a published generation: ACTIVE tasks bound to it here, and remote tasks bound by task-begin packets (R76,
R275). -/
def readers (s : State) (h g : Nat) : Nat :=
  (s.tasks.filter fun e => decide (e.2.state = .active) && e.2.bound.contains (h, some g)).length +
    (s.work.chain.remotes.filter fun e => e.2.bound.contains (h, g)).length

/-- Some ACTIVE task is bound to the working generation, or updates the table as a SCATTER (R92). -/
def workingBusy (s : State) (h : Nat) : Bool :=
  s.tasks.any (fun e => decide (e.2.state = .active) && e.2.bound.contains (h, none)) ||
    s.work.chain.remotes.any fun e => e.2.bound.contains (h, 0)

/-- Some ACTIVE SCATTER updates the table, or a commit that one started has not reached its commit point (R82, R180, R181). -/
def scatterBusy (s : State) (h : Nat) : Bool :=
  (s.tasks.any fun e => decide (e.2.state = .active) && decide (e.2.ttype = .scatter) && e.2.bound.contains (h, none)) ||
    s.work.upd.runs.any fun e => decide (keyHandle e.2.grad.key = h)

/-- A RELEASED generation with no readers retires (R75, R86, R88). -/
def retireGen (h g : Nat) (evt : Bool) (s : State) : State :=
  let s := updTbl h (fun t => { t with gens := Tab.del t.gens g }) s
  let s := pruneDeltas h s
  whenS evt (event .generationRetired (packFields [(0, 16, h), (16, 8, tdCtxOf s h), (64, 48, g)])) s

end Sys2Proof.Machine
end

