-- ==== Sys2Proof/Machine/Tasks.lean ====
section
/-! DEFINITION. Admission of tasks (R372, R373) and the holds that other commands place on it (R80, R82, R92, R208). -/

namespace Sys2Proof.Machine

/-- Tasks of a queue. -/
def queueTasks (s : State) (q : Nat) : List Task := (s.tasks.filter fun e => decide (e.2.queue = q)).map Prod.snd

/-- Tasks of the queue before SEQ (R11). -/
def earlierTasks (s : State) (q seq : Nat) : List Task := (queueTasks s q).filter fun t => seqBefore 32 t.seq seq

/-- Tasks of the queue that are ACTIVE. -/
def activeCount (s : State) (q : Nat) : Nat := ((queueTasks s q).filter fun t => decide (t.state = .active)).length

/-- The task's turn has come: it is QUEUED, no earlier task of its queue is, fewer than MAX_ACTIVE are ACTIVE, and no earlier
SEM_WAIT that has not been served, and no FENCE, is still ACTIVE (R373). -/
def admissible (s : State) (q seq : Nat) : Option Task :=
  match task? s q seq, Tab.get? s.queues q with
  | some t, some qu =>
    let before := earlierTasks s q seq
    if t.state = .queued ∧ before.all (fun x => decide (x.state ≠ .queued)) ∧ activeCount s q < qu.maxActive ∧
        before.all (fun x => !(decide (x.state = .active) &&
          ((decide (x.ttype = .semWait) && !x.effected) || decide (x.ttype = .fence)))) then some t
    else none
  | _, _ => none

/-- The task enters ACTIVE (R372, R374). -/
def startTask (q seq : Nat) (s : State) : State :=
  updTask q seq (fun t => { t with state := .active, admittedAt := s.clock }) s

/-- A field of a task-specific part (R369). -/
def partBits (t : Task) (lo len : Nat) : Nat := bitsOf (ofBytes t.part) lo len

/-- Reserved fields of a task-specific part read zero. -/
def partZero (t : Task) (fs : List (Nat × Nat)) : Bool := fs.all fun f => partBits t f.1 f.2 == 0

/-- An admission row: the task of the type whose turn has come goes through `f`, which admits it, fails it, or holds it. -/
def admission (type : TaskType) (q seq : Nat) (f : Task → State → State) : State → Host.Outcome State Fault Refusal :=
  live fun s =>
    if !tasksRun s then s
    else match admissible s q seq with
      | some t => if t.ttype = type then f t s else s
      | none => s

/-- A REPLACE load has been accepted for the table and has not ended (R80, R92). -/
def replacing (s : State) (h : Nat) : Bool := match tbl? s h with
  | some t => !t.replaces.isEmpty
  | none => false

/-- The working generation is LOADING: a REPLACE load has started (R75, R92). -/
def loading (s : State) (h : Nat) : Bool := match (tbl? s h).bind fun t => t.replaces.head? with
  | some r => r.started
  | none => false

/-- A publish that drains names the table (R82). -/
def publishHolds (s : State) (h : Nat) : Bool :=
  s.work.tbl.publishes.any fun p => !p.cutNow && p.asking.isEmpty && p.tables.contains h

/-- A program load waits for the slot (R208). -/
def slotHeld (s : State) (slot : Nat) : Bool := Tab.has s.work.upd.loading slot

/-- The first entry of a binding list that cannot be bound, with its status (R78). A NUMBERED entry with GENERATION 0, which no
generation has, is GENERATION_UNKNOWN (DESIGN CHOICE, log entry 73). -/
def bindFault (s : State) (ctx : Nat) (b : Binding) : Option Status :=
  match liveTbl s ctx b.handle with
  | none => some .noTable
  | some t =>
    match b.mode with
    | 1 => if t.gens.any fun g => !g.2.released then none else some .generationNone
    | 2 =>
      if t.highest < b.gen ∨ b.gen = 0 then some .generationUnknown
      else match Tab.get? t.gens b.gen with
        | some g => if g.released then some .generationRetired else none
        | none => some .generationRetired
    | _ => none

/-- What an entry binds to: a generation, or the working generation (R77). -/
def bindTo (s : State) (b : Binding) : Nat × Option Nat :=
  match b.mode with
  | 1 => (b.handle, match tbl? s b.handle with
    | some t => ((t.gens.filter fun g => !g.2.released).getLast?).map Prod.fst
    | none => none)
  | 2 => (b.handle, some b.gen)
  | _ => (b.handle, none)

/-- The first failing entry of a list. -/
def firstFault (s : State) (ctx : Nat) (bs : List Binding) : Option (Nat × Status) :=
  bs.findSome? fun b => (bindFault s ctx b).map fun st => (b.handle, st)

end Sys2Proof.Machine
end

