-- ==== Sys2Proof/Machine/StreamOps.lean ====
section
/-! DEFINITION. What streams, semaphores and translation share: semaphore values (R313, R314), the check of an access at memory
(R333), ports, tokens and counters (R307, R308, R326), translation copies and page faults (R336 to R343), and the fault that ends a task (R319). -/

namespace Sys2Proof.Machine

/-! ### Semaphores -/

/-- The value of a semaphore (R313). -/
def semVal (s : State) (ctx sem : Nat) : Nat := Tab.getD (ctxD s ctx).sems sem 0

/-- A semaphore takes a value. -/
def setSem (ctx sem v : Nat) (s : State) : State :=
  updCtx ctx (fun c => { c with sems := if v = 0 then Tab.del c.sems sem else Tab.put c.sems sem v }) s

/-- A signal of `n`; none where the value would pass 0x7FFFFFFF (R314). -/
def signalSem (ctx sem n : Nat) (s : State) : Option State :=
  if 0x7FFFFFFF < semVal s ctx sem + n then none else some (setSem ctx sem (semVal s ctx sem + n) s)

/-- A wait begins: the waiter joins the order (R314). -/
def joinSem (ctx : Nat) (w : SemWaiter) (s : State) : State := updCtx ctx (fun c => { c with waiters := c.waiters ++ [w] }) s

/-! ### Streams and transfers -/

/-- The stream of a COPY. -/
def stream? (s : State) (q n : Nat) : Option Stream := Tab.get? s.streams.streams (tid q n)

/-- The stream of a task is changed. -/
def updStream (q n : Nat) (f : Stream → Stream) (s : State) : State :=
  { s with streams := { s.streams with streams := Tab.upd s.streams.streams (tid q n) f } }

/-- The transfer. -/
def transfer? (s : State) (id : Nat) : Option Transfer := Tab.get? s.streams.transfers id

/-- A transfer is changed. -/
def updTransfer (id : Nat) (f : Transfer → Transfer) (s : State) : State :=
  { s with streams := { s.streams with transfers := Tab.upd s.streams.transfers id f } }

/-- A transfer is removed. -/
def dropTransfer (id : Nat) (s : State) : State :=
  { s with streams := { s.streams with transfers := Tab.del s.streams.transfers id } }

/-- A transfer is added, under the next number. -/
def addTransfer (t : Transfer) (s : State) : State :=
  { s with streams := { s.streams with
      transfers := Tab.put s.streams.transfers s.streams.nextTransfer t, nextTransfer := s.streams.nextTransfer + 1 } }

/-- No transfer of the task is in flight, and none of its row programs is on its way to its commit point (R183, R318, R375). -/
def taskQuiet (s : State) (q n : Nat) : Bool :=
  !(s.streams.transfers.any fun e => decide (e.2.queue = q) && decide (e.2.seq = n) && e.2.issued) &&
    !(s.work.upd.runs.any fun e => decide (e.2.queue = q) && decide (e.2.seq = n))

/-- The task has a final state, or is not kept any more. -/
def taskOver (s : State) (q n : Nat) : Bool := match task? s q n with
  | some t => t.state.final
  | none => true

/-- The parts of an area between its 512 B boundaries (R303). -/
def cutArea (a n : Nat) : List (Nat × Nat) :=
  if n = 0 then []
  else (List.range ((a + n - 1) / 512 - a / 512 + 1)).map fun i =>
    let lo := max a ((a / 512 + i) * 512)
    (lo, min (a + n) ((a / 512 + i + 1) * 512) - lo)

/-! ### Ports -/

/-- The port that serves an address: stack port 0 to 7, expander port at 8 on, the host port 12, a peer port at 16 on (R327, R343).
A chained device that cannot be reached has none. -/
def portOf (s : State) (a : Nat) : Option Nat :=
  match rangeAt s a 1 with
  | none => none
  | some (base, g) =>
    match g.kind with
    | .stack => some (a / 2 ^ 36)
    | .expander => some (8 + (a - 2 ^ 40) / 2 ^ 40)
    | .flash => some 12
    | .peer => (routePort s g.chainAddr).map fun p => 16 + p
    | .host =>
      match Tab.get? g.devicePages ((a - base) / 4096) with
      | some p => some (if p < 2 ^ 39 then p / 2 ^ 36 else 8 + (p - 2 ^ 40) / 2 ^ 40)
      | none => some 12

/-- The path class of a port (R308). -/
def pathOfPort (p : Nat) : Nat := if p < 8 then 0 else if p < 12 then 1 else if p = 12 then 2 else 3

/-! ### Tokens (R307, R308) -/

/-- RATE and BURST of a partition at a port. -/
def policyAt (s : State) (part p : Nat) : Nat × Nat := Tab.getD s.streams.policy (part * 4 + pathOfPort p) (0xFFFF, 1024)

/-- The token bucket of a partition at a port, in bytes. -/
def tokensAt (s : State) (part p : Nat) : Int :=
  let (rate, burst) := policyAt s part p
  let top : Int := (burst * 1024 : Nat)
  if rate = 0xFFFF then top else max (-top) (min top (Tab.getD s.streams.tokens (part * 32 + p) top))

/-- Bytes are taken from a bucket, which never falls below −BURST × 1,024. -/
def takeTokens (part n : Nat) (s : State) (p : Nat) : State :=
  let (rate, burst) := policyAt s part p
  if rate = 0xFFFF then s
  else
    let low : Int := -((burst * 1024 : Nat) : Int)
    { s with streams := { s.streams with tokens := Tab.put s.streams.tokens (part * 32 + p) (max low (tokensAt s part p - (n : Int))) } }

/-! ### Rows read for tasks -/

/-- The port of a place below T0. -/
def Place.port (p : Place) : Option Nat :=
  match p.tier with
  | 1 => some (p.addr / 2 ^ 36)
  | 2 => some (8 + (p.addr - 2 ^ 40) / 2 ^ 40)
  | 3 | 4 => some 12
  | _ => none

/-- A row that is read for a task comes as a stream of the task: cut at 512 B, each part counts at its port and draws the tokens of the
task's partition. Its engine waits with an empty buffer, so the parts are demand transfers (R297, R303, R304, R306, R307, R310). -/
def drawRead (task : Option (Nat × Nat)) (p : Place) (n : Nat) (s : State) : State :=
  match p.port with
  | none => s
  | some port =>
    let part := (task.bind fun e => task? s e.1 e.2).map Task.partition
    (cutArea p.addr n).foldl (fun (s : State) (c : Nat × Nat) =>
      let s := match part with
        | some x => takeTokens x c.2 s port
        | none => s
      let s := stackCount port .readBytes c.2 s
      if c.2 < 256 then stackCount port .breeze 1 s else s) s

/-! ### The check at memory -/

/-- The pieces of an area that lie in one 4 KiB page each. -/
def pagePieces (a n : Nat) : List (Nat × Nat) :=
  if n = 0 then []
  else (List.range ((a + n - 1) / 4096 - a / 4096 + 1)).map fun i =>
    let lo := max a ((a / 4096 + i) * 4096)
    (lo, min (a + n) ((a / 4096 + i + 1) * 4096) - lo)

/-- Why a context's access fails at memory, as FAULT_KIND of R342, with the address (R333). -/
def accessFault (s : State) (ctx : Nat) (right : Right) (a n : Nat) : Option (Nat × Nat) :=
  (pagePieces a n).findSome? fun p =>
    match rangeAt s p.1 p.2 with
    | none => some (3, p.1)
    | some (_, g) => if g.ctx ≠ ctx then some (5, p.1) else if g.grants right then none else some (4, p.1)

/-- The bit of a right in ACCESS (R342). -/
def Right.bit : Right → Nat
  | .r => 1 | .w => 2 | .a => 4

/-- The class-specific part of a TRANSLATION record (R342). `space` is 0 without PASID and PASID + 1 with it. -/
def transSpec (kind access space ctx waiters dev host seq stream chain tag : Nat) : Nat :=
  packFields [(0, 4, kind), (4, 3, access), (7, 1, if space = 0 then 0 else 1), (8, 8, ctx), (16, 16, min waiters 0xFFFF),
    (32, 20, space - 1), (64, 56, dev), (128, 64, host), (192, 32, seq), (224, 12, stream), (236, 4, chain), (240, 16, tag)]

/-- The address space and the host page of a device address, for HOST ranges; zero otherwise (R342). -/
def faultPage (s : State) (a : Nat) : Nat × Nat :=
  match rangeAt s a 1 with
  | some (base, g) => if g.kind = .host then (g.space, (g.hostStart + (a - base)) / 4096 * 4096) else (0, 0)
  | none => (0, 0)

/-- An unrecoverable fault (R319): its record, and the end of the task, ABORTED with STREAM_FAULT. A COPY names its entry (R302). -/
def streamFault (q n entry kind access addr chain : Nat) (s : State) : State :=
  match task? s q n with
  | none => s
  | some t =>
    if t.state.final then s
    else
      let sid := ((stream? s q n).map Stream.streamId).getD 0
      let s := updStream q n (fun x => { x with badEntry := entry }) s
      endTask q n .aborted .streamFault (detAddr addr) (faultRecord
        { cls := .translation, sev := .info, ctx := some t.ctx, task := some (q, n)
          spec := transSpec kind access (faultPage s addr).1 t.ctx 1 addr (faultPage s addr).2 n sid chain 0xFFFF } s)

/-- An unrecoverable fault of a transfer. -/
def transferFault (tr : Transfer) (kind access addr chain : Nat) (s : State) : State :=
  streamFault tr.queue tr.seq tr.entry kind access addr chain s

/-! ### Translation copies -/

/-- Some copy covers a host address with the permission (R336). -/
def hasCopy (s : State) (space ha : Nat) (write : Bool) : Bool :=
  s.ats.copies.any fun c => decide (c.pasid = space) && decide (c.hostAddr ≤ ha) && decide (ha < c.hostAddr + c.len) &&
    (if write then c.write else c.read)

/-- What an access to one page still needs: the page of a MIGRATABLE range on the device, or a translation copy. -/
structure PageNeed where
  migrate : Bool
  /-- Address space and host page, or DEV_BASE of the range and page in it. -/
  space : Nat
  page : Nat
  addr : Nat
  write : Bool
  pinned : Bool
  deriving DecidableEq, Repr

/-- What an access inside one page needs (R336, R343). -/
def pageNeed (s : State) (write : Bool) (a n : Nat) : Option PageNeed :=
  match rangeAt s a n with
  | none => none
  | some (base, g) =>
    let ha := g.hostStart + (a - base)
    if g.kind ≠ .host ∨ (Tab.get? g.devicePages ((a - base) / 4096)).isSome then none
    else if g.migratable then
      some { migrate := true, space := base, page := (a - base) / 4096, addr := a, write := write, pinned := false }
    else if hasCopy s g.space ha write then none
    else some { migrate := false, space := g.space, page := ha / 4096, addr := a, write := write, pinned := g.pinned }

/-- The first need of an area. -/
def areaNeed (s : State) (write : Bool) (a n : Nat) : Option PageNeed := (pagePieces a n).findSome? fun p => pageNeed s write p.1 p.2

/-- The first need of a transfer: its source, unless its bytes are forwarded to it, then its destination. -/
def transferNeed (s : State) (tr : Transfer) : Option PageNeed :=
  match tr.gate with
  | some w => areaNeed s w tr.src tr.len
  | none => (if tr.chain.isSome then none else areaNeed s false tr.src tr.len) <|> areaNeed s true tr.dst tr.len

/-- Uses of copies are noted, for the replacement of R336. -/
def useCopies (write : Bool) (a n : Nat) (s : State) : State :=
  (pagePieces a n).foldl (fun (s : State) (p : Nat × Nat) =>
    match rangeAt s p.1 p.2 with
    | none => s
    | some (base, g) =>
      let ha := g.hostStart + (p.1 - base)
      if g.kind ≠ .host then s
      else { s with ats := { s.ats with copies := s.ats.copies.map fun c =>
        if c.pasid = g.space ∧ c.hostAddr ≤ ha ∧ ha < c.hostAddr + c.len ∧ (if write then c.write else c.read) then
          { c with lastUse := s.clock } else c } }) s

/-- A translation request is sent, at most 1,024 outstanding, one for each page (R336). -/
def requestTranslation (space page : Nat) (s : State) : State :=
  if s.ats.requests.contains (space, page) ∨ 1024 ≤ s.ats.requests.length then s
  else send (.atsRequest space page) { s with ats := { s.ats with requests := s.ats.requests ++ [(space, page)] } }

/-! ### Page faults -/

/-- The entry of a page fault (R340, R343). -/
def faultEntry (s : State) (need : PageNeed) : Option (Nat × OutFault) :=
  s.ats.outFaults.find? fun e =>
    decide (e.2.migrate = need.migrate) && decide (e.2.space = need.space) && decide (e.2.hostPage = need.page)

/-- The transfer waits in an entry. -/
def inFault (s : State) (id : Nat) : Bool := s.ats.outFaults.any fun e => e.2.waiters.contains id

/-- An entry is changed. -/
def updFault (k : Nat) (f : OutFault → OutFault) (s : State) : State :=
  { s with ats := { s.ats with outFaults := Tab.upd s.ats.outFaults k f } }

/-- The host address of an entry's page. -/
def OutFault.hostAddr (s : State) (e : OutFault) : Nat :=
  if e.migrate then (match Tab.get? s.ranges e.space with
    | some g => g.hostStart + 4096 * e.hostPage
    | none => 0)
  else 4096 * e.hostPage

/-- The address space of an entry's page. -/
def OutFault.spaceOf (s : State) (e : OutFault) : Nat :=
  if e.migrate then (match Tab.get? s.ranges e.space with
    | some g => g.space
    | none => 0)
  else e.space

/-- The entry as R342 lays it out, with the waiters and access that it holds now. -/
def OutFault.spec (s : State) (k : Nat) (e : OutFault) : Nat :=
  transSpec (if e.migrate then 2 else 1) (b2n e.accR + 2 * b2n e.accW) (e.spaceOf s) e.ctx e.waiters.length e.devAddr (e.hostAddr s)
    e.firstTask.2 e.firstStream 0 k

/-- The page request of an entry whose record is written (R340). -/
def sendPageRequest (k : Nat) (s : State) : State :=
  match Tab.get? s.ats.outFaults k with
  | none => s
  | some e =>
    if e.migrate then s
    else updFault k (fun e => { e with requested := true }) (send (.pageRequest e.space e.hostPage e.accR e.accW) s)

/-- A stream transfer that faults joins the page's entry, or creates it with its record and page request; with 2,048 entries it
waits (R340, R343). -/
def joinFault (id : Nat) (need : PageNeed) (s : State) : State :=
  match transfer? s id, faultEntry s need with
  | none, _ => s
  | some _, some (k, _) =>
    updTransfer id (fun t => { t with stalled := true }) (updFault k (fun e => { e with
      waiters := e.waiters ++ [id], accR := e.accR || !need.write, accW := e.accW || need.write }) s)
  | some tr, none =>
    match firstFree 2048 (s.ats.outFaults.map Prod.fst), task? s tr.queue tr.seq with
    | some k, some t =>
      let e : OutFault :=
        { space := need.space, migrate := need.migrate, hostPage := need.page, devAddr := need.addr, accR := !need.write
          accW := need.write, waiters := [id], firstTask := (tr.queue, tr.seq)
          firstStream := ((stream? s tr.queue tr.seq).map Stream.streamId).getD 0, ctx := t.ctx, recorded := !fqFull s.fq
          requested := false, further := false }
      let s := updTransfer id (fun t => { t with stalled := true })
        { s with ats := { s.ats with outFaults := Tab.put s.ats.outFaults k e } }
      let s := faultRecord { cls := .translation, sev := .info, ctx := some t.ctx, task := some (tr.queue, tr.seq)
                             spec := e.spec s k, tag := some k } s
      whenS e.recorded (sendPageRequest k) s
    | _, _ => s

/-- The transfer's page faults (R339 to R341): an unrecoverable fault on a PINNED range or while page requests are disabled. -/
def pageFault (id : Nat) (need : PageNeed) (s : State) : State :=
  match transfer? s id with
  | none => s
  | some tr =>
    let acc := if need.write then 2 else 1
    if need.pinned then transferFault tr 6 acc need.addr 0 s
    else if !s.ats.priEnabled then transferFault tr 8 acc need.addr 0 s
    else joinFault id need s

/-- A transfer that needs a page stalls: on the host's move of a MIGRATABLE page, or on a translation request (R336, R343). With
1,024 requests outstanding it waits unstalled. -/
def stallOn (id : Nat) (need : PageNeed) (s : State) : State :=
  if need.migrate then joinFault id need s
  else
    let s := requestTranslation need.space need.page s
    if s.ats.requests.contains (need.space, need.page) then updTransfer id (fun t => { t with stalled := true }) s else s

/-- A transfer is released, and may issue again. -/
def releaseTransfer (id : Nat) (s : State) : State := updTransfer id (fun t => { t with stalled := false }) s

/-! ### Windows (R347 to R349) -/

/-- The range of a transfer's end in a chained device or in flash. -/
def endKind (s : State) (a : Nat) : RangeKind :=
  match rangeAt s a 1 with
  | some (_, g) => g.kind
  | none => .stack

/-- A WINDOW packet's sub-header (R348). -/
def windowHead (op memop status window offset len : Nat) : List Byte :=
  toBytes 16 (packFields [(0, 4, op), (4, 4, memop), (8, 4, status), (16, 12, window), (32, 48, offset), (80, 16, len - 1)])

/-- JOB of window traffic: one flow for each pair of devices (R349; log entry 16). -/
def windowJob : Nat := 4094

/-- A window request of a transfer goes out and awaits its answer (R347 to R349). -/
def sendWindow (id : Nat) (op memop a n : Nat) (data : List Byte) (s : State) : State :=
  match rangeAt s a n with
  | none => s
  | some (base, g) =>
    let s := peerSend 9 g.chainAddr windowJob g.ctx 0 true
      (windowHead op memop 0 g.windowId (g.hostStart + (a - base)) n ++ data) s
    updChain (fun c => { c with
      windowReqs := Tab.put c.windowReqs c.nextTag { transfer := id, dst := g.chainAddr }, nextTag := c.nextTag + 1 }) s

/-! ### Flash (R250, R330) -/

/-- T4 pages of a part of a FLASH range (R330). -/
def flashPages (s : State) (a n : Nat) : List Nat :=
  (pagePieces a n).filterMap fun p => (rangeAt s p.1 p.2).map fun e => (e.2.hostStart + (p.1 - e.1)) / 4096

/-- The page bytes of a FLASH write: each page as it is after the write. -/
def flashWrites (s : State) (a : Nat) (bs : List Byte) : List (Nat × List Byte) :=
  (pagePieces a bs.length).filterMap fun p => (rangeAt s p.1 p.2).map fun e =>
    ((e.2.hostStart + (p.1 - e.1)) / 4096,
      overwrite (devRead s (p.1 / 4096 * 4096) 4096) (p.1 % 4096) (sliceBytes bs (p.1 - a) p.2))

/-- The transfer of a device-built stream that the device raised for one part of an area. -/
def gateFor (s : State) (q n : Nat) (write : Bool) (p : Nat × Nat) : Option Transfer :=
  (s.streams.transfers.find? fun e => decide (e.2.queue = q) && decide (e.2.seq = n) && decide (e.2.gate = some write) &&
    !e.2.sentOut && decide (e.2.src = p.1) && decide (e.2.len = p.2)).map Prod.snd

/-- The transfers of a device-built stream for an area (R297, R303): none once all have completed; otherwise the state in which
those still missing wait to issue. -/
def streamArea (q n : Nat) (write : Bool) (a len : Nat) (s : State) : Option State :=
  let parts := cutArea a len
  let entry := ((stream? s q n).map Stream.nextEntry).getD 0
  let missing := parts.filter fun p => (gateFor s q n write p).isNone
  if missing.isEmpty then (if parts.all fun p => (gateFor s q n write p).any fun t => t.data.isSome then none else some s)
  else some (missing.foldl (fun (s : State) (p : Nat × Nat) => addTransfer
    { queue := q, seq := n, entry := entry, src := p.1, dst := p.1, len := p.2, gate := some write, since := s.clock } s) s)

/-! ### Writes and checks of device-built streams -/

/-- What the task's reads have brought is taken. -/
def takeGates (q n : Nat) (s : State) : State :=
  { s with streams := { s.streams with transfers := s.streams.transfers.filter fun e =>
      !(decide (e.2.queue = q) && decide (e.2.seq = n) && decide (e.2.gate = some false) && e.2.data.isSome) } }

/-- A task's write of an area (R379): to a chained device or to flash it goes out as requests, which the task awaits. -/
def storeOut (q n a : Nat) (bs : List Byte) (s : State) : State :=
  let sent (p : Nat × Nat) : Transfer :=
    { queue := q, seq := n, src := p.1, dst := p.1, len := p.2, gate := some true, issued := true, sentOut := true, since := s.clock }
  if endKind s a = .flash then
    taskWrite q n a bs ((t4SendAll (.transfer s.streams.nextTransfer) 2 (flashWrites s a bs) (addTransfer (sent (a, bs.length)) s)).getD s)
  else if endKind s a = .peer then
    (cutArea a bs.length).foldl (fun (s : State) (p : Nat × Nat) =>
      sendWindow s.streams.nextTransfer 3 0 p.1 p.2 (sliceBytes bs (p.1 - a) p.2) (addTransfer (sent p) s)) s
  else taskWrite q n a bs s

/-- An access of a device-built stream (a record area, a sample, bag bodies): none where it may go on, and otherwise the state in
which its task has failed or its transfers are awaited (R303, R319, R333, R336, R397). -/
def memGate (q n : Nat) (right : Right) (a len : Nat) (s : State) : Option State :=
  match task? s q n with
  | none => none
  | some t =>
    match accessFault s t.ctx right a len with
    | some (kind, addr) => some (streamFault q n (((stream? s q n).map Stream.nextEntry).getD 0) kind right.bit addr 0 s)
    | none =>
      if len = 0 then none
      else if (decide (endKind s a = .flash) || (pagePieces a len).any fun p => (locate s p.1).1) && !hostUp s then
        some (failTask q n .hostLost (detAddr a) s)
      else if endKind s a = .flash ∧ !(t4Of s).attached then some (failTask q n .tierUnavailable {} s)
      else streamArea q n (decide (right ≠ .r)) a len s

/-- Several accesses of one task, in order. Those after one that waits raise their transfers too; after a fault none does. -/
def memGates (q n : Nat) : List (Right × Nat × Nat) → State → Option State
  | [], _ => none
  | (right, a, len) :: rest, s =>
    match memGate q n right a len s with
    | some s => if taskOver s q n then some s else some ((memGates q n rest s).getD s)
    | none => memGates q n rest s

end Sys2Proof.Machine
end

