-- ==== Sys2Proof/Machine/Ats.lean ====
section
/-! DEFINITION. Translation requests and copies, page requests and invalidations at the host port (R336 to R341). -/

namespace Sys2Proof.Machine

/-- Two copies overlap in one address space. -/
def AtsCopy.meets (a b : AtsCopy) : Bool :=
  decide (a.pasid = b.pasid) && decide (a.hostAddr < b.hostAddr + b.len) && decide (b.hostAddr < a.hostAddr + a.len)

/-- The second copy goes on where the first ends, in both address spaces, with the same PASID and permission (R336). -/
def AtsCopy.before (a b : AtsCopy) : Bool :=
  decide (a.pasid = b.pasid) && decide (a.read = b.read) && decide (a.write = b.write) && decide (a.hostAddr + a.len = b.hostAddr) &&
    decide (a.translated + a.len = b.translated)

/-- The copy merged with the copies that end where it starts and start where it ends. -/
def mergeCopy (cs : List AtsCopy) (c : AtsCopy) : List AtsCopy :=
  let (cs, c) := match cs.find? fun x => x.before c with
    | some x => (cs.filter fun y => y ≠ x, { c with hostAddr := x.hostAddr, translated := x.translated, len := x.len + c.len })
    | none => (cs, c)
  let (cs, c) := match cs.find? fun x => c.before x with
    | some x => (cs.filter fun y => y ≠ x, { c with len := c.len + x.len })
    | none => (cs, c)
  cs ++ [c]

/-- The copies without the least recently used one where 32,768 are held (R336). -/
def evictCopy (cs : List AtsCopy) : List AtsCopy :=
  if cs.length < 32768 then cs
  else match cs.find? fun c => cs.all fun d => decide (c.lastUse ≤ d.lastUse) with
    | some c => dropFirst (fun d => decide (d = c)) cs
    | none => cs

/-- A translation completion that grants access is installed (R336): copies that it replaces are dropped. -/
def installCopy (r : AtsReply) (s : State) : State :=
  if !r.read && !r.write then s
  else
    let c : AtsCopy :=
      { pasid := r.pasid, hostAddr := r.hostAddr, len := r.len, translated := r.translated, read := r.read, write := r.write
        lastUse := s.clock }
    let cs := evictCopy (s.ats.copies.filter fun x => !x.meets c)
    { s with ats := { s.ats with copies := mergeCopy cs c } }

/-- Copies of a page are dropped (R341). -/
def dropPage (space page : Nat) (s : State) : State :=
  { s with ats := { s.ats with copies := s.ats.copies.filter fun c =>
      !(decide (c.pasid = space) && decide (c.hostAddr ≤ 4096 * page) && decide (4096 * page < c.hostAddr + c.len)) } }

/-- A stalled transfer looks again after the translation of a page has completed: it goes on, faults on the page, or waits for the
request of another page. -/
def settleTransfer (space page : Nat) (s : State) (e : Nat × Transfer) : State :=
  match transfer? s e.1 with
  | none => s
  | some tr =>
    if !tr.stalled || inFault s e.1 then s
    else match transferNeed s tr with
      | none => releaseTransfer e.1 s
      | some need =>
        if !need.migrate && decide (need.space = space) && decide (need.page = page) then pageFault e.1 need s
        else if s.ats.requests.contains (need.space, need.page) then s
        else releaseTransfer e.1 s

/-- The tasks of waiters end under R319 with PRI_FAILED. -/
def abortWaiters (addr : Nat) (ids : List Nat) (s : State) : State :=
  ids.foldl (fun s id => match transfer? s id with
    | some tr => transferFault tr 8 (match tr.gate with
        | some w => if w then 2 else 1
        | none => 1) addr 0 s
    | none => s) s

/-- Waiters of an entry are released; an entry without waiters is removed (R341). -/
def releaseWaiters (k : Nat) (ids : List Nat) (s : State) : State :=
  let s := ids.foldl (fun s id => releaseTransfer id s) s
  let s := updFault k (fun e => { e with waiters := e.waiters.filter fun x => !ids.contains x }) s
  { s with ats := { s.ats with outFaults := s.ats.outFaults.filter fun e => !e.2.waiters.isEmpty } }

/-- A waiter still needs the page of its entry. -/
def stillNeeds (s : State) (e : OutFault) (id : Nat) : Bool :=
  match transfer? s id with
  | some tr => (match transferNeed s tr with
    | some n => decide (n.migrate = e.migrate) && decide (n.space = e.space) && decide (n.page = e.hostPage)
    | none => false)
  | none => false

/-- The access of a waiter that still needs the page: whether it writes. -/
def needsWrite (s : State) (id : Nat) : Bool :=
  match transfer? s id with
  | some tr => (match transferNeed s tr with
    | some n => n.write
    | none => false)
  | none => false

/-- After a response of Success, the new translation has come (R341): waiters that it grants are released; for the others one
further page request is sent, and then their tasks abort. -/
def settleEntry (k : Nat) (s : State) : State :=
  match Tab.get? s.ats.outFaults k with
  | none => s
  | some e =>
    if e.migrate || !e.recorded || e.requested then s
    else
      let left := e.waiters.filter (stillNeeds s e)
      let s := releaseWaiters k (e.waiters.filter fun id => !left.contains id) s
      if left.isEmpty then s
      else if e.further then abortWaiters e.devAddr left s
      else
        let w := left.any (needsWrite s)
        sendPageRequest k (updFault k (fun e => { e with
          further := true, accR := left.any (fun id => !needsWrite s id), accW := w }) s)

/-- ATS_TRANSLATION_COMPLETE (R336, R339 to R341). -/
def execAtsTranslationComplete (r : AtsReply) : State → Host.Outcome State Fault Refusal :=
  live fun s =>
    match s.ats.requests.find? fun q => decide (q.1 = r.pasid) && decide (r.hostAddr ≤ 4096 * q.2) &&
        decide (4096 * q.2 < r.hostAddr + r.len) with
    | none => s
    | some (space, page) =>
      if !hostUp s then s
      else
        let s := installCopy r { s with ats := { s.ats with requests := dropFirst (fun q => decide (q = (space, page))) s.ats.requests } }
        let entries := (s.ats.outFaults.filter fun e =>
          !e.2.migrate && decide (e.2.space = space) && decide (e.2.hostPage = page)).map Prod.fst
        let s := entries.foldl (fun s k => settleEntry k s) s
        s.streams.transfers.foldl (settleTransfer space page) s

/-- A page request of the entry is outstanding. -/
def requestedEntry (s : State) (k : Nat) : Option OutFault :=
  match Tab.get? s.ats.outFaults k with
  | some e => if e.requested && !e.migrate then some e else none
  | none => none

/-- The tasks of every waiter of an entry end with PRI_FAILED (R341, R345). -/
def abortEntry (k : Nat) (s : State) : State :=
  match Tab.get? s.ats.outFaults k with
  | none => s
  | some e => abortWaiters e.devAddr e.waiters s

/-- PRI_RESPONSE (R341): code 0 Success, 1 Invalid Request, any other Response Failure. -/
def execPriResponse (k code : Nat) : State → Host.Outcome State Fault Refusal :=
  live fun s =>
    match requestedEntry s k with
    | none => s
    | some e =>
      if code = 0 then
        requestTranslation e.space e.hostPage (dropPage e.space e.hostPage (updFault k (fun e => { e with requested := false }) s))
      else if code = 1 then abortEntry k s
      else (s.ats.outFaults.map Prod.fst).foldl (fun s k => abortEntry k s) { s with ats := { s.ats with priEnabled := false } }

/-- PRI_RESPONSE_TIMEOUT (R341): as Invalid Request, for this entry only. -/
def execPriResponseTimeout (k : Nat) : State → Host.Outcome State Fault Refusal :=
  live fun s => if (requestedEntry s k).isSome then abortEntry k s else s

/-- PRI_ENABLE (R341). -/
def execPriEnable : State → Host.Outcome State Fault Refusal := live fun s => { s with ats := { s.ats with priEnabled := true } }

/-- The transfer is in flight and reaches host memory through a copy of the address space; 0 stands for every one. -/
def usesSpace (s : State) (pasid : Nat) (tr : Transfer) : Bool :=
  tr.issued && (pagePieces tr.src tr.len ++ pagePieces tr.dst tr.len).any fun p =>
    match rangeAt s p.1 p.2 with
    | some (base, g) => decide (g.kind = .host) && (Tab.get? g.devicePages ((p.1 - base) / 4096)).isNone &&
        (decide (pasid = 0) || decide (g.space = pasid))
    | none => false

/-- Every copy of an address space is dropped, or every copy where the number is 0 (R337). -/
def dropCopies (pasid : Nat) (s : State) : State :=
  { s with ats := { s.ats with copies := if pasid = 0 then [] else s.ats.copies.filter fun c => decide (c.pasid ≠ pasid) } }

/-- ATS_INVALIDATION (R337): `pasid` is 0 for a request without PASID, and otherwise the PASID plus 1. -/
def execAtsInvalidation (pasid : Nat) : State → Host.Outcome State Fault Refusal :=
  live fun s =>
    if !hostUp s then s
    else
      let ids := (s.streams.transfers.filter fun e => usesSpace s pasid e.2).map Prod.fst
      let s := dropCopies pasid s
      { s with ats := { s.ats with invalidating := s.ats.invalidating ++ [(pasid, ids)] } }

/-- ATS_INVALIDATION_COMPLETE (R337): the transfers that were in flight at the drop have ended. -/
def execAtsInvalidationComplete (pasid : Nat) : State → Host.Outcome State Fault Refusal :=
  live fun s =>
    match s.ats.invalidating.find? fun e => decide (e.1 = pasid) with
    | none => s
    | some e =>
      if !hostUp s || e.2.any fun id => (transfer? s id).isSome then s
      else send (.atsInvalidationDone pasid) { s with ats := { s.ats with invalidating := dropFirst (fun x => decide (x = e)) s.ats.invalidating } }

end Sys2Proof.Machine
end

