-- ==== Sys2Proof/Machine/Ecc.lean ====
section
/-! DEFINITION. The 144-bit code word of R439: 32 data symbols and 4 check symbols over GF(16). -/

namespace Sys2Proof.Machine

/-- One step of a multiplication by x modulo x⁴ + x + 1. -/
def gfDouble (a : Nat) : Nat := if 8 ≤ a then (2 * a) % 16 ^^^ 3 else 2 * a

/-- Product in GF(16) (R439). -/
def gfMul (a b : Nat) : Nat :=
  let a1 := gfDouble a
  let a2 := gfDouble a1
  let a3 := gfDouble a2
  (if b.testBit 0 then a else 0) ^^^ (if b.testBit 1 then a1 else 0) ^^^ (if b.testBit 2 then a2 else 0) ^^^
    (if b.testBit 3 then a3 else 0)

/-- The column of symbol position `j`: data symbols 0 to 31, check symbols 32 to 35 (R439). -/
def codeColumn (j : Nat) : Nat × Nat × Nat × Nat :=
  if j < 32 then
    let x := j % 16
    let y := 2 + j / 16
    let f := gfMul x x ^^^ gfMul x y ^^^ gfMul 8 (gfMul y y)
    (1 ^^^ x ^^^ y, f ^^^ x ^^^ gfMul 8 y, x, y)
  else (b2n (j == 32), b2n (j == 33), b2n (j == 34), b2n (j == 35))

/-- A column times a symbol value. -/
def scaleColumn (e : Nat) (c : Nat × Nat × Nat × Nat) : Nat × Nat × Nat × Nat :=
  (gfMul c.1 e, gfMul c.2.1 e, gfMul c.2.2.1 e, gfMul c.2.2.2 e)

/-- Two columns added. -/
def addColumn (a b : Nat × Nat × Nat × Nat) : Nat × Nat × Nat × Nat :=
  (a.1 ^^^ b.1, a.2.1 ^^^ b.2.1, a.2.2.1 ^^^ b.2.2.1, a.2.2.2 ^^^ b.2.2.2)

/-- The sum of the columns of a word's symbols: the syndrome (R439). -/
def syndrome (w : CodeWord) : Nat × Nat × Nat × Nat :=
  (List.range 36).foldl (fun acc j => addColumn acc (scaleColumn (bits w (4 * j) 4) (codeColumn j))) (0, 0, 0, 0)

/-- A 144-bit word with its check symbols, over 16 data bytes (R439). -/
def encodeWord (data : Word128) : CodeWord :=
  let s := syndrome (BitVec.ofNat 144 data.toNat)
  BitVec.ofNat 144 (data.toNat + s.1 * 2 ^ 128 + s.2.1 * 2 ^ 132 + s.2.2.1 * 2 ^ 136 + s.2.2.2 * 2 ^ 140)

/-- What decoding a word gives (R439). -/
inductive WordRead where
  | good
  /-- One symbol is corrected: its position and the corrected word. -/
  | corrected (symbol : Nat) (word : CodeWord)
  | uncorrectable
  deriving DecidableEq, Repr

/-- The error value and position that explain a syndrome. -/
def explainSyndrome (s : Nat × Nat × Nat × Nat) : Option (Nat × Nat) :=
  (List.range 36).findSome? fun j =>
    ((List.range 15).find? fun e => decide (scaleColumn (e + 1) (codeColumn j) = s)).map fun e => (j, e + 1)

/-- A word as it reads (R439). -/
def decodeWord (w : CodeWord) : WordRead :=
  let s := syndrome w
  if s = (0, 0, 0, 0) then .good
  else match explainSyndrome s with
    | some (j, e) => .corrected j (w ^^^ BitVec.ofNat 144 (e * 2 ^ (4 * j)))
    | none => .uncorrectable

/-- The data bytes of a word. -/
def wordData (w : CodeWord) : List Byte := toBytes 16 (bits w 0 128)

end Sys2Proof.Machine
end

