-- ==== Sys2Proof/Machine/Feeds.lean ====
section
/-! DEFINITION. UCIe modules (R404 to R413) and feed channels (R94 to R106): flits, control messages, credits, the arrival of
records, claims and drains. -/

namespace Sys2Proof.Machine

/-- HELLO of the device: version 1, classes 0 to 8 (R406, R408). -/
def helloMsg : Word128 := controlMsg 7 0 [(16, 8, 1), (64, 16, 0x1FF)]

/-- CREDIT for a class or stream (R408, R409). -/
def creditMsg (cls channel units : Nat) : Word128 := controlMsg 6 channel [(9, 4, cls), (32, 32, units)]

/-- The channels of a module. -/
def moduleChannels (m : Nat) : List Nat := (List.range 4).map fun i => 4 * m + i

/-! ### Links (R410, R413, R423) -/

/-- UCIE_LINK_UP: training completes and HELLO is sent; credits start at zero (R409, R410). -/
def execUcieLinkUp (m lanes : Nat) : State → Host.Outcome State Fault Refusal :=
  live fun s =>
    if 8 ≤ m ∨ lanes = 0 ∨ !s.sys.cfg.ucieModules.testBit m then s
    else
      let old := ucieOf s m
      sendControl m helloMsg (putUcie m
        { up := true, lanes := lanes, deliveries := old.deliveries, hdmBase := old.hdmBase, waiting := old.waiting } s)

/-- The opening to which a use belongs has closed, and no record of it is left in the buffer (R106). -/
def runOut (x : Channel) (u : Nat × TagUse) : Bool :=
  (!x.isOpen || decide (u.2.opening ≠ x.opening)) && !(x.buffer.any fun b => decide (b.tag = u.1) && decide (b.opening = u.2.opening))

/-- The tasks whose ingest a closed channel cannot end fail, although it may be open again (R106). -/
def closedOut (c : Nat) (s : State) : State :=
  let x := chan s c
  (x.uses.filter fun u => u.2.owner.isSome && runOut x u).foldl (fun s u =>
    match u.2.owner with
    | some t => failTask (t / 2 ^ 32) (t % 2 ^ 32) .feedClosed (detFeed c u.2.nextSeq) s
    | none => s) s

/-- A channel closes: acceptance stops at once (R106). What becomes of an asserted STOP the spec does not say: STOPPED is cleared
and RESUME is sent, as when free space rises (DESIGN CHOICE, log entry 74). -/
def closeChannel (c : Nat) (s : State) : State :=
  let x := chan s c
  if x.isOpen then closedOut c (stopCheck c (putChan c { x with isOpen := false } s)) else s

/-- A module's link goes down: its channels close, partial messages are discarded, and deliveries that are not acknowledged whole
are kept (R413). -/
def ucieDown (m : Nat) (s : State) : State :=
  let u := ucieOf s m
  let s := putUcie m
    { deliveries := u.deliveries.map fun d => { d with lastSeq := none }, hdmBase := u.hdmBase
      waiting := u.waiting.filter fun w => decide (w.1 = 4) } s
  (moduleChannels m).foldl (fun s c => closeChannel c s) s

/-- UCIE_LINK_DOWN (R413, R423). -/
def execUcieLinkDown (m : Nat) : State → Host.Outcome State Fault Refusal :=
  live fun s =>
    let u := ucieOf s m
    if u.up then
      faultRecord (linkRecord 3 2 m u.lanes 0 0) (linkDegraded 2 m u.lanes 0 0 (ucieDown m s))
    else s

/-- UCIE_WIDTH_DEGRADE: x64 to x32 (R423). -/
def execUcieWidthDegrade (m : Nat) : State → Host.Outcome State Fault Refusal :=
  live fun s =>
    let u := ucieOf s m
    if u.up ∧ u.lanes = 64 then
      faultRecord (linkRecord 2 2 m 64 32 0) (linkDegraded 2 m 64 32 0 (putUcie m { u with lanes := 32 } s))
    else s

/-- UCIE_LANE_REPAIR: redundant lanes take over; a LINK record with REASON REPAIR (R423, R458). -/
def execUcieLaneRepair (m : Nat) : State → Host.Outcome State Fault Refusal :=
  live fun s =>
    let u := ucieOf s m
    if u.up then count .laneRepairs 1 (faultRecord (linkRecord 1 2 m u.lanes u.lanes 0) s) else s

/-! ### Flits (R405, R407) -/

/-- The sender's flits up to ACK_SEQ are acknowledged. -/
def flitAcked (ack : Nat) (u : Ucie) : Ucie :=
  { u with kept := u.kept.filter fun k => !(decide (k.seq = ack) || seqBefore 12 k.seq ack) }

/-- A flit's payload joins its message; a message that is whole leaves the list (R407). -/
def flitMessage (cls ch : Nat) (som eom : Bool) (bs : List Byte) (ps : List PartialMsg) : List PartialMsg :=
  let old := if som then [] else ((ps.find? fun p => decide (p.cls = cls) && decide (p.channel = ch)).map PartialMsg.bytes).getD []
  let rest := ps.filter fun p => !(decide (p.cls = cls) && decide (p.channel = ch))
  if eom then rest else rest ++ [{ cls := cls, channel := ch, bytes := old ++ bs }]

/-- A received flit (R407): its acknowledgement counts; a bad CRC or a skipped number discards it and asks for the flits after
the last good one; what a whole message does is its own row. -/
def flitIn (m : Nat) (flit : BitVec 2048) (s : State) : State :=
  let u := ucieOf s m
  if !u.up then s
  else
    let good := decide (crc32c (toBytes 252 flit.toNat) = bits flit 2016 32)
    let seq := bits flit 32 12
    let idle := decide (bits flit 0 4 = 0)
    let expected := if u.rxAny then (u.rxSeq + 1) % 4096 else 0
    let lastGood := (expected + 4095) % 4096
    if !good || decide (seq ≠ expected) then
      if good && (seqBefore 12 seq expected) && !idle then s
      else if u.nakSent then s else send (.nak m lastGood) (putUcie m { u with nakSent := true } s)
    else
      let u := if bit flit 56 then flitAcked (bits flit 44 12) u else u
      if idle then putUcie m u s
      else
        let n := bits flit 11 8 + 1
        let bs := toBytes n (bits flit 64 1952)
        putUcie m { u with
          rxAny := true, rxSeq := seq, nakSent := false
          partials := flitMessage (bits flit 0 4) (bits flit 4 5) (bit flit 9) (bit flit 10) bs u.partials } s


/-- UCIE_NAK: every kept flit after ACK_SEQ is sent again, in order (R407). -/
def execUcieNak (m ack : Nat) : State → Host.Outcome State Fault Refusal :=
  live fun s =>
    let u := ucieOf s m
    if !u.up then s
    else
      let u := flitAcked ack u
      u.kept.foldl (fun s k => send (.resentFlit m k.flit) s) (putUcie m u s)

/-! ### Control messages (R408 to R410) -/

/-- A DELIVERY message goes out where there is credit, and is held until it is acknowledged whole; without credit it is only held
(R409, R413). -/
def deliver (m : Nat) (d : Delivery) (replay : Bool) (s : State) : State :=
  if hasCredit s m 7 d.stream d.bytes then
    let s := sendMsg m 7 d.stream replay d.bytes (spendCredit m 7 d.stream d.bytes s)
    let u := ucieOf s m
    putUcie m { u with deliveries := u.deliveries ++ [{ d with lastSeq := some ((u.txSeq + 4095) % 4096) }] } s
  else
    let u := ucieOf s m
    putUcie m { u with deliveries := u.deliveries ++ [{ d with lastSeq := none }] } s

/-- Deliveries that are held without having been sent go out while credit lasts (R413). -/
def drainDeliveries (m : Nat) (s : State) : State :=
  (ucieOf s m).deliveries.foldl (fun s d => if d.lastSeq.isSome then
      let u := ucieOf s m
      putUcie m { u with deliveries := u.deliveries ++ [d] } s
    else deliver m d true s) (putUcie m { ucieOf s m with deliveries := [] } s)

/-- Unacknowledged deliveries go again from their start, with REPLAY (R413). -/
def replayDeliveries (m : Nat) (s : State) : State :=
  (ucieOf s m).deliveries.foldl (fun s d => deliver m d true s) { s with links := { s.links with
    ucie := Tab.upd s.links.ucie m fun u => { u with deliveries := [] } } }

/-- UCIE_FLIT_RECEIVE: a flit comes in, and messages that waited for room in the replay buffer go out (R407). -/
def execUcieFlitReceive (m : Nat) (flit : BitVec 2048) : State → Host.Outcome State Fault Refusal :=
  live fun s => drainDeliveries m (drainWaiting m (flitIn m flit s))

/-- HELLO (R410): the classes of both sides, and the credits that the device grants (R409). -/
def helloIn (m : Nat) (msg : Word128) (s : State) : State :=
  let u := ucieOf s m
  if !u.up || u.helloOk || decide (bits msg 0 4 ≠ 7) then s
  else if bits msg 16 8 ≠ 1 then putUcie m { u with helloOk := false, classes := 0 } s
  else
    let s := putUcie m { u with helloOk := true, classes := bits msg 64 16 &&& 0x1FF } s
    let s := sendControl m (creditMsg 1 0 2048) s
    let s := sendControl m (creditMsg 2 0 256) s
    let s := sendControl m (creditMsg 3 0 512) s
    let s := sendControl m (creditMsg 5 0 64) s
    replayDeliveries m s

/-- HELLO (R410). -/
def execHello (m : Nat) (msg : Word128) : State → Host.Outcome State Fault Refusal := live (helloIn m msg)

/-- HELLO_TIMEOUT: the module carries CONTROL alone and counts as down (R410). -/
def execHelloTimeout (m : Nat) : State → Host.Outcome State Fault Refusal :=
  live fun s =>
    let u := ucieOf s m
    if u.up ∧ u.helloOk = false then (moduleChannels m).foldl (fun s c => closeChannel c s) (putUcie m { u with classes := 0 } s)
    else s

/-- CREDIT: units are added, unless that leaves more than 2^24 granted and unused (R409). -/
def execCredit (m : Nat) (msg : Word128) : State → Host.Outcome State Fault Refusal :=
  live fun s =>
    let u := ucieOf s m
    if !u.up || decide (bits msg 0 4 ≠ 6) then s
    else
      let k := creditKey (bits msg 9 4) (bits msg 4 5)
      let n := Tab.getD u.credits k 0 + bits msg 32 32
      if 2 ^ 24 < n then count .ucieBadCredits 1 s
      else drainDeliveries m (drainWaiting m (putUcie m { u with credits := Tab.put u.credits k n } s))

/-- FEED_ACK (R95, R408). -/
def feedAck (m channel opcode status : Nat) (s : State) : State :=
  sendControl m (controlMsg 3 channel [(32, 4, opcode), (40, 8, status)]) s

/-- The message breaks the common rules of FEED_OPEN and FEED_CLOSE (R95). -/
def feedMsgBad (m : Nat) (msg : Word128) : Bool :=
  !zeroFields msg [(9, 7), (38, 90)] || decide (bits msg 4 5 / 4 ≠ m)

/-- FEED_OPEN (R95), answered whenever the link carries CONTROL (R407, R410). Buffered records of an earlier opening stay with its uses, and the first
record of a tag after FEED_OPEN starts a use at 0 (R97). -/
def execFeedOpen (m : Nat) (msg : Word128) : State → Host.Outcome State Fault Refusal :=
  live fun s =>
    let c := bits msg 4 5
    let d := bits msg 16 22
    if !carries s m 8 || decide (bits msg 0 4 ≠ 1) then s
    else if feedMsgBad m msg then feedAck m c 1 1 s
    else if d < 65536 ∨ 2097152 < d ∨ d % 16 ≠ 0 then feedAck m c 1 2 s
    else if (chan s c).isOpen then feedAck m c 1 3 s
    else
      let x := chan s c
      stopCheck c (feedAck m c 1 0
        (putChan c { x with isOpen := true, opening := x.opening + 1, stopDistance := d, overrun := false } s))

/-- FEED_CLOSE (R95, R106). -/
def execFeedClose (m : Nat) (msg : Word128) : State → Host.Outcome State Fault Refusal :=
  live fun s =>
    let c := bits msg 4 5
    if !carries s m 8 || decide (bits msg 0 4 ≠ 2) then s
    else if feedMsgBad m msg || decide (bits msg 16 22 ≠ 0) then feedAck m c 2 1 s
    else if !(chan s c).isOpen then feedAck m c 2 3 s
    else closeChannel c (feedAck m c 2 0 s)

/-- UCIE_BAD_CONTROL: a reserved opcode is answered; an opcode that only the device sends is discarded and counted (R408). -/
def execUcieBadControl (m : Nat) (msg : Word128) : State → Host.Outcome State Fault Refusal :=
  live fun s =>
    let op := bits msg 0 4
    if !(ucieOf s m).up then s
    else if op = 0 ∨ 9 ≤ op then feedAck m (bits msg 4 5) op 1 s
    else if op = 3 ∨ op = 4 ∨ op = 5 ∨ op = 8 then count .ucieBadControl 1 s
    else s

/-! ### Arrival of records (R102, R105) -/

/-- A record of kind `k` arrives on its channel: it is taken into the buffer, or discarded and counted where the channel is closed,
the tag drains, or it does not fit. -/
def recordIn (k : Nat) (r : FeedRec) (s : State) : State :=
  let c := r.channel
  let tag := bits r.hdr 64 16
  let len := bufLength r.hdr
  if 32 ≤ c ∨ bits r.hdr 0 4 ≠ k ∨ !carries s (c / 4) 6 then s
  else
    let x := chan s c
    let u := Tab.getD x.uses tag {}
    if !x.isOpen then putChan c (discard 1 x) s
    else if u.draining then
      if k = 4 then
        let u' : TagUse := { owner := u.owner, lostSeq := u.lostSeq, opening := x.opening }
        putChan c { x with uses := if u.owner.isSome || u.lostSeq.isSome then Tab.put x.uses tag u' else Tab.del x.uses tag } s
      else putChan c (discard 1 x) s
    else if x.free < len then
      let s := putChan c (discard 1 { x with overrun := true }) s
      match u.owner with
      | some t => failTask (t / 2 ^ 32) (t % 2 ^ 32) .feedOverrun (detFeed c (bits r.hdr 96 16)) s
      | none =>
        let x := chan s c
        let u' : TagUse := { u with lostSeq := some (bits r.hdr 96 16) }
        drainTag c tag (putChan c { x with uses := Tab.put x.uses tag u' } s)
    else
      let b : BufRec := { hdr := r.hdr, payload := r.payload.take (len - 16), opening := x.opening }
      let x := { x with
        free := x.free - len, buffer := x.buffer ++ [b] }
      stopCheck c (putChan c x s)

/-- KEYS (R102). -/
def execKeys (r : FeedRec) : State → Host.Outcome State Fault Refusal := live (recordIn 1 r)
/-- KEYS_WEIGHTED (R102). -/
def execKeysWeighted (r : FeedRec) : State → Host.Outcome State Fault Refusal := live (recordIn 2 r)
/-- TOKENS (R102). -/
def execTokens (r : FeedRec) : State → Host.Outcome State Fault Refusal := live (recordIn 3 r)
/-- TAG_END (R100). -/
def execTagEnd (r : FeedRec) : State → Host.Outcome State Fault Refusal := live (recordIn 4 r)
/-- GRAD_FP32 (R164). -/
def execGradFp32 (r : FeedRec) : State → Host.Outcome State Fault Refusal := live (recordIn 8 r)
/-- GRAD_BF16 (R164). -/
def execGradBf16 (r : FeedRec) : State → Host.Outcome State Fault Refusal := live (recordIn 9 r)
/-- GRAD_PACKED_FP32 (R164). -/
def execGradPackedFp32 (r : FeedRec) : State → Host.Outcome State Fault Refusal := live (recordIn 10 r)
/-- GRAD_PACKED_BF16 (R164). -/
def execGradPackedBf16 (r : FeedRec) : State → Host.Outcome State Fault Refusal := live (recordIn 11 r)

/-! ### Claims (R100, R105) -/

/-- Channels of a mask. -/
def maskChannels (mask : Nat) : List Nat := (List.range 32).filter fun c => mask.testBit c

/-- Another ACTIVE task holds the tag on a channel of the mask (R100). -/
def tagBusy (s : State) (mask tag : Nat) : Bool :=
  (maskChannels mask).any fun c => ((Tab.get? (chan s c).uses tag).bind TagUse.owner).isSome

/-- The task claims the tag on every channel of its mask (R100): the use that it claims is that of the oldest buffered record. -/
def claimTags (queue seq mask tag : Nat) (s : State) : State :=
  (maskChannels mask).foldl (fun s c =>
    let x := chan s c
    let u := Tab.getD x.uses tag {}
    let o := match x.buffer.find? fun b => decide (b.tag = tag) with
      | some b => b.opening
      | none => x.opening
    putChan c { x with uses := Tab.put x.uses tag { u with owner := some (tid queue seq), opening := o } } s) s

/-- After a claim: a record lost while the tag was unclaimed fails the task with FEED_OVERRUN, and a closed channel that holds no
record of the tag fails it with FEED_CLOSED (R105, R106). -/
def claimFaults (queue seq mask tag : Nat) (s : State) : State :=
  match (maskChannels mask).findSome? fun c => ((Tab.get? (chan s c).uses tag).bind TagUse.lostSeq).map fun n => (c, n) with
  | some (c, n) =>
    let x := chan s c
    let s := putChan c { x with uses := Tab.upd x.uses tag fun u => { u with lostSeq := none } } s
    failTask queue seq .feedOverrun (detFeed c n) s
  | none => (maskChannels mask).foldl (fun s c => closedOut c s) s

/-- A record leaves the buffer: its length returns to free space (R102). -/
def takeRecord (c tag : Nat) (s : State) : Option (BufRec × State) :=
  let x := chan s c
  match x.buffer.find? fun b => decide (b.tag = tag) with
  | none => none
  | some b =>
    let x := { x with buffer := dropFirst (fun b => decide (b.tag = tag)) x.buffer, free := x.free + bufLength b.hdr }
    some (b, stopCheck c (putChan c x s))

/-- The use of the tag on the channel is over (R97). -/
def endUse (c tag : Nat) (s : State) : State :=
  let x := chan s c
  putChan c { x with uses := Tab.del x.uses tag } s

/-- The next record of the use has the next SEQ. -/
def nextUse (c tag : Nat) (s : State) : State :=
  let x := chan s c
  putChan c { x with uses := Tab.upd x.uses tag fun u => { u with nextSeq := seqNext 16 u.nextSeq } } s

/-- COH_MESSAGE: discarded and counted (R406). -/
def execCohMessage (m : Nat) : State → Host.Outcome State Fault Refusal :=
  live fun s => if (ucieOf s m).up then count .ucieCohDiscarded 1 s else s

end Sys2Proof.Machine
end

