-- ==== Sys2Proof/Machine/Loss.lean ====
section
/-! DEFINITION. Words that the device cannot correct, outside rows: the fence, the record and the end of the task that met the word
(R446, R449, R458). -/

namespace Sys2Proof.Machine

/-- The class-specific part of an UNCORRECTABLE record (R458): PATH 1 READ, 2 SCRUB, 3 LINK, 4 INBOUND_POISON. -/
def uncorrSpec (path : Nat) (fenced notFenced recovered : Bool) (key : Option Nat) (delta : Option Nat) : Nat :=
  packFields [(0, 4, path), (4, 1, b2n fenced), (5, 1, b2n notFenced), (6, 1, b2n recovered), (7, 1, b2n key.isSome),
    (8, 1, b2n delta.isSome), (64, 64, key.getD 0), (128, 48, delta.getD 0)]

/-- An UNCORRECTABLE record, with the counter of its location kind (R457, R458, R521). -/
def uncorrRecord (path loc : Nat) (fenced notFenced recovered : Bool) (key delta : Option Nat) (ctx : Option Nat)
    (task : Option (Nat × Nat)) (s : State) : State :=
  faultRecord
    { cls := .uncorrectable, sev := if recovered then .corrected else .dataLost, ctx := ctx, task := task, location := loc
      spec := uncorrSpec path fenced notFenced recovered key delta }
    (if 1 ≤ loc % 16 ∧ loc % 16 ≤ 12 then countAt (0x100 + 11 + loc % 16) 1 s else s)

/-- A word outside rows is lost: it is fenced, unless 65,536 words are fenced already, and recorded (R449). -/
def loseWord (path loc : Nat) (ctx : Option Nat) (task : Option (Nat × Nat)) (s : State) : State :=
  if Tab.has s.faults.fences loc then uncorrRecord path loc true false false none none ctx task s
  else if s.faults.fences.length < 65536 then
    uncorrRecord path loc true false false none none ctx task { s with faults := { s.faults with
      fences := Tab.put s.faults.fences loc s.fq.recordSeq } }
  else event .fenceTableFull 0 (uncorrRecord path loc false true false none none ctx task s)

/-- A task meets a word that is lost: it ends FAILED with DATA_LOST, naming the location and the record (R446). -/
def loseForTask (path loc q n : Nat) (s : State) : State :=
  let seq := s.fq.recordSeq
  let ctx := (task? s q n).map Task.ctx
  failTask q n .dataLost (detLoc loc seq) (loseWord path loc ctx (some (q, n)) s)

/-- The detail of a completion that a fenced word ends (R446). -/
def fenceDet (s : State) (loc : Nat) : Detail := detLoc loc (Tab.getD s.faults.fences loc 0)

/-- A task reads a lost word: the fence names the record, or the word is lost now, in a stack that is lost (R449, R460). -/
def meetLost (loc q n : Nat) (s : State) : State :=
  if Tab.has s.faults.fences loc then failTask q n .dataLost (fenceDet s loc) s else loseForTask 1 loc q n s

/-! ### Corrections and sparing (R440, R442, R451, R453, R454) -/

/-- Corrected words are counted by location kind, for the counters and for the next summary (R440, R442). -/
def countCorrected (k : LocKind) (n : Nat) (s : State) : State :=
  if n = 0 then s
  else
    let s := countAt (corrIndex k) n s
    { s with faults := { s.faults with
        sinceSummary := Tab.put s.faults.sinceSummary k.code (satAdd 32 (Tab.getD s.faults.sinceSummary k.code 0) n) } }

/-- The cluster must leave service (R454). -/
def mustLeave (c : Nat) (s : State) : State :=
  if (serviceClusters s).contains c && !s.faults.leaving.contains c then
    { s with faults := { s.faults with leaving := s.faults.leaving ++ [c] } }
  else s

/-- The replacement of a core begins, with the lowest-numbered spare; without a spare its cluster must leave service (R451, R453,
R454). -/
def startReplace (core : Nat) (s : State) : State :=
  let c := core / 2048
  if Tab.has s.faults.replacing core || !(serviceClusters s).contains c || s.faults.leaving.contains c then s
  else match spareList s c with
    | p :: _ => { s with faults := { s.faults with replacing := Tab.put s.faults.replacing core p } }
    | [] => mustLeave c s

/-- Twenty-four hours of the reference clock. -/
def dayTicks : Nat := 8640000000000

/-- A word of a core's program memory has been replaced from the master copy: the second replacement within 24 hours has the core replaced
(R206, R453). -/
def programReplaced (core : Nat) (s : State) : State :=
  let old := s.faults.programRecent.filter fun e => decide (s.clock < e.2 + dayTicks)
  let s := { s with faults := { s.faults with programRecent := old ++ [(core, s.clock)] } }
  if old.any fun e => decide (e.1 = core) then startReplace core s else s

end Sys2Proof.Machine
end

