-- ==== Sys2Proof/Machine/Maint.lean ====
section
/-! DEFINITION. Maintenance of T0 copies (R225, R226). -/

namespace Sys2Proof.Machine

/-- The copy leaves T0 where it can go at once; one that T1 has accepted leaves with its move (R223). -/
def maintDrop (key : Nat) (m : Maint) (s : State) : Bool × Maint × State :=
  match evictRow key s with
  | (true, s) => (true, { m with invalidated := satAdd 32 m.invalidated 1 }, s)
  | (false, s) => (false, m, s)

/-- The operation acts on the T0 copy of one row (R225). The flag tells that it is done with the row: a copy that commits, that is in the
switch phase of a move, that leaves with a move, or whose backing location cannot be written yet, is met again (R226, R227). -/
def maintRow (key : Nat) (m : Maint) (s : State) : Bool × Maint × State :=
  let r := rowOf s key
  match r.t0 with
  | none => (true, m, s)
  | some c =>
    if r.committing || r.migrating || r.leaving then (false, m, s)
    else if !c.pinned && decide (m.op = 2) && c.dirty then (true, { m with dirtySkipped := satAdd 32 m.dirtySkipped 1 }, s)
    else
      let (clean, s) := if c.dirty then cleanCopy key s else (true, s)
      if !clean then (false, m, s)
      else
        let m := if c.dirty then { m with cleaned := satAdd 32 m.cleaned 1 } else m
        if c.pinned then (true, { m with pinnedSkipped := satAdd 32 m.pinnedSkipped 1 }, s)
        else if m.op = 1 then (true, m, s)
        else maintDrop key m s

/-- The four counts of the result (R224). -/
def maintResult (m : Maint) : Nat :=
  packFields [(0, 32, m.cleaned), (32, 32, m.invalidated), (64, 32, m.dirtySkipped), (96, 32, m.pinnedSkipped)]

/-- A command that waits for a row acts on it, and completes after its last row. A line that has left meanwhile counts as invalidated. -/
def maintStep (key : Nat) (m : Maint) (s : State) : State :=
  if !m.keys.contains key then s
  else
    let gone := decide (m.op ≠ 1) && (rowOf s key).t0.isNone
    let (done, m, s) := maintRow key (if gone then { m with invalidated := satAdd 32 m.invalidated 1 } else m) s
    let m := if done then { m with keys := m.keys.filter fun k => k != key } else m
    if m.keys.isEmpty then
      jobEnd (.orchard m.id) .ok (maintResult m) (updTables (fun w => { w with maints := w.maints.filter fun x => x.id != m.id }) s)
    else updTables (fun w => { w with maints := updWhere (fun x : Maint => x.id == m.id) (fun _ => m) w.maints }) s

/-- Commands that wait for the row act on it where they can (R226). -/
def maintCommitted (key : Nat) (s : State) : State := s.work.tbl.maints.foldl (fun s m => maintStep key m s) s

/-- Commands act on every row for which they wait, where they can. -/
def maintRetry (s : State) : State := (s.work.tbl.maints.flatMap Maint.keys).foldl (fun s k => maintCommitted k s) s

/-- A command acts on the selected rows; those that it cannot handle yet are met again. -/
def maintStart (op : Nat) (keys : List Nat) (s : State) : MbxRes :=
  let id := s.work.tbl.nextPublish
  let start : List Nat × Maint × State := ([], { id := id, op := op, keys := [] }, s)
  let (later, m, s) := keys.foldl (fun (acc : List Nat × Maint × State) k =>
    match maintRow k acc.2.1 acc.2.2 with
    | (true, m, s) => (acc.1, m, s)
    | (false, m, s) => (acc.1 ++ [k], m, s)) start
  if later.isEmpty then .reply s .ok (maintResult m)
  else .waits (updTables (fun w => { w with maints := w.maints ++ [{ m with keys := later }], nextPublish := id + 1 }) s) (.orchard id)

end Sys2Proof.Machine
end

