-- ==== Sys2Proof/Machine/Groups.lean ====
section
/-! DEFINITION. Accumulation groups: terms, merges, finishing (R43 to R55), and the bodies in which they travel and are stored
(R267, R268). -/

namespace Sys2Proof.Machine

/-- An empty group of `e` elements for a mode: 0 binned, 1 plain, 2 maximum, 3 minimum, 4 INT32. -/
def emptyGroup (mode e : Nat) : Group :=
  match mode with
  | 0 => .binned (List.replicate e binEmpty)
  | 1 => .plain (List.replicate e plainEmpty)
  | 2 => .ext true (List.replicate e extEmpty)
  | 4 => .ints (List.replicate e 0)
  | _ => .ext false (List.replicate e extEmpty)

/-- An empty bucket. -/
def emptyBucket (mode e : Nat) : Bucket := { body := emptyGroup mode e }

/-- The term counter rises by `n`, saturating at 40 bits (R47). -/
def addTerms (n : Nat) (b : Bucket) : Bucket :=
  { b with terms := satAdd 40 b.terms n, saturated := b.saturated || satOvf 40 b.terms n }

/-- One term, where there is one, into each element. -/
def termGroup (g : Group) (ts : List (Option Word32)) (slot : Nat) : Group :=
  match g with
  | .binned es => .binned ((es.zip ts).map fun p => match p.2 with
    | some x => deposit p.1 (val32 x)
    | none => p.1)
  | .plain es => .plain ((es.zip ts).map fun p => match p.2 with
    | some x => plainAdd p.1 x
    | none => p.1)
  | .ext m es => .ext m ((es.zip ts).map fun p => match p.2 with
    | some x => extAdd m p.1 x slot
    | none => p.1)
  | .ints es => .ints ((es.zip ts).map fun p => p.1 + p.2.getD 0)

/-- The lowest slot of each element is kept (R155). -/
def noteSlot (e slot : Nat) (l : List (Nat × Nat)) : List (Nat × Nat) :=
  Tab.put l e (match Tab.get? l e with
    | some k => min k slot
    | none => slot)

/-- The elements whose term is not finite are noted with the slot (R155). -/
def noteTerms (ts : List (Option Word32)) (slot : Nat) (l : List (Nat × Nat)) : List (Nat × Nat) :=
  (ts.zip (List.range ts.length)).foldl (fun l p => match p.1 with
    | some x => if isNonfinite (val32 x) then noteSlot p.2 slot l else l
    | none => l) l

/-- The group renormalised (R44). -/
def renormGroup : Group → Group
  | .binned es => .binned (es.map renormalise)
  | g => g

/-- The bucket renormalised (R44). -/
def renormBucket (b : Bucket) : Bucket := { b with body := renormGroup b.body }

/-- One reference's terms enter the group: the counter rises when some element takes a term (R47), and every 1,024 references the group
is renormalised (R44). -/
def depositRef (ts : List (Option Word32)) (slot : Nat) (b : Bucket) : Bucket :=
  let b := { b with body := termGroup b.body ts slot, nonfinite := noteTerms ts slot b.nonfinite }
  if ts.any Option.isSome then
    let b := addTerms 1 b
    if b.terms % depositsPerRenorm = 0 then renormBucket b else b
  else b

/-- Two groups of one mode combined; binned elements merge renormalised (R43, R52, R143, R145). A carry out of the window drops the
lowest slot (R44), so that a value beyond the window can depend on which terms shared a partial: where this and the bit identity
of R21 and R26 differ, the model follows R43 and R44 (DEDUCED, log entry 71). -/
def mergeGroup (a b : Group) : Group :=
  match a, b with
  | .binned x, .binned y => .binned ((x.zip y).map fun p => mergeBin (renormalise p.1) (renormalise p.2))
  | .plain x, .plain y => .plain ((x.zip y).map fun p => plainMerge p.1 p.2)
  | .ext m x, .ext _ y => .ext m ((x.zip y).map fun p => extMerge m p.1 p.2)
  | .ints x, .ints y => .ints ((x.zip y).map fun p => p.1 + p.2)
  | a, _ => a

/-- Two buckets combined: counters add, flags join (R43, R47). -/
def mergeBucket (a b : Bucket) : Bucket :=
  let m := addTerms b.terms
    { a with body := mergeGroup a.body b.body
             nonfinite := b.nonfinite.foldl (fun l p => noteSlot p.1 p.2 l) a.nonfinite }
  { m with saturated := m.saturated || b.saturated }

/-- The elements finished to a format (R50, R52, R145, R147): each with its conversion and, for a maximum or minimum, its winner. -/
def finishGroup (f : Format) (mean : Bool) (n : Nat) : Group → List (Finished × Nat)
  | .binned es => es.map fun e => (finishBin f e (if mean then n else 1), 0xFFFF)
  | .plain es => es.map fun e => (finishPlain f e n mean, 0xFFFF)
  | .ext _ es => es.map fun e => finishExt f e
  | .ints es => es.map fun e => ({ raw := e.toNat, saturated := false, nonfinite := false }, 0xFFFF)

/-- Some element's special state is not none (R267). -/
def groupNonfinite : Group → Bool
  | .binned es => es.any fun e => decide (e.special ≠ .none)
  | .plain es => es.any fun e => decide (e.special ≠ .none)
  | .ext _ _ => false
  | .ints _ => false

/-- The finished FP32 row gradient of a bucket, with its flags (R171). -/
def finishGrad (key : Nat) (b : Bucket) : RowGrad :=
  let fs := (finishGroup .fp32 false 1 b.body).map Prod.fst
  { key := key, elems := fs.map fun c => BitVec.ofNat 32 c.raw
    ovf := if fs.any fun c => c.saturated then 1 else 0
    nonfinite := if fs.any fun c => c.nonfinite then 1 else 0
    bound := decide (2 ^ 23 < b.terms), terms := b.terms, saturated := b.saturated }

/-- A signed integer as FP32. -/
def f32OfInt (i : Int) : Word32 := round32 (valOfInt i)

/-- The two FP32 terms that a signed INT32 value is exactly: its low eight bits, and the rest (R282). -/
def intTerms (x : Word32) : Word32 × Word32 :=
  let v := x.toInt
  (f32OfInt (v - v % 256), f32OfInt (v % 256))

/-- An INT32 contribution enters a group: exactly as FP32 terms in binned mode, as it stands in plain mode, where FP32 would round and the sum
must not (R54, R282; log entry 77). -/
def depositInts (xs : List (Option Word32)) (b : Bucket) : Bucket :=
  match b.body with
  | .ints _ => depositRef xs 0 b
  | _ =>
    let hi := xs.map fun x => x.map fun x => (intTerms x).1
    let lo := xs.map fun x => x.map fun x => (intTerms x).2
    addTerms (b2n (xs.any Option.isSome)) { b with body := termGroup (termGroup b.body hi 0) lo 0 }

/-- The INT32 sum that an element holds: its exact value modulo 2^32 (R54). -/
def intSum (e : BinElem) : Word32 :=
  match binValue e with
  | .fin neg n d => if neg then -(BitVec.ofNat 32 (n / d)) else BitVec.ofNat 32 (n / d)
  | _ => 0

/-- The finished INT32 elements of a bucket, with its flags (R54, R286). -/
def finishInts (key : Nat) (b : Bucket) : RowGrad :=
  { key := key, bound := decide (2 ^ 23 < b.terms), terms := b.terms, saturated := b.saturated
    elems := match b.body with
      | .ints es => es
      | .binned es => es.map intSum
      | _ => [] }

/-- The lowest element of a row gradient that is not finite. -/
def firstNonfinite (g : RowGrad) : Option Nat :=
  (List.range g.elems.length).find? fun i => isNonfinite (val32 (g.elems.getD i 0))

/-! ### Bodies (R268) -/

/-- BODY_MODE. -/
def bodyMode : Group → Nat
  | .binned _ => 0
  | .plain _ => 1
  | .ext _ _ => 2
  | .ints _ => 1

/-- Special states, two bits each (R268). -/
def specialBytes (xs : List Special) : List Byte :=
  pad16 (toBytes ((2 * xs.length + 7) / 8) (packElems 2 (xs.map specialCode)))

/-- The integer that FP32 bits hold. -/
def intOfF32 (x : Word32) : Int :=
  match val32 x with
  | .fin neg n d => if neg then -((n / d : Nat) : Int) else ((n / d : Nat) : Int)
  | _ => 0

/-- The body of a group (R268). -/
def groupBytes : Group → List Byte
  | .binned es =>
    (es.flatMap fun e => [e.s0, e.s1, e.s2, e.s3].flatMap fun x => toBytes 4 (f32OfInt x).toNat) ++
      pad16 (es.map fun e => BitVec.ofNat 8 e.topBin) ++ specialBytes (es.map fun e => e.special)
  | .plain es =>
    pad16 (es.flatMap fun e => toBytes 4 (e.sum.getD f0).toNat) ++ specialBytes (es.map fun e => e.special)
  | .ext _ es =>
    pad16 (es.flatMap fun e => toBytes 4 ((e.best.map Prod.fst).getD f0).toNat) ++
      pad16 (es.flatMap fun e => toBytes 2 ((e.best.map Prod.snd).getD 0xFFFF))
  | .ints es => pad16 (es.flatMap fun e => toBytes 4 e.toNat) ++ specialBytes (es.map fun _ => .none)

/-- A 32-bit word of a byte list. -/
def word32At (bs : List Byte) (off : Nat) : Word32 := BitVec.ofNat 32 (ofBytes (sliceBytes bs off 4))

/-- The special state of element `k` at an offset. -/
def specialAt (bs : List Byte) (off k : Nat) : Special :=
  specialOf (bitsOf (ofBytes (sliceBytes bs (off + k / 4) 1)) (2 * (k % 4)) 2)

/-- The group that a body of `c` elements holds (R268). A plain element without a finite term is carried as +0 (log entry 72). -/
def parseGroup (mode c : Nat) (isMax : Bool) (bs : List Byte) : Group :=
  match mode with
  | 0 =>
    .binned ((List.range c).map fun k =>
      let s (j : Nat) : Int := intOfF32 (word32At bs (16 * k + 4 * j))
      { topBin := ofBytes (sliceBytes bs (16 * c + k) 1), s0 := s 0, s1 := s 1, s2 := s 2, s3 := s 3
        special := specialAt bs (16 * c + roundup16 c) k })
  | 1 =>
    .plain ((List.range c).map fun k =>
      { sum := some (word32At bs (4 * k)), special := specialAt bs (roundup16 (4 * c)) k })
  | 4 => .ints ((List.range c).map fun k => word32At bs (4 * k))
  | _ =>
    .ext isMax ((List.range c).map fun k =>
      let w := ofBytes (sliceBytes bs (roundup16 (4 * c) + 2 * k) 2)
      { best := if w = 0xFFFF then none else some (word32At bs (4 * k), w) })

/-- Length of a body. -/
def bodyLength (mode c : Nat) : Nat :=
  match mode with
  | 0 => 16 * c + roundup16 c + roundup16 ((2 * c + 7) / 8)
  | 1 => roundup16 (4 * c) + roundup16 ((2 * c + 7) / 8)
  | 2 => roundup16 (4 * c) + roundup16 (2 * c)
  | 4 => roundup16 (4 * c) + roundup16 ((2 * c + 7) / 8)
  | _ => roundup16 (4 * c)

/-- Elements `a` to `a + n - 1` of a group. -/
def sliceGroup (a n : Nat) : Group → Group
  | .binned es => .binned ((es.drop a).take n)
  | .plain es => .plain ((es.drop a).take n)
  | .ext m es => .ext m ((es.drop a).take n)
  | .ints es => .ints ((es.drop a).take n)

/-- Elements of a group. -/
def groupLen : Group → Nat
  | .binned es => es.length
  | .plain es => es.length
  | .ext _ es => es.length
  | .ints es => es.length

/-- Two groups one after the other. -/
def appendGroup (a b : Group) : Group :=
  match a, b with
  | .binned x, .binned y => .binned (x ++ y)
  | .plain x, .plain y => .plain (x ++ y)
  | .ext m x, .ext _ y => .ext m (x ++ y)
  | .ints x, .ints y => .ints (x ++ y)
  | a, _ => a

/-- The 32-byte group sub-header (R267). -/
def groupHeader (id terms : Nat) (ovf bound sat nf backup : Bool) (mode cluster first count : Nat) : List Byte :=
  toBytes 32 (packFields
    [(0, 64, id), (64, 40, terms), (104, 1, b2n ovf), (105, 1, b2n bound), (106, 1, b2n sat), (107, 1, b2n nf),
     (108, 1, b2n backup), (112, 2, mode), (114, 9, cluster), (128, 13, first), (144, 11, count - 1)])

/-- The trailing entries of a PARTIAL whose NONFINITE flag is 1 (R268). -/
def slotBytes (a n : Nat) (l : List (Nat × Nat)) : List Byte :=
  pad16 ((l.filter fun e => decide (a ≤ e.1) && decide (e.1 < a + n)).flatMap fun e =>
    toBytes 4 (packFields [(0, 13, e.1), (16, 16, e.2)]))

/-- The payloads of a group, one for each packet of at most 2,048 elements (R267). -/
def groupPackets (id : Nat) (b : Bucket) (backup : Bool) (cluster : Nat) (partial' : Bool) : List (List Byte) :=
  let e := groupLen b.body
  let nf := groupNonfinite b.body || (partial' && !b.nonfinite.isEmpty)
  (List.range (max 1 ((e + 2047) / 2048))).map fun i =>
    let a := 2048 * i
    let n := min 2048 (e - a)
    groupHeader id b.terms false false b.saturated nf backup (bodyMode b.body) cluster a n ++
      groupBytes (sliceGroup a n b.body) ++ (if partial' && nf then slotBytes a n b.nonfinite else [])

/-- The payloads of a finished row gradient (R267, R286). -/
def resultPackets (g : RowGrad) : List (List Byte) :=
  let e := g.elems.length
  (List.range (max 1 ((e + 2047) / 2048))).map fun i =>
    let a := 2048 * i
    let xs := (g.elems.drop a).take 2048
    groupHeader g.key g.terms (decide (0 < g.ovf)) g.bound g.saturated (decide (0 < g.nonfinite)) false 3 0 a xs.length ++
      pad16 (xs.flatMap fun x => toBytes 4 x.toNat)

end Sys2Proof.Machine
end

