-- ==== Sys2Proof/Machine/Reduce.lean ====
section
/-! DEFINITION. Reduction jobs (R278 to R296): combiners, slots, releases, the checker, and the end of contributions. -/

namespace Sys2Proof.Machine

/-- A job is changed. -/
def updJob (id : Nat) (f : Job → Job) (s : State) : State := updChain (fun c => { c with jobs := Tab.upd c.jobs id f }) s

/-- A job that is open. -/
def job? (s : State) (id : Nat) : Option Job := Tab.get? s.work.chain.jobs id

/-- This device's chain address. -/
def me (s : State) : Nat := s.work.chain.addr

/-- The ranks of a mask, ascending. -/
def ranksOf (mask : Nat) : List Nat := (List.range 16).filter fun a => mask.testBit a

/-- The owner of a row under a map (R270). -/
def ownerIn (m : ShardMap) (index : Nat) : Nat :=
  match (m.entries.filter fun e => decide (e.1 ≤ index)).getLast? with
  | some e => e.2
  | none => 0

/-- The combiner of a key (R281). -/
def combinerOf (s : State) (j : Job) (key : Nat) : Nat :=
  let rs := ranksOf j.ranks
  if j.owner then ownerIn (Tab.getD s.work.chain.maps j.map {}) (keyIndex key)
  else if j.array then rs.getD (key % max 1 rs.length) 0
  else rs.getD ((mix64 key * rs.length) / 2 ^ 64) 0

/-- The devices that combine buckets of the job. -/
def combiners (s : State) (j : Job) : List Nat :=
  if j.owner then ((Tab.getD s.work.chain.maps j.map {}).entries.map Prod.snd).eraseDups else ranksOf j.ranks

/-- Standbys of the job (R278). -/
def standbys (j : Job) : List Nat :=
  ((j.backups.filterMap id).filter fun a => !j.ranks.testBit a).eraseDups

/-- The devices that receive this combiner's results (R286, R287). -/
def recipients (s : State) (j : Job) : List Nat :=
  if j.owner then [me s] else (ranksOf j.ranks) ++ standbys j

/-- The job's elements are INT32 (R54, R278). -/
def jobInts (j : Job) : Bool := j.array && decide (j.format = 9)

/-- The job's summation mode as an accumulator mode: INT32 elements are added as they are in plain mode (R54). -/
def jobMode (j : Job) : Nat := if !j.plain then 0 else if jobInts j then 4 else 1

/-- A released bucket finished (R286): in FP32, or in INT32 under R54. -/
def finishJob (j : Job) (key : Nat) (b : Bucket) : RowGrad := if jobInts j then finishInts key b else finishGrad key b

/-- A device has passed a key: it has sent one above it, or all it had (R283). An aborted device has passed what it sent. -/
def hasPassed (j : Job) (dev key : Nat) : Bool :=
  decide (key < Tab.getD j.passed dev 0) || (j.ranksDone.contains dev && !j.abortedRanks.contains dev)

/-- Every rank's slot of a bucket that opens now (R280, R283, R294): LATE where the rank's configuration differs, CLOSED where it has passed the
key, LATE where it has aborted or cannot be reached, and OPEN otherwise. -/
def openSlots (s : State) (j : Job) (key : Nat) : Tab RankSlot :=
  (ranksOf j.ranks).map fun r =>
    (r, { state :=
      if j.mismatched.contains r then .late
      else if hasPassed j r key then .closed
      else if j.abortedRanks.contains r || !reachable s r then .late else .opened })

/-- A LATE slot is settled at once where no standby backs its rank, or where the standby has passed the key (R284). -/
def settleSlot (j : Job) (b : JobBucket) (key r : Nat) (sl : RankSlot) : RankSlot × Nat :=
  if sl.state ≠ .late then (sl, 0)
  else match j.backups.getD r none with
    | none => ({ sl with state := .missing }, 0)
    | some a =>
      match Tab.get? b.backups r with
      | some x => ({ state := .filled, data := some x }, 1)
      | none =>
        if hasPassed j a key && !b.asked.contains a then ({ sl with state := .closed }, 0) else (sl, 0)

/-- The late slots of a bucket settled where they can be. -/
def settleBucket (j : Job) (key : Nat) (b : JobBucket) : JobBucket × Nat :=
  let xs := b.slots.map fun e => (e.1, settleSlot j b key e.1 e.2)
  ({ b with slots := xs.map fun e => (e.1, e.2.1) }, sumNat (xs.map fun e => e.2.2))

/-- No slot is OPEN or LATE (R283). -/
def bucketReady (b : JobBucket) : Bool := b.slots.all fun e => decide (e.2.state ≠ .opened) && decide (e.2.state ≠ .late)

/-- The lowest rank whose slot is MISSING. -/
def missingRank (b : JobBucket) : Option Nat := (b.slots.find? fun e => decide (e.2.state = .missing)).map Prod.fst

/-- The filled slots merged in ascending rank order (R286). -/
def combineBucket (j : Job) (b : JobBucket) : Bucket :=
  (b.slots.filterMap fun e => if e.2.state = .filled then e.2.data else none).foldl mergeBucket (emptyBucket (jobMode j) j.elems)

/-- Elements of a bucket that the checker recomputes (R293). -/
def checkedElems (key e : Nat) : List Nat := (List.range e).filter fun i => decide (mix64 (key ^^^ (i * 2 ^ 48)) % 1024 = 0)

/-- The cluster that combines a bucket: the model's own choice (R20). -/
def bucketCluster (s : State) (key : Nat) : Nat := clusterFor s (mix64 key % 512)

/-- The fault record of a check that found a mismatch (R293, R458). -/
def checkRecord (id key elem cluster : Nat) (second : Bool) : FaultRecord :=
  { cls := .reduceCheck, sev := if second then .dataLost else .corrected, location := locAccum cluster 0
    spec := packFields [(0, 12, id), (12, 1, b2n second), (64, 64, key), (128, 13, elem), (144, 9, cluster)] }

/-- The cluster on which a bucket is combined once more (R293): the next one in service. -/
def otherCluster (s : State) (c : Nat) : Nat :=
  (((serviceClusters s).filter fun x => decide (c < x)).head?).getD ((serviceClusters s).headD c)

/-- An array element written at the output (R286): FP32, or INT32 under R54. -/
def arrayOut (j : Job) (b : Nat) (g : RowGrad) (s : State) : State :=
  let n := min j.elems (j.count - b * j.elems)
  storeOut j.queue j.seq (j.outAddr + 4 * b * j.elems) ((g.elems.take n).flatMap fun x => toBytes 4 x.toNat) s

/-- The work of a SCATTER or FLUSH is changed. -/
def updWork (q n : Nat) (f : UpdateWork → UpdateWork) (s : State) : State :=
  updUpd (fun u => { u with works := Tab.upd u.works (tid q n) f }) s

/-- The key is a row of a table that the work binds, and of no front (R169). -/
def keyBound (s : State) (w : UpdateWork) (key : Nat) : Bool :=
  w.handles.contains (keyHandle key) &&
    (match tbl? s (keyHandle key) with
     | some t => decide (tdProbe t.desc = 0) && decide (keyIndex key ≤ tdRowLimit t.desc)
     | none => false)

/-- The directory entry of a key. -/
def dirIndex (w : UpdateWork) (key : Nat) : Option Nat := w.dir.findIdx? fun d => decide (d.1 = key)

/-- The first directory entry of a key that is not done (R168, R182). -/
def openEntry (w : UpdateWork) (key : Nat) : Option Nat :=
  (List.range w.dir.length).find? fun k => decide ((w.dir.getD k (0, 0, 0)).1 = key) && !w.doneRows.contains k

/-- A row is done for the commit map (R182). -/
def rowDone (key : Nat) (w : UpdateWork) : UpdateWork :=
  match openEntry w key with
  | some k => { w with doneRows := w.doneRows ++ [k] }
  | none => w

/-- The program that a table was bound with at admission (R208). -/
def boundProgram (w : UpdateWork) (h : Nat) : Option Program :=
  (Tab.get? w.slots h).bind fun i => (w.programs.find? fun p => decide (p.1 = i)).map Prod.snd

/-- The first non-finite row gradient is the one of the lowest key (R174). -/
def firstNfOf (old : Option (Nat × Nat)) (g : RowGrad) : Option (Nat × Nat) :=
  match firstNonfinite g with
  | none => old
  | some e => match old with
    | some (k, x) => if k ≤ g.key then some (k, x) else some (g.key, e)
    | none => some (g.key, e)

/-- A finished row gradient is taken (R169, R171, R174): its flags count, and it waits for its row program, is skipped, or belongs to
a table that was bound without a program. A row that is done for the map is not updated again (R182). -/
def takeGrad (q n : Nat) (g : RowGrad) (s : State) : State :=
  match Tab.get? s.work.upd.works (tid q n) with
  | none => s
  | some w =>
    if !keyBound s w g.key then
      if (dirIndex w g.key).isSome then s else updWork q n (fun w => { w with notBound := w.notBound + 1 }) s
    else if (dirIndex w g.key).isSome && (openEntry w g.key).isNone then s
    else
      let frozen := (boundProgram w (keyHandle g.key)).isNone
      let nf := decide (0 < g.nonfinite)
      updWork q n (fun w =>
        let w := { w with
          ovf := w.ovf + g.ovf, boundExceeded := w.boundExceeded + b2n g.bound
          termsSaturated := w.termsSaturated + b2n g.saturated, nonfinite := w.nonfinite + g.nonfinite
          firstNf := if nf then firstNfOf w.firstNf g else w.firstNf }
        if frozen then rowDone g.key { w with frozen := w.frozen + 1 }
        else if nf && w.skipRow then rowDone g.key { w with skipped := w.skipped + 1 }
        else { w with ready := w.ready ++ [g] }) s

/-- A finished row gradient is applied on this device: it waits for its row program at the contributor, or for the contributor, or is written
to the output array (R285, R286). -/
def applyResult (id : Nat) (g : RowGrad) (s : State) : State :=
  match job? s id with
  | none => s
  | some j =>
    if j.aborted then s
    else if j.array then arrayOut j g.key g s
    else match j.contributor with
      | some (q, n) => takeGrad q n g s
      | none => updJob id (fun j => { j with results := j.results ++ [g] }) s

/-- A SCATTER or FLUSH becomes the job's contributor, and takes the results that came before it (R286). -/
def joinJob (id q n : Nat) (s : State) : State :=
  match job? s id with
  | none => s
  | some j => j.results.foldl (fun s g => takeGrad q n g s) (updJob id (fun j => { j with contributor := some (q, n), results := [] }) s)

/-- A released bucket's result goes to every device that receives it (R286). -/
def sendResult (id : Nat) (j : Job) (g : RowGrad) (s : State) : State :=
  (recipients s j).foldl (fun s d =>
    if d = me s then applyResult id g s
    else
      let ps := resultPackets g
      (ps.zip (List.range ps.length)).foldl (fun s p =>
        peerSend 4 d id j.ctx 0 (decide (p.2 + 1 = ps.length)) p.1 s) s) s

/-- The checker's comparison of a bucket: whether an engine has erred, and where, is free (R293; log entry 61). A mismatch is recorded, the
bucket is combined once more on another cluster, and a second mismatch ends it. The flag tells that it is released. -/
def checkBucket (id : Nat) (j : Job) (key : Nat) (s : State) : Bool × State :=
  let xs := checkedElems key j.elems
  let n := s.freeCtr
  let samples (k : Nat) (s : State) : State := updJob id (fun j => { j with checkSamples := satAdd 32 j.checkSamples (k * xs.length) }) s
  let s := if xs.isEmpty then s else { s with freeCtr := n + 2 }
  match xs[Config.checkMiss n]? with
  | none => (true, samples 1 s)
  | some i =>
    let c := bucketCluster s key
    let s := faultRecord (checkRecord id key i c false) s
    match xs[Config.checkMiss (n + 1)]? with
    | none => (true, samples 2 (updJob id (fun j => { j with checkRetried := satAdd 16 j.checkRetried 1 }) s))
    | some i =>
      (false, samples 2 (updJob id (fun j => { j with checkFailed := satAdd 16 j.checkFailed 1 })
        (faultRecord (checkRecord id key i (otherCluster s c) true) s)))

/-- Ranks of which a slot of the bucket is MISSING have had a settlement (R287). -/
def slotsMissed (j : Job) (b : JobBucket) : List Nat :=
  (b.slots.filter fun e => decide (e.2.state = .missing)).foldl (fun l e => insertNew e.1 l) j.missed

/-- The bucket of a key is released or ended, where every slot is settled (R284, R286, R293). -/
def releaseBucket (id key : Nat) (s : State) : State :=
  match job? s id with
  | none => s
  | some j =>
    match Tab.get? j.buckets key with
    | none => s
    | some b0 =>
      let (b, used) := settleBucket j key b0
      let s := updJob id (fun j => { j with buckets := Tab.put j.buckets key b, backupUsed := satAdd 32 j.backupUsed used }) s
      if !bucketReady b then s
      else
        let s := updJob id (fun j => { j with buckets := Tab.del j.buckets key, ended := j.ended ++ [key], missed := slotsMissed j b }) s
        match missingRank b with
        | some r =>
          updJob id (fun j => { j with
            missing := satAdd 32 j.missing 1
            firstMissing := match j.firstMissing with
              | some (k, r') => if k < key then some (k, r') else some (key, r)
              | none => some (key, r) }) s
        | none =>
          match checkBucket id j key s with
          | (false, s) => s
          | (true, s) => sendResult id j (finishJob j key (combineBucket j b)) (updJob id (fun j => { j with released := satAdd 32 j.released 1 }) s)

/-- Every bucket that can be released is (R283). -/
def releaseAll (id : Nat) (s : State) : State :=
  match job? s id with
  | none => s
  | some j => (j.buckets.map Prod.fst).foldl (fun s k => releaseBucket id k s) s

/-- COMBINER_DONE in the model's own layout (log entry 16): bit 0 tells that this device ended buckets as missing, bit 1 that the
receiver's configuration differs. -/
def combinerDoneBytes (missing mismatch : Bool) : List Byte := toBytes 16 (b2n missing + 2 * b2n mismatch)

/-- A device's COMBINER_DONE is taken (R287). -/
def tookCombinerDone (id from' : Nat) (s : State) : State :=
  updJob id (fun j => { j with
    combinersDone := if j.combinersDone.contains from' then j.combinersDone else j.combinersDone ++ [from'] }) s

/-- A rank has sent RANK_DONE or has had a settlement (R284, R287): a slot of it is MISSING, or it has aborted, has another configuration or cannot be
reached, and nothing more is to come from the standby that backs it. -/
def rankSettled (s : State) (j : Job) (r : Nat) : Bool :=
  (j.ranksDone.contains r && !j.abortedRanks.contains r) || j.missed.contains r ||
    ((j.abortedRanks.contains r || j.mismatched.contains r || !reachable s r) && (match j.backups.getD r none with
      | none => true
      | some a => j.ranksDone.contains a || !reachable s a))

/-- The combiner has released or ended every bucket, and every rank is done or settled: COMBINER_DONE goes to every device that
receives its results (R287). -/
def combinerCheck (id : Nat) (s : State) : State :=
  match job? s id with
  | none => s
  | some j =>
    if (combiners s j).contains (me s) ∧ j.closed = false ∧ j.doneReported = false ∧ j.buckets.isEmpty ∧ (ranksOf j.ranks).all (rankSettled s j) then
      let s := updJob id (fun j => { j with doneReported := true }) s
      (recipients s j).foldl (fun s d =>
        if d = me s then tookCombinerDone id d s
        else peerSend 6 d id j.ctx 0 true (combinerDoneBytes (decide (0 < j.missing)) false) s) s
    else s

/-- OPEN slots of a rank become LATE (R283, R294). -/
def lateRank (id r : Nat) (s : State) : State :=
  let s := updJob id (fun j => { j with
    buckets := j.buckets.map fun e =>
      (e.1, { e.2 with slots := Tab.upd e.2.slots r fun sl => if sl.state = .opened then { sl with state := .late } else sl }) }) s
  combinerCheck id (releaseAll id s)

/-- Ranks that cannot be reached are late, in every open job (R259, R283). -/
def lateUnreachable (s : State) : State :=
  (s.work.chain.jobs.filter fun e => !e.2.aborted).foldl (fun (s : State) e =>
    ((ranksOf e.2.ranks).filter fun r => !reachable s r).foldl (fun s r => lateRank e.1 r s) s) s

/-- The flow of a device has passed every key below `n`: its OPEN and LATE slots there become CLOSED, but for those of buckets that it has been
asked to send again (R283, R294). -/
def passedBy (id dev n : Nat) (s : State) : State :=
  let s := updJob id (fun j => { j with
    passed := Tab.put j.passed dev (max n (Tab.getD j.passed dev 0))
    buckets := j.buckets.map fun e =>
      if e.1 < n ∧ !e.2.asked.contains dev ∧ !j.mismatched.contains dev then
        (e.1, { e.2 with slots := Tab.upd e.2.slots dev fun sl =>
          if sl.state = .opened ∨ sl.state = .late then { sl with state := .closed } else sl })
      else e }) s
  releaseAll id s

/-- The ranks that a standby backs. -/
def backedBy (j : Job) (a : Nat) : List Nat :=
  ((List.range 16).zip j.backups).filterMap fun e => if e.2 = some a then some e.1 else none

/-- A contribution that came too late is discarded and counted (R284). -/
def discardContrib (id : Nat) (s : State) : State := updJob id (fun j => { j with lateDiscarded := satAdd 32 j.lateDiscarded 1 }) s

/-- A contribution enters the bucket of its key, which opens with it where it is the first: a backup is held for the slots of the ranks that its
sender backs, and a rank's own fills its slot where that is OPEN or LATE (R283 to R285). -/
def enterContrib (id src key : Nat) (backup : Bool) (x : Bucket) (s : State) : State :=
  match job? s id with
  | none => s
  | some j =>
    let b := (Tab.get? j.buckets key).getD { openedAt := s.clock, slots := openSlots s j key }
    let b := { b with asked := b.asked.filter fun a => decide (a ≠ src) }
    let put (b : JobBucket) : State := updJob id (fun j => { j with buckets := Tab.put j.buckets key b }) s
    if backup then put { b with backups := (backedBy j src).foldl (fun t r => Tab.put t r x) b.backups }
    else
      let st := (Tab.getD b.slots src {}).state
      if st = .opened ∨ st = .late then put { b with slots := Tab.put b.slots src { state := .filled, data := some x } }
      else discardContrib id (put b)

/-- A contribution for a key arrives at its combiner (R283, R284, R285). A backup is held only until its bucket is released, and is not counted
where it comes later (log entry 61). -/
def takeContrib (id src key : Nat) (backup : Bool) (x : Bucket) (s : State) : State :=
  match job? s id with
  | none => s
  | some j =>
    if j.aborted || j.doneReported || j.ended.contains key then
      let s := if backup then s else discardContrib id s
      if j.aborted then s else passedBy id src key s
    else
      let s := passedBy id src key (updJob id (fun j => { j with missed := j.missed.filter fun r => decide (r ≠ src) }) s)
      combinerCheck id (releaseBucket id key (enterContrib id src key backup x s))

/-- RANK_DONE of a device (R282, R283, R294). -/
def takeRankDone (id src : Nat) (abort : Bool) (s : State) : State :=
  let s := updJob id (fun j => { j with
    ranksDone := insertNew src j.ranksDone, abortedRanks := if abort then insertNew src j.abortedRanks else j.abortedRanks }) s
  let s := if abort then lateRank id src s else passedBy id src (2 ^ 64) s
  combinerCheck id (releaseAll id s)

/-- The CRC of a job's configuration (R280), over the task-specific fields it names as they lie in the descriptor. -/
def jobCrc (t : Task) : Nat :=
  let x := ofBytes t.part
  crc32c (toBytes 4 (bitsOf x 0 16) ++ toBytes 2 (bitsOf x 16 16) ++ toBytes 2 (bitsOf x 32 13) ++ toBytes 2 (bitsOf x 48 16) ++
    toBytes 10 (bitsOf x 64 80) ++ toBytes 4 (bitsOf x 144 32))

/-- This device sends RANK_DONE to every combiner (R282). -/
def sendRankDone (id : Nat) (abort : Bool) (s : State) : State :=
  match job? s id with
  | none => s
  | some j =>
    let s := updJob id (fun j => { j with doneSent := true }) s
    (combiners s j).foldl (fun s d =>
      if d = me s then takeRankDone id d abort s
      else peerSend 5 d id j.ctx 0 true (toBytes 16 (packFields [(0, 1, b2n abort), (32, 32, j.crc)])) s) s

/-- This device contributes a bucket (R282, R285): to itself at once, or in packets whose first of the job carries the CRC. -/
def contribute (id key : Nat) (x : Bucket) (s : State) : State :=
  match job? s id with
  | none => s
  | some j =>
    let x := renormBucket x
    let backup := !j.ranks.testBit (me s)
    let d := combinerOf s j key
    let s := updJob id (fun j => { j with rowsSent := satAdd 32 j.rowsSent 1 }) s
    if d = me s then takeContrib id d key backup x s
    else
      let first := !j.seenFrom.contains (16 + d)
      let s := updJob id (fun j => { j with seenFrom := if first then j.seenFrom ++ [16 + d] else j.seenFrom }) s
      let ps := groupPackets key x backup 0 false
      (ps.zip (List.range ps.length)).foldl (fun s p =>
        let crc := if first && decide (p.2 = 0) then toBytes 16 j.crc else []
        peerSend 3 d id j.ctx 0 (decide (p.2 + 1 = ps.length)) (p.1 ++ crc) s) s

/-- The combiner has acknowledged this device's RANK_DONE (R287). -/
def rankDoneAcked (s : State) (id d : Nat) : Bool :=
  !((Tab.getD s.work.chain.flows (flowKey d id) {}).unacked.any fun p => decide (bits p.hdr 0 4 = 5) && !p.gone)

/-- The combiners whose results this device receives (R286, R287). -/
def resultsFrom (s : State) (j : Job) : List Nat :=
  if j.owner then (if (combiners s j).contains (me s) then [me s] else []) else combiners s j

/-- This device waits on a combiner: for the acknowledgement of RANK_DONE, or for its COMBINER_DONE (R287, R294). -/
def waitsOn (s : State) (id : Nat) (j : Job) (d : Nat) : Bool :=
  !j.closed && !j.lost.contains d && (!rankDoneAcked s id d || ((resultsFrom s j).contains d && !j.combinersDone.contains d))

/-- The final state of a REDUCE whose contribution and combiner duties have ended (R296). -/
def jobStatus (j : Job) : Status :=
  if 0 < j.checkFailed then .reduceCheck
  else if 0 < j.missing then .contributionMissing
  else if 0 < j.lost.length then .chainUnreachable
  else .ok

/-- The completion part of a REDUCE (R295). -/
def jobRecord (j : Job) : List Byte :=
  toBytes 64 (packFields
    [(0, 32, j.released), (32, 32, j.missing), (64, 32, j.backupUsed), (96, 32, j.lateDiscarded), (128, 32, j.rowsSent),
     (160, 32, j.withheld), (192, 32, j.spilled), (224, 32, j.checkSamples), (256, 16, j.checkRetried),
     (272, 16, j.checkFailed), (288, 4, min 15 j.lost.length), (320, 64, (j.firstMissing.map Prod.fst).getD 0),
     (384, 4, (j.firstMissing.map Prod.snd).getD 0), (388, 1, b2n j.firstMissing.isSome)])

/-! ### Residual buffers (R290, R291) -/

/-- One residual entry. -/
def residEntry (key : Nat) (x : Bucket) : List Byte :=
  toBytes 16 (packFields [(0, 64, key), (64, 40, x.terms)]) ++ groupBytes x.body

/-- Bytes of a residual entry. -/
def residEntryBytes (mode e : Nat) : Nat := 16 + bodyLength mode e

/-- An accumulator element that two free words make (R42). -/
def freeElem (n : Nat) : BinElem :=
  let a := (Config.freeWord n).toNat
  let b := (Config.freeWord (n + 1)).toNat
  let s (j : Nat) : Int := (bitsOf b (13 * j) 13 : Int) - 4096
  { topBin := bitsOf a 0 8, s0 := s 0, s1 := s 1, s2 := s 2, s3 := s 3, special := specialOf (bitsOf a 8 2) }

/-- A group of `e` elements made of the free words from number `n` on: what an entry that software has changed finishes as (R42). -/
def freeGroup (mode e n : Nat) : Group :=
  let word (k : Nat) : Word32 := (Config.freeWord (n + 2 * k)).setWidth 32
  match mode with
  | 0 => .binned ((List.range e).map fun k => freeElem (n + 2 * k))
  | 1 => .plain ((List.range e).map fun k => { sum := some (word k), special := specialOf (bitsOf (Config.freeWord (n + 2 * k + 1)).toNat 0 2) })
  | _ => .ints ((List.range e).map word)

/-- Entries that a residual buffer holds. -/
def residCount (s : State) (addr : Nat) : Nat :=
  let head := devNat s addr 64
  if bitsOf head 0 32 = 0 then 0 else bitsOf head 96 32

/-- The entries of a residual buffer. The body of one that this device did not write is free (R42; log entry 25). -/
def residRead (s : State) (addr mode e : Nat) : List (Nat × Bucket) :=
  let len := residEntryBytes mode e
  (List.range (residCount s addr)).map fun i =>
    let a := addr + 64 + i * len
    let bs := devRead s a len
    let h := ofBytes (bs.take 16)
    (bitsOf h 0 64, { terms := bitsOf h 64 40
                      body := if s.work.chain.residuals.contains bs then parseGroup mode e false (bs.drop 16)
                        else freeGroup mode e (s.freeCtr + 2 * e * i) })

/-- The free words that reading a residual buffer may have taken are used up. -/
def residSpent (addr e : Nat) (s : State) : State := { s with freeCtr := s.freeCtr + 2 * e * residCount s addr }

/-- The header or an entry of a residual buffer holds a lost word (R449). -/
def residLost (s : State) (addr mode e : Nat) : Option Nat :=
  let head := devNat s addr 64
  areaFenced s addr (64 + (if bitsOf head 0 32 = 0 then 0 else bitsOf head 96 32 * residEntryBytes mode e))

/-- The header of a residual buffer (R290). -/
def residHeader (ctx mode e n : Nat) : List Byte :=
  toBytes 64 (packFields [(0, 32, 0x44534552), (32, 16, 1), (64, 13, e - 1), (77, 1, b2n (mode ≠ 0)), (80, 8, ctx), (96, 32, n),
    (128, 32, residEntryBytes mode e)])

/-- The buffer is written: entries, then the header (R291). -/
def residWrite (queue seq ctx addr mode e : Nat) (es : List (Nat × Bucket)) (s : State) : State :=
  let xs := es.map fun p => residEntry p.1 p.2
  let s := updChain (fun c => { c with residuals := xs.foldl (fun l x => if l.contains x then l else l ++ [x]) c.residuals }) s
  let s := taskWrite queue seq (addr + 64) xs.flatten s
  taskWrite queue seq addr (residHeader ctx mode e es.length) s

/-- The header breaks R290 for a task. -/
def residBad (s : State) (ctx addr mode e bytes : Nat) : Bool :=
  let h := devNat s addr 64
  if bitsOf h 0 32 = 0 then decide (bytes < 64)
  else !(decide (bitsOf h 0 32 = 0x44534552) && decide (bitsOf h 32 16 = 1) && decide (bitsOf h 48 16 = 0) &&
    decide (bitsOf h 64 13 + 1 = e) && decide (bitsOf h 77 1 = b2n (mode ≠ 0)) && decide (bitsOf h 78 2 = 0) &&
    decide (bitsOf h 80 8 = ctx) && decide (bitsOf h 88 8 = 0) && decide (bitsOf h 128 32 = residEntryBytes mode e) &&
    decide (bitsOf h 160 352 = 0) && decide (64 + bitsOf h 96 32 * residEntryBytes mode e ≤ bytes))

/-! ### Groups in packets (R267) -/

/-- Some packets of a group have arrived: they join, and the whole group is taken when LAST has come (R267). -/
def gatherGroup (p : PeerPkt) (id : Nat) (b : Bucket) (s : State) : Option Bucket × State :=
  let mine (g : Gathering) : Bool :=
    decide (g.src = pktSrc p) && decide (g.job = pktJob p) && decide (g.type = pktType p) && decide (g.id = id)
  let b := match s.work.chain.gathering.find? mine with
    | some g => { b with body := appendGroup g.bucket.body b.body, nonfinite := g.bucket.nonfinite ++ b.nonfinite }
    | none => b
  let rest := s.work.chain.gathering.filter fun g => !mine g
  if pktLast p then (some b, updChain (fun c => { c with gathering := rest }) s)
  else
    let g : Gathering := { src := pktSrc p, job := pktJob p, type := pktType p, id := id, bucket := b }
    (none, updChain (fun c => { c with gathering := rest ++ [g] }) s)

/-- The group that a payload holds, its ID, whether it is a backup, and the bytes after the body (R267, R268). -/
def groupOf (mode : Nat) (bs : List Byte) : Nat × Bool × Bucket × List Byte :=
  let h := ofBytes (bs.take 32)
  let c := bitsOf h 144 11 + 1
  let len := bodyLength (bitsOf h 112 2) c
  (bitsOf h 0 64, decide (bitsOf h 108 1 = 1),
   { terms := bitsOf h 64 40, saturated := decide (bitsOf h 106 1 = 1), body := parseGroup mode c (mode == 2) ((bs.drop 32).take len) },
   bs.drop (32 + len))

end Sys2Proof.Machine
end

