-- ==== Sys2Proof/Machine/Accum.lean ====
section
/-! DEFINITION. What the clusters' accumulator memories and transit banks hold (R16, R27, R137, R140, R141, R171): every frame is counted,
whether it belongs to a LOOKUP, to another device's LOOKUP, or to a SCATTER. -/

namespace Sys2Proof.Machine

/-- The accumulation mode of a pooling mode (R144): 0 binned, 1 plain, 2 maximum, 3 minimum. -/
def poolGroup (poolMode : Nat) (plain : Bool) : Nat :=
  if poolMode = 3 then 2 else if poolMode = 4 then 3 else if plain then 1 else 0

/-- Bytes of a frame: a 16-byte header and 20 B an element in binned mode, 8 B in every other (R140). -/
def frameSize (mode elems : Nat) : Nat := 16 + elems * (if mode = 0 then 20 else 8)

/-- Bytes of a look-up's frame. -/
def frameBytes (w : LookupWork) : Nat := frameSize (poolGroup w.poolMode w.plain) w.elems

/-- Frames that a look-up holds in a cluster: partials there, and bags whose home it is and that are not delivered (R140, R141). -/
def framesIn (w : LookupWork) (c : Nat) : Nat :=
  let homes := (w.homes.filter fun e => decide (e.2 = c) && !w.delivered.contains e.1).map Prod.fst
  let parts := (w.frames.filter fun e => decide (e.1 % 512 = c) && !homes.contains (e.1 / 512)).length
  homes.length + parts

/-- Bytes of another device's look-up in a cluster (R273). -/
def remoteBytes (x : RemoteTask) (c : Nat) : Nat :=
  (x.frames.filter fun e => decide (e.1 % 512 = c)).length * frameSize (poolGroup x.poolMode x.plain) x.elems

/-- Bytes of a row gradient bucket's frame (R171). -/
def bucketBytes (w : UpdateWork) : Nat := frameSize (if w.plain then 1 else 0) w.elems

/-- Frames of a SCATTER in a cluster: the buckets that it finishes there, and shard buckets that are combined there (R171, R172). -/
def bucketsIn (w : UpdateWork) (c : Nat) : Nat :=
  (w.homes.filter fun e => decide (e.2 = c)).length + (w.shardAt.filter fun e => decide (e.2 = c)).length

/-- Bytes of a cluster's accumulator memory in use. -/
def accumUsed (s : State) (c : Nat) : Nat :=
  sumNat (s.work.idx.lookups.map fun e => framesIn e.2 c * frameBytes e.2) +
    sumNat (s.work.chain.remotes.map fun e => remoteBytes e.2 c) +
    sumNat (s.work.upd.works.map fun e => bucketsIn e.2 c * bucketBytes e.2)

/-- Accumulator memory of a cluster: 2 MiB (R16, R141). -/
def accumBytes : Nat := 2097152

/-- The cluster has room for `n` more bytes of frames. -/
def accumRoom (s : State) (c n : Nat) : Bool := decide (accumUsed s c + n ≤ accumBytes)

/-! ### Transit banks (R137) -/

/-- Transit banks that a row takes: its data part in banks of 6,144 B. -/
def transitNeed (data : Option (List Byte)) : Nat := match data with
  | some bs => max 1 ((bs.length + 6143) / 6144)
  | none => 0

/-- Transit banks of a cluster in use. -/
def transitUsed (s : State) (c : Nat) : Nat :=
  sumNat (s.work.idx.lookups.flatMap fun e => (e.2.rows.filter fun r => decide (r.2.cluster = c)).map fun r => r.2.transit)

/-- The cluster lends a transit bank for the row: it has spare cores out of service, and they are not all in use. A row that is larger than
all of them passes through them alone. DESIGN CHOICE (log entry 75). -/
def transitRoom (s : State) (c need : Nat) : Bool :=
  decide (0 < spareCores s c) && (decide (transitUsed s c + need ≤ spareCores s c) || decide (transitUsed s c = 0))

end Sys2Proof.Machine
end

