-- ==== Sys2Proof/Machine/RowLoss.lean ====
section
/-! DEFINITION. Rows that are lost outside a read (R185, R400, R448, R458). -/

namespace Sys2Proof.Machine

/-- The number of the counter ROWS_FENCED (R457, R484). -/
def rowsFencedCtr : Nat := 0x118

/-- A ROW_LOST record: CAUSE 1 UNPROTECTED_CLUSTER_LOSS, 2 T3_NOT_INTACT, 3 STACK_LOST (R458, R521). -/
def rowLostRecord (cause key : Nat) (s : State) : State :=
  faultRecord
    { cls := .rowLost, sev := .dataLost, ctx := (tbl? s (keyHandle key)).map Table.ctx
      spec := packFields [(0, 4, cause), (64, 64, key)] } (countAt rowsFencedCtr 1 s)

/-- Location code of a place (R459). -/
def placeLoc (p : Place) : Nat :=
  if p.tier = 0 then locBank p.addr 0 else if p.tier = 4 then p.addr / 16 * 16 + LocKind.flash.code else locDev p.addr

/-- Location code of the first word of a row's working version, where it lies now (R459). -/
def rowLoc (s : State) (key : Nat) : Nat :=
  let r := rowOf s key
  match r.t0 with
  | some c => locBank (c.cluster * 2048 + c.core) 0
  | none => placeLoc r.place

/-- The row's move is given up, and the row stays where it is (R237, R239). -/
def abandonMove (key : Nat) (s : State) : State :=
  if (rowOf s key).moving then
    count .driftMovesAbandoned 1 (freePages (keyHandle key) (t4Drop (.move key) (updRow key (fun r => { r with move := none }) s)))
  else s

/-- The working version of a row is fenced for the word at a location, by the record about to be written; a move that was copying it is given
up (R239, R446, R448). -/
def fenceRow (key loc : Nat) (s : State) : State :=
  abandonMove key (updRow key (fun r => { r with fenced := true, lostAt := loc, fencedBy := s.fq.recordSeq }) s)

/-- The working version of a row is lost whole, fenced and named in a record (R448, R458). -/
def loseRow (cause key : Nat) (s : State) : State :=
  if (rowOf s key).fenced then s else rowLostRecord cause key (fenceRow key (rowLoc s key) s)

/-- A word of a row with no good copy cannot be corrected: the row is fenced and named (R447, R448, R458). -/
def loseRowWord (path loc key : Nat) (task : Option (Nat × Nat)) (s : State) : State :=
  let ctx := (tbl? s (keyHandle key)).map Table.ctx
  uncorrRecord path loc true false false (some key) none ctx task (countAt rowsFencedCtr 1 (fenceRow key loc s))

/-- The delta versions of a row that satisfy a test are fenced, each at its place (R448). -/
def fenceDeltas (key : Nat) (bad : Delta → Bool) (loc : Delta → Nat) (s : State) : State :=
  let mark (d : Delta) : Delta := if bad d then { d with fenced := true, lostAt := loc d, fencedBy := s.fq.recordSeq } else d
  updRow key (fun r => { r with deltas := r.deltas.map mark }) s

/-- The lowest generation that reads a delta version (R86, R458). -/
def lowestReader (t : Table) (d : Delta) : Nat :=
  ((t.gens.map Prod.fst).filter fun g => decide (d.lo ≤ g) && decide (g ≤ d.hi)).foldl min d.hi

/-- The first delta version of a row that satisfies a test. -/
def firstDelta (s : State) (key : Nat) (bad : Delta → Bool) : Option Delta := (rowOf s key).deltas.find? bad

/-- A word of a delta version that has no other copy cannot be corrected: that version alone is fenced, and named by the lowest generation that
reads it (R447, R448, R458). -/
def loseDeltaWord (path loc key : Nat) (bad : Delta → Bool) (task : Option (Nat × Nat)) (s : State) : State :=
  match tbl? s (keyHandle key), firstDelta s key bad with
  | some t, some d => uncorrRecord path loc true false false (some key) (some (lowestReader t d)) (some t.ctx) task
      (countAt rowsFencedCtr 1 (fenceDeltas key bad (fun _ => loc) s))
  | _, _ => s

/-- The delta versions of a row at places that satisfy a test are lost whole; the row is named once (R448, R458). -/
def loseDeltas (cause key : Nat) (p : Place → Bool) (s : State) : State :=
  let bad (d : Delta) : Bool := p d.place && d.data.isSome && !d.fenced
  if (rowOf s key).deltas.any bad then rowLostRecord cause key (fenceDeltas key bad (fun d => placeLoc d.place) s) else s

/-- Every row version that a tier held at places that pass the test is fenced. -/
def loseTier (cause tier : Nat) (p : Place → Bool) (s : State) : State :=
  s.work.tbl.rows.foldl (fun (s : State) (e : Nat × Row) =>
    let s := if e.2.place.tier = tier ∧ p e.2.place then loseRow cause e.1 s else s
    loseDeltas cause e.1 (fun x => decide (x.tier = tier) && p x) s) s

/-- A cold page cannot be read: its medium failed, or its block does not decode. Every row version in it that has no T0 copy is fenced at the
page's location and named, the reader's with the task (R244, R252, R441, R447, R448). -/
def losePage (loc h k : Nat) (reader : Option (Nat × Option (Nat × Nat))) (s : State) : State :=
  let inPage (p : Place) (n : Nat) : Bool := (p.pages n).contains k
  let rows := ((tableRows s h).filter fun e =>
    inPage e.2.place (placedOf s e.1) && e.2.t0.isNone && decide (e.2.chain = 0) && !e.2.fenced).map Prod.fst
  let P := match tbl? s h with
    | some t => dataBytes (shapeOf t.desc)
    | none => 0
  let badDelta (d : Delta) : Bool := inPage d.place (d.placed P) && d.data.isSome && !d.fenced
  let keys := ((tableRows s h).filter fun e => rows.contains e.1 || e.2.deltas.any badDelta).map Prod.fst
  let one (s : State) (key : Nat) : State :=
    let task := match reader with
      | some (x, task) => if x = key then task else none
      | none => none
    if rows.contains key then loseRowWord 1 loc key task (fenceDeltas key badDelta (fun _ => loc) s)
    else loseDeltaWord 1 loc key badDelta task s
  let first := keys.filter fun x => decide (some x ≠ reader.map Prod.fst)
  let last := keys.filter fun x => decide (some x = reader.map Prod.fst)
  (first ++ last).foldl one s

/-- RECORD_SEQ of the record that named the loss of a row version at a location: of the working version, or else of a delta version. -/
def lossSeq (s : State) (key loc : Nat) : Nat :=
  let r := rowOf s key
  if r.fenced ∧ r.lostAt = loc then r.fencedBy
  else match firstDelta s key fun d => d.fenced && decide (d.lostAt = loc) with
    | some d => d.fencedBy
    | none => r.fencedBy

/-- Location code of a cold page (R459). -/
def pageLoc (s : State) (h k : Nat) : Nat :=
  match coldPage s h k with
  | some pg => placeLoc { tier := pg.tier, addr := pg.base }
  | none => 0

end Sys2Proof.Machine
end

