-- ==== Sys2Proof/Machine/Remote.lean ====
section
/-! DEFINITION. Reading and pooling rows: what a read comes to (R137, R157, R177, R253), terms and frames (R139 to R145), and the
probes that this device pools for another (R273 to R275). -/

namespace Sys2Proof.Machine

/-- This device owns the row, or its table is not sharded (R272). -/
def ownsRow (s : State) (t : Table) (index : Nat) : Bool :=
  !tdSharded t.desc || decide (ownerIn (Tab.getD s.work.chain.maps (tdShardMap t.desc) {}) index = me s)

/-! ### Reads -/

/-- What a read of a row for pooling comes to. -/
inductive RowGet where
  /-- The data part, none where it was never written, and all that was read. -/
  | got (data : Option (List Byte)) (bytes : List Byte)
  /-- The row is committing, and the reader is bound to the working generation (R177), or the host agent has been asked. -/
  | wait
  /-- The version read is fenced (R448). -/
  | lost
  /-- The backing location cannot be reached (R253). -/
  | away
  deriving DecidableEq, Repr

/-- A reader bound to a generation, or to the working one, reads a row as the state holds it (R79, R86, R177, R448). -/
def readFor (s : State) (key : Nat) (gen : Option Nat) : RowGet :=
  match tbl? s (keyHandle key) with
  | none => .got none []
  | some t =>
    let r := rowOf s key
    let v := readVersion t r gen
    if v.2 then .lost
    else if gen.isNone && r.committing then .wait
    else if seesWorking s key gen && r.t0.isNone && decide (r.chain ≠ 0) && !reachable s (r.chain - 1) then .away
    else .got v.1 (v.1.getD [])

/-- A reader's read goes to where the version lies, and its page is decoded. A page that does not decode is lost (R242, R244, R251,
R253). -/
def takeRead (reader key : Nat) (gen : Option Nat) (task : Option (Nat × Nat)) (s : State) : RowGet × State :=
  match readFor s key gen, readPlace s key gen with
  | .got v _, some (p, now) =>
    let h := keyHandle key
    (match fetch s (.read reader key) h p now with
     | .got bs => (.got (v.map fun d => bs.take d.length) bs, drawRead task p bs.length s)
     | .wait s => (.wait, s)
     | .away => (.away, s)
     | .broken k => (.lost, losePage (pageLoc s h k) h k (some (key, task)) s))
  | r, _ => (r, s)

/-- The lost word that a reader of a fenced version meets: its location code and the RECORD_SEQ that named it (R157, R446, R448). -/
def lostWord (s : State) (key : Nat) (gen : Option Nat) : Nat × Nat :=
  let r := rowOf s key
  match seesWorking s key gen, gen.bind fun g => r.deltas.find? fun d => decide (d.lo ≤ g) && decide (g ≤ d.hi) with
  | false, some d => (d.lostAt, d.fencedBy)
  | _, _ => (r.lostAt, r.fencedBy)

/-- The placement logic allocates a line on the read (R221). -/
def allocatesLine (s : State) (key : Nat) (gen : Option Nat) : Bool :=
  let r := rowOf s key
  match tbl? s (keyHandle key) with
  | none => false
  | some t => seesWorking s key gen && r.written && r.t0.isNone && r.move.isNone && !r.committing && !r.fenced && decide (r.chain = 0) &&
      decide (tdMode t.desc = 0) && decide (t.part.nsets ≠ 0) && decide (2 ≤ loadOf s key)

/-- A row that has been read enters the device: it counts for its shard, and takes a line where the read allocates one (R19, R221, R232).
The flag is false where the line is still leaving, and the read waits (R220, R223). -/
def enterRow (reader key : Nat) (gen : Option Nat) (first : Bool) (bytes : List Byte) (s : State) : Bool × State :=
  let s' := touchRow key gen first (t4Clear (.read reader key) s)
  if !allocatesLine s' key gen then (true, s')
  else match openWay key false s', openWay key false s with
    | .later _, .later s => (false, s)
    | .opened s', _ => (true, fillLine key (fillAge (loadOf s' key)) bytes false s')
    | _, _ => (true, s')

/-! ### Terms and frames -/

/-- The terms of a reference to a row, one for each element (R35, R71, R111, R139, R144). -/
def poolTerms (sh : RowShape) (data : Option (List Byte)) (weighted : Bool) (r : Ref) : List Word32 :=
  (List.range sh.elements).map fun i =>
    let x := match data with
      | some bs => term1 sh bs i
      | none => f0
    let x := if weighted then weightTerm x (r.weight.getD f1) else x
    if r.neg then fneg x else x

/-- Frames of a cluster's accumulator memory, and, in plain mode, the terms that each gather engine holds (R140, R143). -/
abbrev Frames := Tab Bucket × Tab (List (Nat × List Word32))

/-- A reference's terms enter frame `k` through the engine of a core (R136, R143). -/
def frameAdd (mode elems k core slot : Nat) (ts : List Word32) (f : Frames) : Frames :=
  let b := Tab.getD f.1 k (emptyBucket mode elems)
  if mode = 1 then
    let e := k * 2048 + core
    (Tab.put f.1 k (addTerms 1 { b with nonfinite := noteTerms (ts.map some) slot b.nonfinite }),
     Tab.put f.2 e (Tab.getD f.2 e [] ++ [(slot, ts)]))
  else (Tab.put f.1 k (depositRef (ts.map some) slot b), f.2)

/-- An engine's sum for a bag: its terms in ascending slot order (R143). -/
def engineSum (elems : Nat) (ts : List (Nat × List Word32)) : List PlainElem :=
  (sortBy Prod.fst ts).foldl (fun es t => (es.zip t.2).map fun p => plainAdd p.1 p.2) (List.replicate elems plainEmpty)

/-- The partial that leaves frame `k`: renormalised, or in plain mode the engines' sums in ascending core number (R44, R143). -/
def closeFrame (mode elems k : Nat) (f : Frames) : Bucket :=
  let b := Tab.getD f.1 k (emptyBucket mode elems)
  if mode = 1 then
    let sums := (f.2.filter fun e => decide (e.1 / 2048 = k)).map fun e => Group.plain (engineSum elems e.2)
    { b with body := sums.foldl mergeGroup (emptyGroup 1 elems) }
  else renormBucket b

/-! ### Packets of remote probes (R273, R274) -/

/-- One row of a PROBE_REQ: its key and references (R121, R273). -/
def probeEntry (weighted : Bool) (key : Nat) (rs : List Ref) : List Byte :=
  toBytes 16 (packFields [(0, 64, key), (64, 32, rs.length)]) ++
    (rs.flatMap fun r => toBytes 8 (packFields [(0, 24, r.bag), (24, 16, r.slot), (40, 1, b2n r.neg)])) ++
    (if weighted then rs.flatMap fun r => toBytes 4 (r.weight.getD f1).toNat else [])

/-- The rows of a PROBE_REQ's payload, at most `fuel`. -/
def probeRows (weighted : Bool) : Nat → List Byte → List (Nat × List Ref)
  | 0, _ => []
  | fuel + 1, bs =>
    let h := ofBytes (bs.take 16)
    let n := bitsOf h 64 32
    if n = 0 then []
    else
      let len := 16 + 8 * n + (if weighted then 4 * n else 0)
      let rs := (List.range n).map fun i =>
        let e := ofBytes (sliceBytes bs (16 + 8 * i) 8)
        ({ bag := bitsOf e 0 24, slot := bitsOf e 24 16, neg := decide (bitsOf e 40 1 = 1)
           weight := if weighted then some (word32At bs (16 + 8 * n + 4 * i)) else none } : Ref)
      (bitsOf h 0 64, rs) :: probeRows weighted fuel (bs.drop len)

/-- The version of the map of a table, for AUX of a PROBE_REQ (R265). -/
def mapVersion (s : State) (h : Nat) : Nat :=
  match tbl? s h with
  | some t => (Tab.getD s.work.chain.maps (tdShardMap t.desc) {}).version
  | none => 0

/-- The tail of a task-begin packet: handle and generation of each table, 0 for the working one (log entry 16). -/
def boundBytes (bs : List (Nat × Nat)) : List Byte :=
  bs.flatMap fun b => toBytes 8 (packFields [(0, 16, b.1), (16, 48, b.2)])

/-- A task-begin packet (R273; log entry 16): the flag byte holds POOL_MODE and SUM_MODE, the numbers E − 1, the task's SEQ, and where
the partials go. -/
def sendTaskBegin (dst tag ctx poolMode : Nat) (plain : Bool) (elems seq replyTo replyTag : Nat) (bs : List (Nat × Nat)) (s : State) :
    State :=
  ctlSend .taskBegin dst tag ctx (poolMode + 16 * b2n plain) (elems - 1) seq
    (packFields [(0, 4, replyTo), (4, 12, replyTag), (16, 16, bs.length)]) (boundBytes bs) s

/-- PROBE_REQ packets, the last with LAST set. -/
def sendProbes (dst tag ctx : Nat) (es : List (List Byte)) (s : State) : State :=
  (es.zip (List.range es.length)).foldl (fun (s : State) (e : List Byte × Nat) =>
    peerSend 1 dst tag ctx (mapVersion s (keyHandle (ofBytes (e.1.take 8)))) (decide (e.2 + 1 = es.length)) e.1 s) s

/-- A transaction tag for a task: the next number (R265). -/
def takeTag (s : State) : Nat × State :=
  (s.work.chain.nextTag % 4095, updChain (fun c => { c with nextTag := (c.nextTag + 1) % 4095 }) s)

/-! ### Pooling for another device -/

/-- Number of a remote task. -/
def remoteKey (src tag : Nat) : Nat := src * 4096 + tag

/-- A remote task is changed. -/
def updRemote (k : Nat) (f : RemoteTask → RemoteTask) (s : State) : State :=
  updChain (fun c => { c with remotes := Tab.upd c.remotes k f }) s

/-- The generation that a remote task reads a table in. -/
def remoteGen (x : RemoteTask) (h : Nat) : Option Nat :=
  match x.bound.find? fun b => decide (b.1 = h) with
  | some (_, g) => if g = 0 then none else some g
  | none => none

/-- The generations of a remote task are all cut here, and none of its working tables is being loaded (R80, R275). -/
def remoteReady (s : State) (x : RemoteTask) : Bool :=
  x.bound.all fun b => match tbl? s b.1 with
    | some t => if b.2 = 0 then t.replaces.all (fun r => !r.started) else decide (b.2 ≤ t.highest)
    | none => true

/-- The requester is told why its task fails here (R157, R253, R275; log entry 16): 0 GENERATION_RETIRED, 1 DATA_LOST, 2
TIER_UNAVAILABLE, with the location code or the key, and for a lost word its RECORD_SEQ in the tail. -/
def remoteFail (x : RemoteTask) (why what rec : Nat) (s : State) : State :=
  ctlSend .genRetired x.replyTo x.replyTag x.ctx why 0 x.seq what (if why = 1 then toBytes 4 rec else []) s

/-- The clusters in service in the order in which the device tries them for a row in transit: the model's own choice (R20, R137). -/
def clusterOrder (s : State) (key : Nat) : List Nat :=
  let cs := serviceClusters s
  let n := mix64 key % max 1 cs.length
  cs.drop n ++ cs.take n

/-- The rows of a request that lie on other devices, with their owners (R273). -/
def strayOwner (s : State) (key : Nat) : Option Nat :=
  match tbl? s (keyHandle key) with
  | some t => if ownsRow s t (keyIndex key) then none
      else some (ownerIn (Tab.getD s.work.chain.maps (tdShardMap t.desc) {}) (keyIndex key))
  | none => none

/-- Bytes of the frames that a run of references opens in a cluster (R140). -/
def freshBytes (x : RemoteTask) (c : Nat) (rs : List Ref) : Nat :=
  ((rs.map Ref.bag).eraseDups.filter fun b => !Tab.has x.frames (b * 512 + c)).length *
    frameSize (poolGroup x.poolMode x.plain) x.elems

/-- A block of a row's references enters the frames of a cluster (R136, R273). -/
def blockDeposit (k key c : Nat) (sh : RowShape) (data : Option (List Byte)) (rs : List Ref) (s : State) : State :=
  updRemote k (fun x =>
    let f := rs.foldl (fun f r =>
      frameAdd (poolGroup x.poolMode x.plain) x.elems (r.bag * 512 + c) (key % 2048) r.slot
        (poolTerms sh data (decide (x.poolMode = 2)) r) f) (x.frames, x.engines)
    { x with frames := f.1, engines := f.2 }) s

/-- The blocks of a row's references are pooled: the first in the row's own cluster, each later one in another cluster that has room
(R138, R141). None where no cluster has room now. -/
def blockPool (k key home : Nat) (sh : RowShape) (data : Option (List Byte)) : Bool → List (List Ref) → State → Option State
  | _, [], s => some s
  | first, rs :: rest, s =>
    match Tab.get? s.work.chain.remotes k with
    | none => some s
    | some x =>
      let others := (clusterOrder s key).filter fun c => decide (c ≠ home)
      let tries := if first || others.isEmpty then [home] else others
      match tries.find? fun c => enginesRun s c && accumRoom s c (freshBytes x c rs) with
      | none => none
      | some c => blockPool k key home sh data false rest (blockDeposit k key c sh data rs s)

/-- The clusters in which the first block of a row can be pooled: its home in T0, or the clusters that can take it in transit (R136,
R137). A row that was never written takes no bank. -/
def homesFor (s : State) (key : Nat) (gen : Option Nat) (data : Option (List Byte)) : List Nat :=
  match homeBank s key gen, data with
  | some c, _ => [c]
  | none, none => clusterOrder s key
  | none, some _ => (clusterOrder s key).filter fun c => transitRoom s c (transitNeed data)

/-- The references of one row are pooled, or counted as out of range, or kept to be forwarded (R66, R136 to R139, R273). The flag is false
where the row must wait: it commits, the host agent is asked for it, or no cluster has room for its frames or for its transit (R137, R141,
R177, R251). -/
def poolRow (k : Nat) (e : Nat × List Ref) (s : State) : Bool × State :=
  match Tab.get? s.work.chain.remotes k with
  | none => (true, s)
  | some x =>
    let key := e.1
    let gen := remoteGen x (keyHandle key)
    let outside := updRemote k (fun x => { x with beyond := e.2.foldl (fun t r => Tab.put t r.bag (Tab.getD t r.bag 0 + 1)) x.beyond }) s
    match tbl? s (keyHandle key) with
    | none => (true, outside)
    | some t =>
      if tdRowLimit t.desc < keyIndex key ∨ tdElems t.desc ≠ x.elems then (true, outside)
      else match strayOwner s key with
        | some d => (true, updRemote k (fun x => { x with
            passing := Tab.put x.passing d (Tab.getD x.passing d [] ++ [probeEntry (decide (x.poolMode = 2)) key e.2]) }) s)
        | none =>
          let reader := 2 ^ 64 + k
          match takeRead reader key gen none s with
          | (.lost, s) => (true, remoteFail x 1 (lostWord s key gen).1 (lostWord s key gen).2 s)
          | (.away, s) => (true, remoteFail x 2 key 0 s)
          | (.wait, s) => (false, s)
          | (.got data bytes, s') =>
            -- a row of more than 4,096 references comes in several parts
            let first := !(x.pooled.any fun (y : Nat × List Ref) => decide (y.1 = key))
            let blocks := chunks 4096 ((e.2.length + 4095) / 4096) e.2
            let pooled (s : State) : Option State :=
              (homesFor s key gen data).findSome? fun c => blockPool k key c (shapeOf t.desc) data first blocks s
            if (pooled s').isNone then (false, s)
            else match enterRow reader key gen (!x.seen.contains key) bytes s' with
              | (false, s) => (false, s)
              | (true, s) => match pooled s with
                | some s => (true, updRemote k (fun x => { x with pooled := x.pooled ++ [e], seen := insertNew key x.seen }) s)
                | none => (false, updRemote k (fun x => { x with seen := insertNew key x.seen }) s)

/-- The partial of a bag from a cluster goes to the requester (R274). The count of out-of-range references follows as an entry with bit
15 set (log entry 16). -/
def sendPartial (x : RemoteTask) (bag cluster beyond : Nat) (b : Bucket) (s : State) : State :=
  let ps := groupPackets bag b false cluster true
  (ps.zip (List.range ps.length)).foldl (fun s p =>
    let last := decide (p.2 + 1 = ps.length)
    let extra := if last && decide (0 < beyond) then pad16 (toBytes 4 (packFields [(15, 1, 1), (16, 16, beyond)])) else []
    peerSend 2 x.replyTo x.replyTag x.ctx 0 last (p.1 ++ extra) s) s

/-- The clusters that hold a partial of a bag, ascending. -/
def bagClusters (f : Tab Bucket) (bag : Nat) : List Nat := (f.filter fun e => decide (e.1 / 512 = bag)).map fun e => e.1 % 512

/-- The last request has come: the partials go to the requester (R274), and rows of other owners go on to them (R273). -/
def answerRemote (k : Nat) (s : State) : State :=
  match Tab.get? s.work.chain.remotes k with
  | none => s
  | some x =>
    let mode := poolGroup x.poolMode x.plain
    let bags : List Nat := ((x.frames.map fun (e : Nat × Bucket) => e.1 / 512) ++ x.beyond.map Prod.fst).eraseDups
    let s := bags.foldl (fun (s : State) (bag : Nat) =>
      let cs := bagClusters x.frames bag
      let far := Tab.getD x.beyond bag 0
      let part (c : Nat) : Bucket := closeFrame mode x.elems (bag * 512 + c) (x.frames, x.engines)
      if mode = 0 ∨ cs.isEmpty then
        sendPartial x bag 0 far (renormBucket (cs.foldl (fun b c => mergeBucket b (part c)) (emptyBucket mode x.elems))) s
      else (cs.zip (List.range cs.length)).foldl (fun (s : State) (c : Nat × Nat) => sendPartial x bag c.1 (if c.2 = 0 then far else 0) (part c.1) s) s) s
    let s := updRemote k (fun x => { x with frames := [], engines := [], beyond := [], passing := [], pooled := [] }) s
    x.passing.foldl (fun (s : State) (e : Nat × List (List Byte)) =>
      if !reachable s e.1 then remoteFail x 2 (ofBytes ((e.2.headD []).take 8)) 0 s
      else
        let (tag, s) := takeTag s
        let s := updRemote k (fun x => { x with forwards := Tab.put x.forwards e.1 tag }) s
        sendProbes e.1 tag x.ctx e.2 (sendTaskBegin e.1 tag x.ctx x.poolMode x.plain x.elems x.seq x.replyTo x.replyTag x.bound s)) s

/-- The rows of a request are pooled in order; what is left when one must wait. -/
def poolRows (k : Nat) : List (Nat × List Ref) → State → List (Nat × List Ref) × State
  | [], s => ([], s)
  | e :: rest, s => match poolRow k e s with
    | (true, s) => poolRows k rest s
    | (false, s) => (e :: rest, s)

/-- Requests of a remote task that waited are pooled in order, as far as they can be: its generations are cut, and its tables are not
being loaded (R80, R275). -/
def drainRemote (k : Nat) : Nat → State → State
  | 0, s => s
  | fuel + 1, s =>
    match Tab.get? s.work.chain.remotes k with
    | none => s
    | some x => match x.held with
      | [] => s
      | (last, bs) :: rest =>
        if !remoteReady s x then s
        else
          let weighted := decide (x.poolMode = 2)
          let (left, s) := poolRows k (probeRows weighted bs.length bs) s
          if left.isEmpty then
            let s := updRemote k (fun x => { x with held := rest }) s
            drainRemote k fuel (if last then answerRemote k s else s)
          else updRemote k (fun x => { x with held := (last, left.flatMap fun e => probeEntry weighted e.1 e.2) :: rest }) s

/-- Requests that waited for a cut, a load or a commit point go on where they can (R177, R275). -/
def releaseHeld (s : State) : State :=
  s.work.chain.remotes.foldl (fun s e => drainRemote e.1 e.2.held.length s) s

/-- A PROBE_REQ is taken (R273). -/
def probeTake (p : PeerPkt) (bs : List Byte) (s : State) : State :=
  let k := remoteKey (pktSrc p) (pktJob p)
  match Tab.get? s.work.chain.remotes k with
  | none => s
  | some x => drainRemote k (x.held.length + 1) (updRemote k (fun x => { x with held := x.held ++ [(pktLast p, bs)] }) s)

/-- PROBE_REQ (R273). -/
def execProbeReq (p : PeerPkt) : State → Host.Outcome State Fault Refusal := live fun s => onPacket 1 p (probeTake p) s

/-- The task that a task-begin packet names (R273; log entry 16). -/
def remoteOf (p : PeerPkt) (bs : List Byte) : RemoteTask :=
  let h := ctlHead bs
  { src := pktSrc p, tag := pktJob p, ctx := pktCtx p, seq := bitsOf h 32 32, poolMode := bitsOf h 8 4
    plain := decide (bitsOf h 12 1 = 1), elems := bitsOf h 16 16 + 1, replyTo := bitsOf h 64 4, replyTag := bitsOf h 68 12
    bound := (List.range (bitsOf h 80 16)).map fun i =>
      let e := ofBytes (sliceBytes bs (16 + 8 * i) 8)
      (bitsOf e 0 16, bitsOf e 16 48) }

/-- The task names a generation that is RELEASED or RETIRED here (R275). -/
def namesRetired (s : State) (x : RemoteTask) : Bool :=
  x.bound.any fun b => match tbl? s b.1 with
    | some t => decide (b.2 ≠ 0) && decide (b.2 ≤ t.highest) &&
        (match Tab.get? t.gens b.2 with
         | some g => g.released
         | none => true)
    | none => false

/-- TASK_BEGIN: the remote task binds its generations, or is answered with GENERATION_RETIRED (R275). -/
def execTaskBegin (p : PeerPkt) : State → Host.Outcome State Fault Refusal :=
  live fun s => onControl .taskBegin p (fun bs s =>
    let x := remoteOf p bs
    if namesRetired s x then remoteFail x 0 0 0 s
    else updChain (fun c => { c with remotes := Tab.put c.remotes (remoteKey x.src x.tag) x }) s) s

/-- The reader is dropped, and the owners to which it was forwarded are told (R273). -/
def dropRemote (k : Nat) (s : State) : State :=
  match Tab.get? s.work.chain.remotes k with
  | none => s
  | some x =>
    let s := updChain (fun c => { c with remotes := Tab.del c.remotes k })
      (markGone (fun f p => decide (f = flowKey x.replyTo x.replyTag) && decide (bits p.hdr 0 4 = 2)) s)
    x.forwards.foldl (fun s f => ctlSend .taskEnd f.1 f.2 x.ctx 0 0 x.seq 0 [] s) s

/-- TASK_END (R273). -/
def execTaskEnd (p : PeerPkt) : State → Host.Outcome State Fault Refusal :=
  live fun s => onControl .taskEnd p (fun _ s => dropRemote (remoteKey (pktSrc p) (pktJob p)) s) s

end Sys2Proof.Machine
end

