-- ==== Sys2Proof/Machine/Sfu.lean ====
section
/-! DEFINITION. The special functions of a core: RCP, RSQRT, EXP2 and LOG2 (R199, R200). -/

namespace Sys2Proof.Machine


/-- The exponent k where the value is ±2^k. -/
def powerOfTwo (v : Val) : Option Int :=
  match v with
  | .fin _ n d => if n = 0 then none else
    let k := floorLog2 n d
    let p := scale2 1 1 k
    if n * p.2 = d * p.1 then some k else none
  | _ => none

/-- Infinity with a sign. -/
def inf32 (neg : Bool) : Word32 := if neg then 0xFF800000 else 0x7F800000

/-! ### Enclosures of the exact result, in units of 2^-600 -/

/-- The bits of a square root from bit `k - 1` down, above the root `r` so far. -/
def sqrtBits (n : Nat) : Nat → Nat → Nat
  | 0, r => r
  | k + 1, r => if (r + 2 ^ k) * (r + 2 ^ k) ≤ n then sqrtBits n k (r + 2 ^ k) else sqrtBits n k r

/-- The integer square root. -/
def intSqrt (n : Nat) : Nat := sqrtBits n (Nat.log2 n / 2 + 1) 0

/-- 2^f for the fraction f = `num / den` below 1, from its bits: bounds in units of 2^-200. `rlo` and `rhi` bound the power of 2 that
the last bit stands for. -/
def expFraction (den : Nat) : Nat → Nat → Nat → Nat → Nat → Nat → Nat × Nat
  | 0, _, _, _, lo, hi => (lo, hi)
  | fuel + 1, num, rlo, rhi, lo, hi =>
    let rlo := intSqrt (rlo * 2 ^ 200)
    let rhi := intSqrt (rhi * 2 ^ 200) + 1
    if den ≤ 2 * num then expFraction den fuel (2 * num - den) rlo rhi (lo * rlo / 2 ^ 200) (hi * rhi / 2 ^ 200 + 1)
    else expFraction den fuel (2 * num) rlo rhi lo hi

/-- 2^x for x = ±`n / d`. An FP32 fraction has no bit below 2^-149. -/
def exp2Bounds (neg : Bool) (n d : Nat) : Int × Int :=
  if neg ∧ 400 * d ≤ n then (0, 2 ^ 200)
  else
    let up := neg && decide (n % d ≠ 0)
    let whole : Int := if neg then -((n / d : Nat) : Int) - (if up then 1 else 0) else ((n / d : Nat) : Int)
    let num := if up then d - n % d else n % d
    let b := expFraction d 149 num (2 ^ 201) (2 ^ 201) (2 ^ 200) (2 ^ 200)
    let k := (400 + whole).toNat
    (((b.1 * 2 ^ k : Nat) : Int), ((b.2 * 2 ^ k : Nat) : Int))

/-- The first 64 bits of the fraction of log2 m, for m in [1, 2) in units of 2^-200. -/
def logFraction : Nat → Nat → Nat → Nat
  | 0, _, acc => acc
  | fuel + 1, m, acc =>
    let q := m * m / 2 ^ 200
    if 2 ^ 201 ≤ q then logFraction fuel (q / 2) (2 * acc + 1) else logFraction fuel q (2 * acc)

/-- log2 of `n / d`. -/
def log2Bounds (n d : Nat) : Int × Int :=
  let e := floorLog2 n d
  let p := scale2 n d (200 - e)
  let l : Int := e * 2 ^ 64 + ((logFraction 64 (p.1 / p.2) 0 : Nat) : Int)
  (l * 2 ^ 536, (l + 2) * 2 ^ 536)

/-- The spacing of FP32 at an enclosed result (R199). -/
def ulpAt (b : Int × Int) : Int := 2 ^ (max (Nat.log2 (max b.1.natAbs b.2.natAbs)) 474 - 23)

/-- A finite FP32 value lies within an error of the enclosed result. -/
def sfuNear (c : Word32) (b : Int × Int) (err : Int) : Bool :=
  match val32 c with
  | .fin neg n d =>
    let v : Int := if neg then -((n * 2 ^ 600 / d : Nat) : Int) else ((n * 2 ^ 600 / d : Nat) : Int)
    decide (v - err ≤ b.2) && decide (b.1 ≤ v + err)
  | _ => false

/-- A result whose bits the manual does not publish: the free value of the function and the operand, where it lies within the accuracy
of R199, and otherwise a value that does (log entry 5). -/
def sfuFree (op : Nat) (x : Word32) (b : Int × Int) (err : Int) : Word32 :=
  let c := Config.sfuResult op x
  if sfuNear c b err then c else round32 (.fin (decide (b.1 < 0)) b.1.natAbs (2 ^ 600))

/-! ### The functions -/

/-- RCP (R199, R200). A reciprocal beyond the largest finite value gives an infinity. -/
def rcp32 (x : Word32) : Word32 :=
  match val32 x with
  | .nan => nan32
  | .inf neg => if neg then 0x80000000 else f0
  | .fin neg n d =>
    if n = 0 then inf32 neg
    else if n * (2 ^ 128 - 2 ^ 104) < d then inf32 neg
    else
      let q : Int := ((d * 2 ^ 600 / n : Nat) : Int)
      let b := if neg then (-q - 1, -q) else (q, q + 1)
      match powerOfTwo (.fin neg n d) with
      | some k => if -126 ≤ -k ∧ -k ≤ 127 then round32 (dyadic neg 1 (-k)) else sfuFree 0x10 x b (ulpAt b)
      | none => sfuFree 0x10 x b (ulpAt b)

/-- RSQRT (R199, R200). -/
def rsqrt32 (x : Word32) : Word32 :=
  match val32 x with
  | .nan => nan32
  | .inf neg => if neg then nan32 else f0
  | .fin neg n d =>
    if n = 0 then inf32 neg
    else if neg then nan32
    else
      let q : Int := ((intSqrt (d * 2 ^ 1200 / n) : Nat) : Int)
      let b := (q, q + 1)
      match powerOfTwo (.fin neg n d) with
      | some k => if k % 2 = 0 then round32 (dyadic false 1 (-(k / 2))) else sfuFree 0x11 x b (ulpAt b)
      | none => sfuFree 0x11 x b (ulpAt b)

/-- EXP2 (R199, R200): a result beyond the largest finite value is +∞; an integer input whose result FP32 represents is exact. -/
def exp232 (x : Word32) : Word32 :=
  match val32 x with
  | .nan => nan32
  | .inf neg => if neg then f0 else inf32 false
  | .fin neg n d =>
    if n = 0 then f1
    else if neg = false ∧ 128 * d ≤ n then inf32 false
    else if n % d = 0 ∧ (neg = false ∨ n / d ≤ 149) then round32 (dyadic false 1 (if neg then -((n / d : Nat) : Int) else ((n / d : Nat) : Int)))
    else
      let b := exp2Bounds neg n d
      sfuFree 0x12 x b (2 * ulpAt b)

/-- LOG2 (R199, R200). -/
def log232 (x : Word32) : Word32 :=
  match val32 x with
  | .nan => nan32
  | .inf neg => if neg then nan32 else inf32 false
  | .fin neg n d =>
    if n = 0 then inf32 true
    else if neg then nan32
    else match powerOfTwo (.fin neg n d) with
      | some k => round32 (valOfInt k)
      | none =>
        let b := log2Bounds n d
        sfuFree 0x13 x b (if d ≤ 2 * n ∧ n ≤ 2 * d then 2 ^ 578 else 2 * ulpAt b)

end Sys2Proof.Machine
end

