-- ==== Sys2Proof/Machine/RowProg.lean ====
section
/-! DEFINITION. Row programs (R188 to R209): the image and its checks, the registers, every instruction, and the commit that a
program forms. An instruction's row acts when it is the next instruction of the run on its core. -/

namespace Sys2Proof.Machine

/-! ### Instruction words (R194, R195) -/

/-- OPCODE. -/
def iOp (w : Word32) : Nat := bits w 26 6
/-- PRED. -/
def iPred (w : Word32) : Nat := bits w 24 2
/-- PNEG. -/
def iNeg (w : Word32) : Bool := bit w 23
/-- DST. -/
def iDst (w : Word32) : Nat := bits w 18 5
/-- SRC_A. -/
def iA (w : Word32) : Nat := bits w 13 5
/-- SRC_B. -/
def iB (w : Word32) : Nat := bits w 8 5
/-- SRC_C. -/
def iC (w : Word32) : Nat := bits w 3 5

/-- The word of an instruction with its operands (R194). -/
def instrWord (op : Nat) (o : RowOp) : Word32 :=
  BitVec.ofNat 32 (packFields [(26, 6, op), (24, 2, o.pred), (23, 1, b2n o.pneg), (18, 5, o.dst), (13, 5, o.srcA),
    (8, 5, o.srcB), (3, 5, o.srcC)])

/-- An operand code that names a v register. -/
def isV (c : Nat) : Bool := decide (c < 16)
/-- An operand code that names an s register. -/
def isS (c : Nat) : Bool := decide (16 ≤ c) && decide (c < 24)

/-- The operand fields of an arithmetic instruction with `n` sources agree with R195 and R196. -/
def arithOk (w : Word32) (n : Nat) (rowSection : Bool) : Bool :=
  let srcs := [iA w, iB w, iC w].take n
  let unused := ([iA w, iB w, iC w].drop n).all fun c => c == 0
  unused && decide (iDst w < 24) &&
    (if isV (iDst w) then !rowSection
     else srcs.all (fun c => !isV c) && decide (iPred w = 0) && !iNeg w)

/-- No predicate selects lanes (R194). -/
def noPred (w : Word32) : Bool := decide (iPred w = 0) && !iNeg w

/-- One instruction passes the checks of R205 in a section: 0 pass A, 1 row section, 2 pass B. -/
def instrOk (planes words sec : Nat) (w : Word32) : Bool :=
  let row := decide (sec = 1)
  let pass := !row
  let z (xs : List Nat) : Bool := xs.all fun x => x == 0
  decide (bits w 0 3 = 0) && (decide (iPred w ≠ 0) || !iNeg w) &&
  (match iOp w with
   | 0x00 => noPred w && z [iDst w, iA w, iB w, iC w]
   | 0x01 => arithOk w 2 row
   | 0x02 => arithOk w 2 row
   | 0x03 => arithOk w 2 row
   | 0x04 => arithOk w 3 row
   | 0x05 => arithOk w 3 row
   | 0x06 => arithOk w 2 row
   | 0x07 => arithOk w 2 row
   | 0x08 => arithOk w 1 row
   | 0x09 => arithOk w 1 row
   | 0x0A => arithOk w 1 row
   | 0x0B => pass && isV (iDst w) && decide (iC w < 4)
   | 0x10 => arithOk w 1 row
   | 0x11 => arithOk w 1 row
   | 0x12 => arithOk w 1 row
   | 0x13 => arithOk w 1 row
   | 0x14 => pass && noPred w && decide (1 ≤ iDst w) && decide (iDst w < 4) && z [iC w]
   | 0x15 => pass && noPred w && decide (1 ≤ iDst w) && decide (iDst w < 4) && z [iC w]
   | 0x16 => pass && noPred w && decide (1 ≤ iDst w) && decide (iDst w < 4) && z [iC w]
   | 0x17 => pass && noPred w && decide (1 ≤ iDst w) && decide (iDst w < 4) && z [iC w]
   | 0x18 => pass && noPred w && decide (1 ≤ iDst w) && decide (iDst w < 4) && decide (iA w < 4) && decide (iB w < 4) && z [iC w]
   | 0x19 => pass && noPred w && decide (1 ≤ iDst w) && decide (iDst w < 4) && decide (iA w < 4) && decide (iB w < 4) && z [iC w]
   | 0x1A => pass && noPred w && decide (1 ≤ iDst w) && decide (iDst w < 4) && decide (iA w < 4) && z [iB w, iC w]
   | 0x1C => pass && isS (iDst w) && isV (iA w) && z [iB w, iC w]
   | 0x1D => pass && isS (iDst w) && isV (iA w) && z [iB w, iC w]
   | 0x20 => noPred w && isS (iDst w) && decide (iA w < 8) && (pass || decide (iA w ≠ 7)) && z [iB w, iC w]
   | 0x28 => pass && isV (iDst w) && z [iA w, iB w, iC w]
   | 0x29 => pass && isV (iDst w) && z [iA w, iB w, iC w]
   | 0x2A => pass && isV (iDst w) && z [iA w, iB w, iC w]
   | 0x2B => pass && isV (iDst w) && decide (iB w < planes) && z [iA w, iC w]
   | 0x2C => noPred w && isS (iDst w) && decide (iB w < words) && z [iA w, iC w]
   | 0x30 => decide (sec = 2) && isV (iA w) && z [iDst w, iB w, iC w]
   | 0x31 => decide (sec = 2) && isV (iA w) && z [iDst w, iB w, iC w]
   | 0x32 => decide (sec = 2) && isV (iA w) && decide (iB w < planes) && z [iDst w, iC w]
   | 0x33 => row && noPred w && decide (16 ≤ iA w) && decide (iB w < words) && z [iDst w, iC w]
   | _ => false)

/-- The first instruction of a section that fails, from index `i` on. -/
def firstBad (planes words sec i : Nat) : List Word32 → Option Nat
  | [] => none
  | w :: ws => if instrOk planes words sec w then firstBad planes words sec (i + 1) ws else some i

/-- 32-bit words of a byte list. -/
def wordsOf (bs : List Byte) : List Word32 :=
  (chunks 4 (bs.length / 4) bs).map fun c => BitVec.ofNat 32 (ofBytes c)

/-- Length of a program image as its header gives it (R204). -/
def imageLength (header : List Byte) : Nat :=
  let h := ofBytes (header.take 64)
  64 + 4 * (bitsOf h 64 7 + bitsOf h 71 7 + bitsOf h 78 7)

/-- The image verified (R205): the program, or the index of the first offending instruction. -/
def checkImage (ctx : Nat) (bs : List Byte) : Except Nat Program :=
  let h := ofBytes (bs.take 64)
  let a := bitsOf h 64 7
  let r := bitsOf h 71 7
  let b := bitsOf h 78 7
  let planes := bitsOf h 85 2
  let words := bitsOf h 87 3
  let n := a + r + b
  if bitsOf h 0 32 ≠ 0x474F5250 ∨ bitsOf h 32 16 ≠ 1 ∨ bitsOf h 48 16 ≠ 0 ∨ bitsOf h 90 38 ≠ 0 ∨ bitsOf h 384 128 ≠ 0 ∨
      planes = 3 ∨ 4 < words ∨ n = 0 ∨ 64 < n then .error 0xFF
  else
    let ws := wordsOf ((bs.drop 64).take (4 * n))
    let sa := ws.take a
    let sr := (ws.drop a).take r
    let sb := ws.drop (a + r)
    match firstBad planes words 0 0 sa, firstBad planes words 1 a sr, firstBad planes words 2 (a + r) sb with
    | some i, _, _ => .error i
    | none, some i, _ => .error i
    | none, none, some i => .error i
    | none, none, none =>
      .ok { ctx := ctx, secA := sa, secRow := sr, secB := sb
            consts := wordsOf (toBytes 32 (bitsOf h 128 256)), planes := planes, words := words }

/-! ### The run -/

/-- Instructions of the section in which the run is. -/
def RowRun.code (r : RowRun) : List Word32 :=
  match r.sect with
  | 0 => r.prog.secA
  | 1 => r.prog.secRow
  | 2 => r.prog.secB
  | _ => []

/-- Chunks of a row (R188). -/
def chunkCount (e : Nat) : Nat := (e + 7) / 8

/-- Lanes of a chunk that are active, as a mask (R189). -/
def laneMask (e c : Nat) : Nat := 2 ^ (min 8 (e - 8 * c)) - 1

/-- The run has moved past its last instruction of a chunk or section: the next section that holds an instruction is entered.
An empty section is passed over (R188). -/
def RowRun.settle (r : RowRun) : Nat → RowRun
  | 0 => r
  | n + 1 =>
    if r.sect < 3 ∧ r.code.isEmpty then
      RowRun.settle { r with sect := r.sect + 1, chunk := 0, pc := 0, begun := decide (r.sect + 1 = 1) } n
    else r

/-- A fresh run (R190). -/
def newRun (queue seq : Nat) (g : RowGrad) (p : Program) : RowRun :=
  RowRun.settle { queue := queue, seq := seq, grad := g, prog := p } 3

/-- The run after one instruction: the next of the chunk, the next chunk, or the next section (R188). -/
def RowRun.advance (e : Nat) (r : RowRun) : RowRun :=
  if r.pc + 1 < r.code.length then { r with pc := r.pc + 1 }
  else if r.sect ≠ 1 ∧ r.chunk + 1 < chunkCount e then { r with pc := 0, chunk := r.chunk + 1, begun := false }
  else
    RowRun.settle
      { r with sect := r.sect + 1, pc := 0, chunk := 0, begun := decide (r.sect + 1 = 1) } 3

/-- A source operand in a lane: a v register's lane, or a scalar or constant broadcast (R195). -/
def RowRun.src (r : RowRun) (c l : Nat) : Word32 :=
  if c < 16 then r.v.getD (8 * c + l) 0
  else if c < 24 then r.s.getD (c - 16) 0
  else r.prog.consts.getD (c - 24) 0

/-- The lanes that PRED and PNEG select, as a list of lane numbers (R198). -/
def RowRun.lanes (r : RowRun) (o : RowOp) : List Nat :=
  (List.range 8).filter fun l =>
    (r.p.getD 0 0).testBit l && (((r.p.getD o.pred 0).testBit l) != o.pneg)

/-- A lane of a v register is written. -/
def RowRun.setLane (r : RowRun) (d l : Nat) (x : Word32) : RowRun := { r with v := r.v.set (8 * d + l) x }

/-- An s register is written. -/
def RowRun.setS (r : RowRun) (d : Nat) (x : Word32) : RowRun := { r with s := r.s.set (d - 16) x }

/-- An arithmetic instruction: in every selected lane of a v register, or once on scalars (R196, R198). -/
def RowRun.arith (f : RowRun → Nat → Word32) (o : RowOp) (r : RowRun) : RowRun :=
  if o.dst < 16 then (r.lanes o).foldl (fun acc l => acc.setLane o.dst l (f r l)) r
  else r.setS o.dst (f r 0)

/-- A predicate is written with one bit for each lane (R197). -/
def RowRun.setPred (d : Nat) (f : Nat → Bool) (r : RowRun) : RowRun :=
  { r with p := r.p.set d (packFields ((List.range 8).map fun l => (l, 1, b2n (f l)))) }

/-- Bit `l` of a predicate. -/
def RowRun.pbit (r : RowRun) (k l : Nat) : Bool := (r.p.getD k 0).testBit l

/-- The table of the run's row. -/
def runTable (s : State) (r : RowRun) : Option Table := tbl? s (keyHandle r.grad.key)

/-- The instruction is the next of the run on the core: it has its effect and the run goes on. -/
def rowInstr (op core : Nat) (o : RowOp) (f : State → RowShape → RowRun → RowRun) : State → Host.Outcome State Fault Refusal :=
  live fun s =>
    match Tab.get? s.work.upd.runs core with
    | none => s
    | some r =>
      match runTable s r with
      | none => s
      | some t =>
        if r.phase = .running ∧ r.begun ∧ engineHeld s core = false ∧ r.code[r.pc]? = some (instrWord op o) then
          let sh := shapeOf t.desc
          updUpd (fun u => { u with runs := Tab.put u.runs core ((f s sh r).advance sh.elements) }) s
        else s

/-- A two-operand arithmetic instruction. -/
def rowArith2 (op : Nat) (f : Word32 → Word32 → Word32) (core : Nat) (o : RowOp) : State → Host.Outcome State Fault Refusal :=
  rowInstr op core o fun _ _ r => r.arith (fun r l => f (r.src o.srcA l) (r.src o.srcB l)) o

/-- A one-operand arithmetic instruction. -/
def rowArith1 (op : Nat) (f : Word32 → Word32) (core : Nat) (o : RowOp) : State → Host.Outcome State Fault Refusal :=
  rowInstr op core o fun _ _ r => r.arith (fun r l => f (r.src o.srcA l)) o

/-- A three-operand arithmetic instruction. -/
def rowArith3 (op : Nat) (f : Word32 → Word32 → Word32 → Word32) (core : Nat) (o : RowOp) :
    State → Host.Outcome State Fault Refusal :=
  rowInstr op core o fun _ _ r => r.arith (fun r l => f (r.src o.srcA l) (r.src o.srcB l) (r.src o.srcC l)) o

/-- A compare into a predicate, within p0 (R197). -/
def rowCompare (op : Nat) (f : Word32 → Word32 → Bool) (core : Nat) (o : RowOp) : State → Host.Outcome State Fault Refusal :=
  rowInstr op core o fun _ _ r => r.setPred o.dst fun l => r.pbit 0 l && f (r.src o.srcA l) (r.src o.srcB l)

/-! ### The instructions (R197) -/

/-- NOP. -/
def execNop (core : Nat) (o : RowOp) : State → Host.Outcome State Fault Refusal := rowInstr 0x00 core o fun _ _ r => r
/-- FADD. -/
def execFadd (core : Nat) (o : RowOp) : State → Host.Outcome State Fault Refusal := rowArith2 0x01 fadd core o
/-- FSUB. -/
def execFsub (core : Nat) (o : RowOp) : State → Host.Outcome State Fault Refusal := rowArith2 0x02 fsub core o
/-- FMUL. -/
def execFmul (core : Nat) (o : RowOp) : State → Host.Outcome State Fault Refusal := rowArith2 0x03 fmul core o
/-- FMA. -/
def execFma (core : Nat) (o : RowOp) : State → Host.Outcome State Fault Refusal := rowArith3 0x04 ffma core o
/-- FNMA. -/
def execFnma (core : Nat) (o : RowOp) : State → Host.Outcome State Fault Refusal := rowArith3 0x05 ffnma core o
/-- FMAX. -/
def execFmax (core : Nat) (o : RowOp) : State → Host.Outcome State Fault Refusal := rowArith2 0x06 fmax core o
/-- FMIN. -/
def execFmin (core : Nat) (o : RowOp) : State → Host.Outcome State Fault Refusal := rowArith2 0x07 fmin core o
/-- FABS. -/
def execFabs (core : Nat) (o : RowOp) : State → Host.Outcome State Fault Refusal := rowArith1 0x08 fabs core o
/-- FNEG. -/
def execFneg (core : Nat) (o : RowOp) : State → Host.Outcome State Fault Refusal := rowArith1 0x09 fneg core o
/-- MOV. -/
def execMov (core : Nat) (o : RowOp) : State → Host.Outcome State Fault Refusal := rowArith1 0x0A (fun x => x) core o
/-- SEL. -/
def execSel (core : Nat) (o : RowOp) : State → Host.Outcome State Fault Refusal :=
  rowInstr 0x0B core o fun _ _ r =>
    r.arith (fun r l => if r.pbit o.srcC l then r.src o.srcA l else r.src o.srcB l) o
/-- RCP (R199). -/
def execRcp (core : Nat) (o : RowOp) : State → Host.Outcome State Fault Refusal := rowArith1 0x10 rcp32 core o
/-- RSQRT (R199). -/
def execRsqrt (core : Nat) (o : RowOp) : State → Host.Outcome State Fault Refusal := rowArith1 0x11 rsqrt32 core o
/-- EXP2 (R199). -/
def execExp2 (core : Nat) (o : RowOp) : State → Host.Outcome State Fault Refusal := rowArith1 0x12 exp232 core o
/-- LOG2 (R199). -/
def execLog2 (core : Nat) (o : RowOp) : State → Host.Outcome State Fault Refusal := rowArith1 0x13 log232 core o
/-- FCMP_LT. -/
def execFcmpLt (core : Nat) (o : RowOp) : State → Host.Outcome State Fault Refusal := rowCompare 0x14 fltb core o
/-- FCMP_LE. -/
def execFcmpLe (core : Nat) (o : RowOp) : State → Host.Outcome State Fault Refusal := rowCompare 0x15 fleb core o
/-- FCMP_EQ. -/
def execFcmpEq (core : Nat) (o : RowOp) : State → Host.Outcome State Fault Refusal := rowCompare 0x16 feqb core o
/-- FCMP_UN. -/
def execFcmpUn (core : Nat) (o : RowOp) : State → Host.Outcome State Fault Refusal := rowCompare 0x17 funb core o
/-- PAND. -/
def execPand (core : Nat) (o : RowOp) : State → Host.Outcome State Fault Refusal :=
  rowInstr 0x18 core o fun _ _ r => r.setPred o.dst fun l => r.pbit o.srcA l && r.pbit o.srcB l
/-- POR. -/
def execPor (core : Nat) (o : RowOp) : State → Host.Outcome State Fault Refusal :=
  rowInstr 0x19 core o fun _ _ r => r.setPred o.dst fun l => (r.pbit o.srcA l || r.pbit o.srcB l) && r.pbit 0 l
/-- PNOT. -/
def execPnot (core : Nat) (o : RowOp) : State → Host.Outcome State Fault Refusal :=
  rowInstr 0x1A core o fun _ _ r => r.setPred o.dst fun l => !r.pbit o.srcA l && r.pbit 0 l

/-- A lane of SRC_A where it is selected, else +0 (R197). -/
def RowRun.laneOr0 (r : RowRun) (o : RowOp) (l : Nat) : Word32 := if (r.lanes o).contains l then r.src o.srcA l else f0

/-- RADD: the lanes are added pairwise first, sd last (R197). -/
def execRadd (core : Nat) (o : RowOp) : State → Host.Outcome State Fault Refusal :=
  rowInstr 0x1C core o fun _ _ r =>
    let x := r.laneOr0 o
    let sum := fadd (fadd (fadd (x 0) (x 1)) (fadd (x 2) (x 3))) (fadd (fadd (x 4) (x 5)) (fadd (x 6) (x 7)))
    r.setS o.dst (fadd (r.src o.dst 0) sum)

/-- RMAX (R197). -/
def execRmax (core : Nat) (o : RowOp) : State → Host.Outcome State Fault Refusal :=
  rowInstr 0x1D core o fun _ _ r => r.setS o.dst ((r.lanes o).foldl (fun acc l => fmax acc (r.src o.srcA l)) (r.src o.dst 0))

/-- The special input of a selector (R191). -/
def specialInput (s : State) (sh : RowShape) (r : RowRun) (sel : Nat) : Word32 :=
  let w := (Tab.get? s.work.upd.works (tid r.queue r.seq)).getD {}
  match sel with
  | 0 => if w.flush then Config.flushInput 0 else f32OfNat w.step
  | 5 => f32OfNat r.grad.terms
  | 6 => f32OfNat sh.elements
  | 7 => f32OfNat r.chunk
  | k => if w.flush then Config.flushInput k else w.params.getD (k - 1) 0

/-- MOVX (R191). -/
def execMovx (core : Nat) (o : RowOp) : State → Host.Outcome State Fault Refusal :=
  rowInstr 0x20 core o fun s sh r => r.setS o.dst (specialInput s sh r o.srcA)

/-- A load: selected lanes take the value of their element, inactive lanes +0 (R189, R198). -/
def RowRun.load (r : RowRun) (o : RowOp) (f : Nat → Word32) : RowRun :=
  let r' := (List.range 8).foldl (fun acc l => if r.pbit 0 l then acc else acc.setLane o.dst l f0) r
  (r.lanes o).foldl (fun acc l => acc.setLane o.dst l (f (8 * r.chunk + l))) r'

/-- The row as last committed (R176, R192). -/
def runRow (s : State) (sh : RowShape) (r : RowRun) : List Byte := workingBytes sh (rowOf s r.grad.key)

/-- LDG (R192). -/
def execLdg (core : Nat) (o : RowOp) : State → Host.Outcome State Fault Refusal :=
  rowInstr 0x28 core o fun _ _ r => r.load o fun i => r.grad.elems.getD i 0
/-- LDR (R192). -/
def execLdr (core : Nat) (o : RowOp) : State → Host.Outcome State Fault Refusal :=
  rowInstr 0x29 core o fun s sh r => r.load o fun i => term1 sh (runRow s sh r) i
/-- LDRJ (R58, R192). -/
def execLdrj (core : Nat) (o : RowOp) : State → Host.Outcome State Fault Refusal :=
  rowInstr 0x2A core o fun s sh r => r.load o fun i => termJoined sh (runRow s sh r) i
/-- The state record of a row's footprint. -/
def stateOf (sh : RowShape) (bs : List Byte) : List Byte := bs.drop (recordBytes sh)
/-- LDS (R192). -/
def execLds (core : Nat) (o : RowOp) : State → Host.Outcome State Fault Refusal :=
  rowInstr 0x2B core o fun s sh r => r.load o fun i => stateVal sh (stateOf sh (runRow s sh r)) o.srcB i
/-- LDW (R192). -/
def execLdw (core : Nat) (o : RowOp) : State → Host.Outcome State Fault Refusal :=
  rowInstr 0x2C core o fun s sh r => r.setS o.dst (stateWord sh (stateOf sh (runRow s sh r)) o.srcB)

/-- A data store to the staging buffer (R193). -/
def RowRun.stage (r : RowRun) (o : RowOp) (split : Bool) : RowRun :=
  (r.lanes o).foldl (fun acc l => { acc with data := Tab.put acc.data (8 * r.chunk + l) (r.src o.srcA l, split) }) r
/-- STR (R193). -/
def execStr (core : Nat) (o : RowOp) : State → Host.Outcome State Fault Refusal :=
  rowInstr 0x30 core o fun _ _ r => r.stage o false
/-- STRJ (R193). -/
def execStrj (core : Nat) (o : RowOp) : State → Host.Outcome State Fault Refusal :=
  rowInstr 0x31 core o fun _ _ r => r.stage o true
/-- STS (R193). -/
def execSts (core : Nat) (o : RowOp) : State → Host.Outcome State Fault Refusal :=
  rowInstr 0x32 core o fun _ _ r =>
    (r.lanes o).foldl (fun acc l =>
      { acc with planes := Tab.put acc.planes (o.srcB * 8192 + 8 * r.chunk + l) (r.src o.srcA l) }) r
/-- STW (R193). -/
def execStw (core : Nat) (o : RowOp) : State → Host.Outcome State Fault Refusal :=
  rowInstr 0x33 core o fun _ _ r => { r with words := Tab.put r.words o.srcB (r.src o.srcA 0) }

/-- CHUNK_START: a pass section begins a chunk and p0 becomes its active lanes (R189). -/
def execChunkStart (core : Nat) : State → Host.Outcome State Fault Refusal :=
  live fun s =>
    match Tab.get? s.work.upd.runs core with
    | none => s
    | some r =>
      match runTable s r with
      | none => s
      | some t =>
        if r.phase = .running ∧ r.begun = false ∧ engineHeld s core = false ∧ r.sect ≠ 1 ∧ r.sect < 3 then
          let r' := { r with begun := true, p := r.p.set 0 (laneMask (tdElems t.desc) r.chunk) }
          updUpd (fun u => { u with runs := Tab.put u.runs core r' }) s
        else s

/-! ### The commit image (R193) -/

/-- The data part and remainders of an unscaled row. -/
def imageNone (sh : RowShape) (bs : List Byte) (r : RowRun) : List Nat × List Nat :=
  let es := (List.range sh.elements).map fun i =>
    match Tab.get? r.data i with
    | none => (rawElem sh bs i, if sh.remBits = 0 then 0 else rawRem sh bs i)
    | some (x, split) =>
      let raw := (convert sh.format (val32 x)).raw
      (raw, if split && sh.remBits ≠ 0 then splitRem sh.format sh.remBits (val32 x) raw else 0)
  (es.map Prod.fst, es.map Prod.snd)

/-- The value that each element of a scaled row takes. -/
def scaledValues (sh : RowShape) (bs : List Byte) (r : RowRun) : List Word32 :=
  (List.range sh.elements).map fun i =>
    match Tab.get? r.data i with
    | some (x, _) => x
    | none => termJoined sh bs i

/-- The remainders of a ROW_SCALE row encoded with its new scale: R59's for the FP32 quotient, against the conversion of that
quotient (R193; log entry 69). -/
def scaledRems (sh : RowShape) (r : RowRun) (xs : List Word32) (e : Encoded) : List Nat :=
  let sc := BitVec.ofNat 32 (ofBytes (e.scale.take 4))
  (List.range sh.elements).map fun i =>
    match Tab.get? r.data i with
    | some (_, false) => 0
    | _ =>
      let v := val32 (fdiv (xs.getD i 0) sc)
      splitRem sh.format sh.remBits v (convert sh.format v).raw

/-- The state record with the staged values (R193). -/
def imageState (sh : RowShape) (st : List Byte) (r : RowRun) : List Byte :=
  let st := r.planes.foldl (fun st e =>
    overwrite st (planeOffset sh (e.1 / 8192) + stateWidth sh * (e.1 % 8192)) (stateRaw sh e.2)) st
  r.words.foldl (fun st e => overwrite st (wordsOffset sh + 4 * e.1) (toBytes 4 e.2.toNat)) st

/-- The footprint that the commit writes (R193). -/
def commitImage (sh : RowShape) (bs : List Byte) (r : RowRun) : List Byte :=
  let data := match sh.scaling with
    | .none =>
      let p := imageNone sh bs r
      dataPart sh { raws := p.1, scale := [], convs := [] } ++ remPart sh p.2
    | _ =>
      let xs := scaledValues sh bs r
      let e := encodeRow sh xs
      dataPart sh e ++ remPart sh (scaledRems sh r xs e)
  data ++ imageState sh (stateOf sh bs) r

/-- PROGRAM_END: the program has ended, the commit is formed and its write begins (R176, R177, R193). The row is committing
until COMMIT_POINT; a row in the switch phase of a move holds the commit (R237). -/
def execProgramEnd (core : Nat) : State → Host.Outcome State Fault Refusal :=
  live fun s =>
    match Tab.get? s.work.upd.runs core with
    | none => s
    | some r =>
      match runTable s r with
      | none => s
      | some t =>
        let sh := shapeOf t.desc
        let row := rowOf s r.grad.key
        let held := row.committing || row.migrating
        if r.phase = .running ∧ r.sect = 3 ∧ held = false ∧ engineHeld s core = false then
          let r' := { r with image := commitImage sh (workingBytes sh row) r, phase := .committing }
          updRow r.grad.key (fun x => { x with committing := true })
            (updUpd (fun u => { u with runs := Tab.put u.runs core r' }) s)
        else s

end Sys2Proof.Machine
end

