-- ==== Sys2Proof/Machine/Update.lean ====
section
/-! DEFINITION. SCATTER (R160 to R186): admission, contributions, buckets, row programs and commits; program slots (R204 to R209); and
the waits for shadow and delta-pool room (R87, R178, R229). -/

namespace Sys2Proof.Machine

/-- The work of a task, if it is a SCATTER or FLUSH. -/
def work? (s : State) (q n : Nat) : Option UpdateWork := Tab.get? s.work.upd.works (tid q n)

/-- The task is ACTIVE. -/
def isActive (s : State) (q n : Nat) : Bool :=
  match task? s q n with
  | some t => decide (t.state = .active)
  | none => false

/-! ### The bag map (R119 to R121) -/

/-- Length of a bag map by its header. -/
def mapLength (h : Nat) : Nat :=
  64 + roundup16 (8 * bitsOf h 64 32) + 16 * bitsOf h 96 32 + (if bitsOf h 160 1 = 1 then 12 else 8) * bitsOf h 128 32

/-- The directory of the map at an address. -/
def mapDir (s : State) (a h : Nat) : List (Nat × Nat × Nat) :=
  let d := a + 64 + roundup16 (8 * bitsOf h 64 32)
  (List.range (bitsOf h 96 32)).map fun k =>
    let e := devNat s (d + 16 * k) 16
    (bitsOf e 0 64, bitsOf e 64 32, bitsOf e 96 32)

/-- The retained map of the context with a TASK_SEQ and an address, whose release has not begun (R163, R168). -/
def findMap (s : State) (ctx seq addr : Nat) : Option RetainedMap :=
  s.work.upd.maps.find? fun m =>
    m.retained && !m.releasing && decide (m.ctx = ctx) && decide (m.seq = seq) && decide (m.addr = addr)

/-- The same map, whether or not its release has begun. -/
def sameMap (ctx seq addr : Nat) (m : RetainedMap) : Bool :=
  m.retained && decide (m.ctx = ctx) && decide (m.seq = seq) && decide (m.addr = addr)

/-- A map record is changed. -/
def updMap (ctx seq addr : Nat) (f : RetainedMap → RetainedMap) (s : State) : State :=
  updUpd (fun u => { u with maps := updWhere (sameMap ctx seq addr) f u.maps }) s

/-- The map's header disagrees with its record (R168). -/
def mapCorrupt (h : Nat) (m : RetainedMap) : Bool :=
  !(decide (bitsOf h 0 32 = 0x4D474142) && decide (bitsOf h 32 16 = 1) && decide (bitsOf h 192 32 = m.seq) &&
    decide (bitsOf h 224 8 = m.ctx))

/-- Some other SCATTER on the map is ACTIVE (R163). -/
def mapBusy (s : State) (ctx seq addr : Nat) : Bool :=
  s.work.upd.works.any fun e =>
    isActive s (e.1 / 2 ^ 32) (e.1 % 2 ^ 32) && !e.2.releaseOnly && !e.2.flush && decide (e.2.mapSeq = seq) && decide (e.2.mapAddr = addr) &&
      decide (((task? s (e.1 / 2 ^ 32) (e.1 % 2 ^ 32)).map Task.ctx) = some ctx)

/-! ### Admission of a SCATTER (R167 to R169, R209, R276, R288) -/

/-- RELEASE_ONLY. -/
def scReleaseOnly (t : Task) : Bool := decide (partBits t 2 1 = 1)

/-- The descriptor breaks R167. -/
def scReserved (t : Task) : Bool :=
  let p := partBits t
  !partZero t [(8, 8), (29, 3), (112, 16), (184, 8), (248, 8), (288, 32), (376, 8), (416, 32), (576, 448)] ||
  decide (p 6 2 = 3) ||
  (if scReleaseOnly t then
    !partZero t [(0, 2), (3, 29), (64, 64), (192, 832)]
   else decide (p 3 1 = 1 ∧ p 64 32 ≠ 0) || decide (p 3 1 = 0 ∧ p 64 32 = 0))

/-- Bytes of a gradient element. -/
def scWidth (t : Task) : Nat := if partBits t 4 1 = 1 then 2 else 4

/-- GRAD_STRIDE breaks its rule (R167). -/
def scStrideBad (t : Task) (e : Nat) : Bool :=
  let st := partBits t 256 32
  decide (st % 16 ≠ 0) || decide (st < roundup16 (e * scWidth t))

/-- The first area that does not lie as R335 and R168 ask, by its first bit. -/
def scAreaBad (s : State) (t : Task) (m : RetainedMap) (h : Nat) : Option Nat :=
  let p := partBits t
  let grad := p 192 56
  let gl := m.bags * p 256 32
  let cm := p 320 56
  let cl := roundup16 ((bitsOf h 96 32 + 7) / 8)
  let gradOk := if p 3 1 = 1 then areaOk s t.ctx grad gl .r .any
    else areaOk s t.ctx grad gl .w .stack && areaOk s t.ctx grad gl .r .stack
  let mapOk := areaOk s t.ctx m.addr (mapLength h) .r .stack
  let cmOk := p 6 2 = 0 || (areaOk s t.ctx cm cl .w .near && (decide (p 6 2 = 1) || areaOk s t.ctx cm cl .r .near))
  if !mapOk then some 128 else if !gradOk then some 192 else if !cmOk then some 320 else none

/-- Tables of the binding list that are no fronts. -/
def boundTables (s : State) (t : Task) : List (Nat × Table) :=
  t.bindings.filterMap fun b => match liveTbl s t.ctx b.handle with
    | some x => if tdProbe x.desc = 0 then some (b.handle, x) else none
    | none => none

/-- Tables of the task's context that the SCATTER would update: its bound tables that carry a program (R163, R175). -/
def updatedTables (s : State) (t : Task) : List (Nat × Table) := (boundTables s t).filter fun x => tdProgram x.2.desc

/-- The SCATTER is held: it is on a table of its context that a REPLACE load has, or would update one that a draining publish names or
whose slot a program load waits for (R80, R82, R92, R208). -/
def scHeld (s : State) (t : Task) : Bool :=
  t.bindings.any (fun b => (liveTbl s t.ctx b.handle).isSome && replacing s b.handle) ||
    (updatedTables s t).any fun x => publishHolds s x.1 || slotHeld s (tdSlot x.2.desc)

/-- The reduction-job checks (R276, R288), for a task of a context that would contribute to job `id`. -/
def jobFault (s : State) (ctx id sumMode : Nat) (elems : Option Nat) : Option Status :=
  match job? s id with
  | none => some .reduceJobUnknown
  | some j =>
    if j.ctx ≠ ctx ∨ j.array ∨ !isActive s j.queue j.seq then some .reduceJobUnknown
    else if j.plain ≠ decide (sumMode = 1) then some .reduceModeMismatch
    else match elems with
      | some e => if e ≠ j.elems then some .rowLengthMismatch else if j.contributor.isSome then some .reduceBusy else none
      | none => if j.contributor.isSome then some .reduceBusy else none

/-- A sharded table needs a job with TARGET = OWNER (R276). -/
def shardedFault (s : State) (t : Task) : Bool :=
  let p := partBits t
  (boundTables s t).any (fun x => tdSharded x.2.desc) &&
    (decide (p 28 1 = 0) || (match job? s (p 16 12) with
      | some j => decide (j.ctx = t.ctx) && !j.owner
      | none => false))

/-- The first program check that fails, with its table (R209). -/
def programFault (s : State) (t : Task) : Option (Nat × Status) :=
  (boundTables s t).findSome? fun x => Option.map (fun st => (x.1, st)) <|
    let d := x.2.desc
    if !tdProgram d then none
    else match Tab.get? s.work.upd.programs (tdSlot d) with
      | none => some .programMissing
      | some p =>
        if p.ctx ≠ t.ctx then some .programMissing
        else if (shapeOf d).planes < p.planes ∨ (shapeOf d).words < p.words then some .programMismatch else none

/-- Directory entries that a RESUME finds done (R182). -/
def resumedRows (s : State) (t : Task) (n : Nat) : List Nat :=
  if partBits t 6 2 = 2 then
    let bs := devRead s (partBits t 320 56) ((n + 7) / 8)
    (List.range n).filter fun k => (bs.getD (k / 8) 0).toNat.testBit (k % 8)
  else []

/-- A lost word among what the start of a SCATTER reads: the directory of the map and, with RESUME, the commit map (R449, R182). -/
def startLost (s : State) (t : Task) (m : RetainedMap) (h : Nat) : Option Nat :=
  let d := bitsOf h 96 32
  (areaFenced s (m.addr + 64 + roundup16 (8 * bitsOf h 64 32)) (16 * d)).or
    (if partBits t 6 2 = 2 then areaFenced s (partBits t 320 56) ((d + 7) / 8) else none)

/-- The work of a SCATTER as it is admitted. -/
def scWork (s : State) (t : Task) (m : RetainedMap) (h : Nat) : UpdateWork :=
  let p := partBits t
  let dir := mapDir s m.addr h
  let w : UpdateWork :=
    { plain := decide (p 0 1 = 1), consume := decide (p 1 1 = 1), fromMemory := decide (p 3 1 = 1), bf16 := decide (p 4 1 = 1)
      skipRow := decide (p 5 1 = 1), mapMode := p 6 2, job := if p 28 1 = 1 then some (p 16 12) else none
      mapSeq := m.seq, mapAddr := m.addr, gradAddr := p 192 56, stride := p 256 32, commitMap := p 320 56, step := p 384 32
      params := [448, 480, 512, 544].map fun i => BitVec.ofNat 32 (p i 32)
      poolMode := m.poolMode, winnerAddr := m.winnerAddr, bags := m.bags, elems := m.elems, dir := dir
      handles := (boundTables s t).map Prod.fst
      slots := (updatedTables s t).foldl (fun m x => Tab.put m x.1 (tdSlot x.2.desc)) []
      programs := (boundTables s t).filterMap fun x =>
        if tdProgram x.2.desc then (Tab.get? s.work.upd.programs (tdSlot x.2.desc)).map fun g => (tdSlot x.2.desc, g) else none
      ingest := { mask := p 64 32, tag := p 96 16, fromMemory := decide (p 3 1 = 1), done := decide (p 3 1 = 1) } }
  let refs := m.addr + 64 + roundup16 (8 * bitsOf h 64 32) + 16 * dir.length
  let w := { w with refsAt := refs, weightsAt := if bitsOf h 160 1 = 1 then some (refs + 8 * bitsOf h 128 32) else none }
  let done := resumedRows s t dir.length
  let loose := (List.range dir.length).filter fun k =>
    !done.contains k && !keyBound s w ((dir.map Prod.fst).getD k 0)
  { w with finished := done ++ loose, doneRows := done ++ loose, previous := done.length, notBound := loose.length }

/-- Admission after the holds: the checks in their order, and then the task is ACTIVE (R168, R100, R276, R288, R209). -/
def scAdmit (t : Task) (s : State) : State :=
  let p := partBits t
  let fail (st : Status) (d : Detail) : State := failTask t.queue t.seq st d s
  if scReserved t then fail .badReserved {}
  else match findMap s t.ctx (p 32 32) (p 128 56) with
    | none => fail .mapUnknown {}
    | some m =>
      let h := devNat s m.addr 64
      match areaFenced s m.addr 64 with
      | some loc => meetLost loc t.queue t.seq s
      | none =>
      if mapCorrupt h m then fail .mapCorrupt {}
      else if scStrideBad t m.elems then fail .badStride {}
      else match scAreaBad s t m h with
        | some b => fail .badAddress (detBit b)
        | none =>
          match t.bindings.find? fun b => (liveTbl s t.ctx b.handle).isNone with
          | some b => fail .noTable (detTable b.handle)
          | none =>
            if p 3 1 = 0 ∧ tagBusy s (p 64 32) (p 96 16) then fail .feedTagBusy {}
            else if shardedFault s t then fail .reduceRequired {}
            else match (if p 28 1 = 1 then jobFault s t.ctx (p 16 12) (p 0 1) (some m.elems) else none), programFault s t with
              | some st, _ => fail st {}
              | none, some (h, st) => fail st (detTable h)
              | none, none =>
                match (if p 3 1 = 1 then memGate t.queue t.seq .r (p 192 56) (m.bags * p 256 32) s else none) with
                | some s => s
                | none =>
                match startLost s t m h with
                | some loc => meetLost loc t.queue t.seq s
                | none =>
                let w := scWork s t m h
                let s := startTask t.queue t.seq s
                let s := updTask t.queue t.seq (fun t => { t with bound := w.handles.map fun h => (h, none) }) s
                let s := updUpd (fun u => { u with works := Tab.put u.works (tid t.queue t.seq) w }) s
                let s := match w.job with
                  | some id => joinJob id t.queue t.seq s
                  | none => s
                if p 3 1 = 0 then
                  claimFaults t.queue t.seq (p 64 32) (p 96 16) (claimTags t.queue t.seq (p 64 32) (p 96 16) s)
                else s

/-- SCATTER without RELEASE_ONLY (R168). -/
def execScatter (q n : Nat) : State → Host.Outcome State Fault Refusal :=
  admission .scatter q n fun t s => if scReleaseOnly t then s else if scHeld s t then s else scAdmit t s

/-- SCATTER_RELEASE_ONLY: the release of the map begins (R163). -/
def execScatterReleaseOnly (q n : Nat) : State → Host.Outcome State Fault Refusal :=
  admission .scatter q n fun t s =>
    if !scReleaseOnly t then s
    else if scReserved t then failTask q n .badReserved {} s
    else match findMap s t.ctx (partBits t 32 32) (partBits t 128 56) with
      | none => failTask q n .mapUnknown {} s
      | some m =>
        match areaFenced s m.addr 64 with
        | some loc => meetLost loc q n s
        | none =>
        if mapCorrupt (devNat s m.addr 64) m then failTask q n .mapCorrupt {} s
        else
          let w : UpdateWork := { releaseOnly := true, mapSeq := m.seq, mapAddr := m.addr, ingest := { done := true } }
          let s := updUpd (fun u => { u with works := Tab.put u.works (tid q n) w }) (startTask q n s)
          updMap m.ctx m.seq m.addr (fun m => { m with releasing := true, waiters := m.waiters ++ [(q, n)] }) s

/-- RETAINED_MAP_RELEASE: no other SCATTER on the map is ACTIVE, and the map is released (R163). A RELEASE_ONLY task has then done its
work, and MAP_RELEASED is 1. -/
def execRetainedMapRelease (ctx seq addr : Nat) : State → Host.Outcome State Fault Refusal :=
  live fun s =>
    match s.work.upd.maps.find? fun m => sameMap ctx seq addr m && m.releasing with
    | none => s
    | some m =>
      if mapBusy s ctx seq addr then s
      else
        let s := m.waiters.foldl (fun s w => updWork w.1 w.2 (fun x => { x with released := true }) s) s
        updUpd (fun u => { u with maps := u.maps.filter fun x => !(sameMap ctx seq addr x) }) s

/-! ### Contributions (R170, R171) -/

/-- Element `i` of a bag's gradient, decoded to FP32 (R166). -/
def gradElem (s : State) (w : UpdateWork) (bag i : Nat) : Word32 :=
  let a := w.gradAddr + bag * w.stride
  if w.bf16 then BitVec.ofNat 32 (devNat s (a + 2 * i) 2 * 65536) else BitVec.ofNat 32 (devNat s (a + 4 * i) 4)

/-- The bag has a gradient (R165, R166). -/
def bagHasGrad (w : UpdateWork) (bag : Nat) : Bool := w.fromMemory || decide (Tab.getD w.got bag 0 = w.elems)

/-- The bag's gradient is whole, or no more comes. -/
def bagSettled (w : UpdateWork) (bag : Nat) : Bool := w.ingest.done || bagHasGrad w bag

/-- A reference of the map (R121). -/
def mapRef (s : State) (w : UpdateWork) (r : Nat) : Ref :=
  let e := devNat s (w.refsAt + 8 * r) 8
  { bag := bitsOf e 0 24, slot := bitsOf e 24 16, neg := decide (bitsOf e 40 1 = 1)
    weight := w.weightsAt.map fun a => BitVec.ofNat 32 (devNat s (a + 4 * r) 4) }

/-- The terms of a reference, one for each element, none where it gives no term (R170). -/
def refTerms (s : State) (w : UpdateWork) (x : Ref) : List (Option Word32) :=
  (List.range w.elems).map fun i =>
    let g := gradElem s w x.bag i
    let c : Option Word32 := match w.poolMode with
      | 0 => some g
      | 1 => some (fdiv g (f32OfNat (devNat s (w.mapAddr + 64 + 8 * x.bag) 2)))
      | 2 => some (fmul (x.weight.getD f1) g)
      | _ =>
        let win := devNat s (w.winnerAddr + x.bag * roundup16 (2 * w.elems) + 2 * i) 2
        if win = x.slot then some g else none
    c.map fun c => if x.neg then fneg c else c

/-- The area of a bag's gradient, or what its terms are formed with, holds a lost word (R170, R183, R449). -/
def gradLost (s : State) (w : UpdateWork) (bag : Nat) : Option Nat :=
  (areaFenced s (w.gradAddr + bag * w.stride) (w.elems * (if w.bf16 then 2 else 4))).or
    (match w.poolMode with
     | 0 => none
     | 1 => areaFenced s (w.mapAddr + 64 + 8 * bag) 8
     | 2 => none
     | _ => areaFenced s (w.winnerAddr + bag * roundup16 (2 * w.elems)) (2 * w.elems))

/-- A run of references of the map holds a lost word (R449). -/
def refsLost (s : State) (w : UpdateWork) (first count : Nat) : Option Nat :=
  (areaFenced s (w.refsAt + 8 * first) (8 * count)).or
    (match w.weightsAt with
     | some a => areaFenced s (a + 4 * first) (4 * count)
     | none => none)

/-- Runs that a row's references divide into. -/
def runCount (refs : Nat) : Nat := (refs + 63) / 64

/-- The directory entry of a key that is not finished and has a run from reference `first` on to deposit. A map that software has altered may
name a key twice (R168). -/
def entryFor (w : UpdateWork) (key first : Nat) : Option Nat :=
  (List.range w.dir.length).find? fun k =>
    let d := w.dir.getD k (0, 0, 0)
    decide (d.1 = key) && !w.finished.contains k && decide (d.2.1 ≤ first) && decide (first < d.2.1 + d.2.2) &&
      decide ((first - d.2.1) % 64 = 0) && !w.runs.contains (k, first)

/-- The number under which a shard bucket is held: its directory entry and its shard of 4,096 references (R124, R172). -/
def shardKey (w : UpdateWork) (k first : Nat) : Nat := k * 2 ^ 24 + (first - (w.dir.getD k (0, 0, 0)).2.1) / 4096

/-- The row has one shard: its references go straight into the bucket that is finished (R172). -/
def oneShard (w : UpdateWork) (k : Nat) : Bool := decide ((w.dir.getD k (0, 0, 0)).2.2 ≤ 4096)

/-- Buckets open in ascending directory order, each only where the cluster that will finish it can hold its frame, and its shard buckets only
where their clusters can (R171, R172). What is left of the state of the work, or none where the run must wait. -/
def openBucket (s : State) (w : UpdateWork) (k first cluster : Nat) : Option UpdateWork :=
  let room := accumRoom s cluster (bucketBytes w)
  let w1 : Option UpdateWork :=
    if Tab.has w.homes k then some w
    else if (List.range k).all (fun i => w.finished.contains i || Tab.has w.homes i) && room then
      some { w with homes := Tab.put w.homes k cluster, whole := Tab.put w.whole k (emptyBucket (if w.plain then 1 else 0) w.elems) }
    else none
  w1.bind fun v =>
    if oneShard v k then (if Tab.get? v.homes k = some cluster then some v else none)
    else match Tab.get? v.shardAt (shardKey v k first) with
      | some c => if c = cluster then some v else none
      | none =>
        let used := if Tab.has w.homes k then 1 else 2
        if accumRoom s cluster (used * bucketBytes w) then some { v with shardAt := Tab.put v.shardAt (shardKey v k first) cluster } else none

/-- Every run of the shard has been deposited. -/
def shardOver (w : UpdateWork) (k first : Nat) : Bool :=
  let d := w.dir.getD k (0, 0, 0)
  let lo := d.2.1 + (first - d.2.1) / 4096 * 4096
  let n := min 4096 (d.2.1 + d.2.2 - lo)
  (List.range (runCount n)).all fun i => w.runs.contains (k, lo + 64 * i)

/-- A shard whose last run has been deposited is renormalised and merged where the row is finished, and its frame is free (R172). -/
def closeShard (k first : Nat) (w : UpdateWork) : UpdateWork :=
  let sk := shardKey w k first
  if oneShard w k || !shardOver w k first then w
  else match Tab.get? w.partials sk, Tab.get? w.whole k with
    | some b, some a =>
      { w with whole := Tab.put w.whole k (mergeBucket a (renormBucket b))
               partials := Tab.del w.partials sk, shardAt := Tab.del w.shardAt sk }
    | _, _ => w

/-- The references enter the row's bucket: its one bucket, or that of their shard (R171, R172). -/
def bucketAdd (k first : Nat) (dep : Bucket → Bucket) (w : UpdateWork) : UpdateWork :=
  let w := { w with runs := w.runs ++ [(k, first)] }
  if oneShard w k then { w with whole := Tab.upd w.whole k dep }
  else
    let sk := shardKey w k first
    let b := dep (Tab.getD w.partials sk (emptyBucket (if w.plain then 1 else 0) w.elems))
    closeShard k first { w with partials := Tab.put w.partials sk b }

/-- A gather engine deposits one run of at most 64 references, from `first` on, into the row's bucket on a cluster, or into the bucket of
their shard (R170 to R172). A reference of an altered map to a bag that the map does not have gives no term (R168; log entry 76). -/
def scatterDeposit (q n key first cluster : Nat) (s : State) : State :=
  match work? s q n with
  | none => s
  | some w =>
    match entryFor w key first with
    | none => s
    | some k =>
      let d := w.dir.getD k (0, 0, 0)
      if !isActive s q n || w.flush || !enginesRun s cluster then s
      else
        match refsLost s w first (min 64 (d.2.1 + d.2.2 - first)) with
        | some loc => meetLost loc q n s
        | none =>
        let refs := ((List.range (min 64 (d.2.1 + d.2.2 - first))).map fun i => mapRef s w (first + i)).filter fun x =>
          decide (x.bag < w.bags)
        if refs.any fun x => !bagSettled w x.bag then s
        else match refs.findSome? fun x => if bagHasGrad w x.bag then gradLost s w x.bag else none with
          | some loc => meetLost loc q n s
          | none =>
            match openBucket s w k first cluster with
            | none => s
            | some w =>
              let dep := fun b => refs.foldl (fun b x => if bagHasGrad w x.bag then depositRef (refTerms s w x) x.slot b else b) b
              releaseHeld (updWork q n (fun _ => bucketAdd k first dep w) s)

/-! ### Buckets (R171 to R174, R289, R291) -/

/-- The elements of a bucket finished to FP32 (R50, R52, R54). -/
def fp32Elems (b : Bucket) : List Word32 :=
  match b.body with
  | .ints es => es.map fun x => f32OfInt x.toInt
  | _ => (finishGrad 0 b).elems

/-- norm² of a bucket (R289): the binned sum of the squares of its elements finished to FP32, finished to FP32. A binned term is an FP32
value (R43), so each square is rounded once to FP32 (DEDUCED, log entry 33). -/
def norm2 (b : Bucket) : Word32 :=
  let xs := fp32Elems b
  BitVec.ofNat 32 (finishBin .fp32 (depositAll (xs.map fun x => val32 (fmul x x))) 1).raw

/-- A norm² as a number that orders as the norms do: a NaN ranks above every other. -/
def normRank (b : Bucket) : Nat := if isNanVal (val32 (norm2 b)) then 2 ^ 33 else (norm2 b).toNat

/-- The keys that a job with THIN_KEEP sends (R289). -/
def keptKeys (keep : Nat) (bs : Tab Bucket) : List Nat :=
  if keep = 0 then bs.map Prod.fst
  else
    let n := (bs.length * keep + 999) / 1000
    ((sortBy (fun e : Nat × Bucket => 2 ^ 34 - normRank e.2) bs).take n).map Prod.fst

/-- Of the buckets held back, those that fit in the residual buffer, in ascending key order (R291). -/
def fitResidual (room : Nat) (size : Nat) (bs : Tab Bucket) : Tab Bucket × Tab Bucket :=
  let n := if size = 0 then 0 else room / size
  (bs.take n, bs.drop n)

/-- Every local bucket of the job is formed: the residual is merged in, the buckets to send are selected, and the rest goes to the
residual buffer (R289, R291). -/
def selectBuckets (id : Nat) (j : Job) (bs : Tab Bucket) (s : State) : Tab Bucket × State :=
  let mode := jobMode j
  let old := if j.residBytes = 0 then [] else residRead s j.residAddr mode j.elems
  let merged := old.foldl (fun t e => Tab.put t e.1 (match Tab.get? t e.1 with
    | some b => mergeBucket b e.2
    | none => e.2)) bs
  let kept := keptKeys j.keep merged
  let back := merged.filter fun e => !kept.contains e.1
  let (held, spilled) := fitResidual (j.residBytes - 64) (residEntryBytes mode j.elems) (back.map fun e => (e.1, renormBucket e.2))
  let out := merged.filter fun e => !(held.map Prod.fst).contains e.1
  let s := if j.residBytes = 0 then s else residWrite j.queue j.seq j.ctx j.residAddr mode j.elems held (residSpent j.residAddr j.elems s)
  (out, updJob id (fun j => { j with
    withheld := satAdd 32 j.withheld held.length, spilled := satAdd 32 j.spilled spilled.length }) s)

/-- The selected buckets go out in ascending key order, and RANK_DONE after them (R282, R289). A lost word in the residual buffer ends the
contributing task (R449; DEDUCED, log entry 68). -/
def sendSelection (id q n : Nat) (s : State) : State :=
  match work? s q n, job? s id with
  | some w, some j =>
    match (if j.residBytes = 0 then none else residLost s j.residAddr (jobMode j) j.elems) with
    | some loc => meetLost loc q n s
    | none =>
    let (out, s) := selectBuckets id j w.local' s
    let s := out.foldl (fun s e => contribute id e.1 e.2 s) s
    sendRankDone id false (updWork q n (fun w => { w with sent := true, local' := out }) s)
  | _, _ => s

/-- The job needs every local bucket before it sends (R289, R291). -/
def jobCollects (j : Job) : Bool := decide (j.keep ≠ 0) || decide (j.residBytes ≠ 0)

/-- Every directory entry is finished and ingest has ended: the contributions end (R282). -/
def sendCheck (q n : Nat) (s : State) : State :=
  match work? s q n with
  | none => s
  | some w =>
    match w.job with
    | none => s
    | some id =>
      if w.sent || w.flush || !w.ingest.done || !isActive s q n || decide (w.finished.length < w.dir.length) then s
      else match job? s id with
        | none => s
        | some j =>
          if jobCollects j then sendSelection id q n s
          else sendRankDone id false (updWork q n (fun w => { w with sent := true }) s)

/-- The bucket of a directory entry is finished, or contributed to the job (R171, R173). The local bucket of a contribution is kept
so that it can be sent again (R294). -/
def finishEntry (q n key k : Nat) (w : UpdateWork) (b : Bucket) (s : State) : State :=
  let refs := (w.dir.getD k (0, 0, 0)).2.2
  let s := updWork q n (fun w => { w with
    finished := w.finished ++ [k], sharded := w.sharded + b2n (decide (4096 < refs))
    homes := Tab.del w.homes k, whole := Tab.del w.whole k }) s
  match w.job with
  | none => takeGrad q n (finishGrad key b) s
  | some id =>
    let s := updWork q n (fun w => { w with local' := Tab.put w.local' key (renormBucket b) }) s
    match job? s id with
    | none => s
    | some j => sendCheck q n (if jobCollects j then s else contribute id key b s)

/-- BUCKET_FINISH: every run of the row has been deposited, and its bucket is finished on the cluster that holds it; an entry without
references has an empty bucket (R171, R172). With a job, buckets finish in ascending key order (R282). -/
def execBucketFinish (q n key cluster : Nat) : State → Host.Outcome State Fault Refusal :=
  live fun s =>
    match work? s q n with
    | none => s
    | some w =>
      match (List.range w.dir.length).find? fun k => decide ((w.dir.getD k (0, 0, 0)).1 = key) && !w.finished.contains k with
      | none => s
      | some k =>
        let d := w.dir.getD k (0, 0, 0)
        let mine := w.runs.filter fun r => decide (r.1 = k)
        let inTurn := w.job.isNone || (List.range k).all fun i => w.finished.contains i
        let here := decide (d.2.2 = 0) || decide (Tab.get? w.homes k = some cluster)
        if !isActive s q n || w.flush || !inTurn || decide (mine.length < runCount d.2.2) || !here || !enginesRun s cluster then s
        else
          releaseHeld (finishEntry q n key k w
            (renormBucket (Tab.getD w.whole k (emptyBucket (if w.plain then 1 else 0) w.elems))) s)

/-! ### Row programs and commits (R175 to R179) -/

/-- A run on the row is in progress, on any core (R176). -/
def rowRunning (s : State) (key : Nat) : Bool := s.work.upd.runs.any fun e => decide (e.2.grad.key = key)

/-- The core may run the row's program: it is free, its cluster is in service, and it is the home core of a T0 row (R175). -/
def coreFor (s : State) (key core : Nat) : Bool :=
  !Tab.has s.work.upd.runs core && !engineHeld s core &&
    (match (rowOf s key).t0 with
     | some c => decide (core = c.cluster * 2048 + c.core)
     | none => true)

/-- The slot that a table was bound with (R208). -/
def boundSlot (w : UpdateWork) (h : Nat) : Nat := Tab.getD w.slots h 0

/-- The words of a core's copy of a program that are not good are corrected, or replaced from the master copy before the program runs, which is
recorded as a rebuilt word; a second replacement within 24 hours has the core replaced (R206, R447, R453). -/
def programReads (q n core slot : Nat) (reads : List (Nat × CodeWord)) (s : State) : State :=
  reads.foldl (fun s r =>
    match decodeWord r.2 with
    | .good => s
    | .corrected _ _ => countCorrected .program 1 s
    | .uncorrectable =>
      programReplaced core (uncorrRecord 1 (locProgram core slot r.1) false false true none none ((task? s q n).map Task.ctx) (some (q, n)) s)) s

/-- ROW_PROGRAM_START (R175): the gradient leaves the ready list and its program starts on the core. A fenced row ends the task with
DATA_LOST (R448), an unreachable one with TIER_UNAVAILABLE (R253); a row in T4 is first read (R251). The operand holds the words of the core's
copy of the program that its code does not read as good, by their number (R206, R438). -/
def execRowProgramStart (q n key : Nat) (x : ProgramFetch) : State → Host.Outcome State Fault Refusal :=
  live fun s =>
    let core := x.core
    match work? s q n with
    | none => s
    | some w =>
      match w.ready.find? fun g => decide (g.key = key) with
      | none => s
      | some g =>
        if !isActive s q n || rowRunning s key || !coreFor s key core then s
        else match takeRead (tid q n) key none (some (q, n)) s, boundProgram w (keyHandle key) with
          | (.lost, s), _ => failTask q n .dataLost (detKey key) s
          | (.away, s), _ => failTask q n .tierUnavailable (detKey key) s
          | (.wait, s), _ => s
          | (.got _ _, _), none => s
          | (.got _ bs, s), some prog =>
            let s := if (readPlace s key none).isSome then updRow key (fun r => { r with backing := bs }) s else s
            let s := programReads q n core (boundSlot w (keyHandle key)) x.reads (t4Clear (.read (tid q n) key) s)
            let s := updWork q n (fun w => { w with ready := dropFirst (fun g => decide (g.key = key)) w.ready }) s
            updUpd (fun u => { u with runs := Tab.put u.runs core (newRun q n g prog) }) s

/-- The run on a core is over, and its row no longer committing. -/
def endRun (core : Nat) (s : State) : State :=
  match Tab.get? s.work.upd.runs core with
  | none => s
  | some r =>
    let s := updUpd (fun u => { u with runs := Tab.del u.runs core }) (t4Drop (.commit core) s)
    releaseHeld (maintCommitted r.grad.key (updRow r.grad.key (fun x => { x with committing := false }) s))

/-- The phase of a run changes. -/
def setPhase (core : Nat) (p : RunPhase) (s : State) : State :=
  updUpd (fun u => { u with runs := Tab.upd u.runs core fun r => { r with phase := p } }) s

/-- The commit of the run reaches its commit point: it counts for its task and for the commit map (R177, R182). -/
def committed (core : Nat) (r : RowRun) (s : State) : State :=
  let s := endRun core s
  count .rowsCommitted 1 (updWork r.queue r.seq (fun w => rowDone r.grad.key { w with committed := w.committed + 1 }) s)

/-- The line that the commit of a run takes is opened before its write (R220, R221). -/
def runWay (key : Nat) (s : State) : State :=
  match tbl? s (keyHandle key) with
  | none => s
  | some t => match commitWay s key t true with
    | .opened s => s
    | .later s => s
    | .shut => s

/-- COMMIT_POINT (R177): the write of the row's commit is whole. A commit that finds no tier, no delta-pool room or no shadow room
ends its task or waits (R73, R87, R178), the second before its write has started; one whose line is still leaving waits for it (R223); a
write-back to T4 is a WRITE of the host agent (R179, R251). -/
def execCommitPoint (core : Nat) : State → Host.Outcome State Fault Refusal :=
  live fun s =>
    match Tab.get? s.work.upd.runs core with
    | none => s
    | some r =>
      let key := r.grad.key
      if (r.phase ≠ .committing ∧ r.phase ≠ .t4Done ∧ r.phase ≠ .shadowWait) ∨ coreHeld s core = true then s
      else
        let s := runWay key s
        match commitRow key r.image true s with
        | .tableFull => endRun core (failTask r.queue r.seq .tableFull (detKey key) s)
        | .deltaFull => setPhase core (.deltaWait s.clock) (updRow key (fun x => { x with committing := false }) s)
        | .shadowFull => setPhase core .shadowWait (cleanMarks s)
        | .lineWait s => s
        | .done s' =>
          if (rowOf s' key).t0.isNone && !rowUp s' key then s
          else match throughT4 (.commit core) (keyHandle key) s s' with
            | (true, s') => committed core r s'
            | (false, s) => if t4Waiting s (.commit core) then setPhase core .t4Wait s else s

/-- WRITE_BACK_FAIL (R179): a write-back to T2 to T4, of a first commit too, fails; the task ends with TIER_UNAVAILABLE and the row keeps its last committed
version. -/
def execWriteBackFail (core : Nat) : State → Host.Outcome State Fault Refusal :=
  live fun s =>
    match Tab.get? s.work.upd.runs core with
    | none => s
    | some r =>
      let away := match commitRow r.grad.key r.image true s with
        | .done s' => (rowOf s' r.grad.key).t0.isNone && decide (2 ≤ (rowOf s' r.grad.key).place.tier)
        | _ => false
      if (r.phase = .committing ∨ r.phase = .t4Wait) ∧ away = true then
        endRun core (failTask r.queue r.seq .tierUnavailable (detKey r.grad.key) s)
      else s

/-- Commits that wait for shadow room try again (R178). -/
def wakeShadow (s : State) : State :=
  updUpd (fun u => { u with runs := u.runs.map fun e =>
    if e.2.phase = .shadowWait then (e.1, { e.2 with phase := .committing }) else e }) s

/-- When the oldest T0 copy or delta version of a row that lies in the shadow of a cluster, and can be cleaned now, was made (R229, R230). -/
def cleanable (s : State) (m : Nat) (e : Nat × Row) : Option Nat :=
  let copies := if e.2.committing || e.2.migrating || !rowUp s e.1 then []
    else (e.2.t0.toList.filter fun c => decide (c.shadow = some m)).map T0Copy.since
  let deltas := (e.2.deltas.filter fun d => decide (d.shadow = some m)).map Delta.since
  (sortBy id (copies ++ deltas)).head?

/-- A shadow that is being cleaned, of which the row holds the oldest dirty copy or delta version (R229). -/
def cleanTurn (s : State) (key : Nat) : Option (Nat × Nat) :=
  s.work.tbl.cleaning.findSome? fun m => (cleanable s m (key, rowOf s key)).bind fun t =>
    if s.work.tbl.rows.all fun e => match cleanable s m e with
      | some u => decide (t ≤ u)
      | none => true
    then some (m, t) else none

/-- The oldest dirty copy or delta version of a row is written to a lower tier (R229, R230). -/
def cleanOldest (key m t : Nat) (s : State) : State :=
  if (rowOf s key).t0.any fun c => decide (c.shadow = some m) && decide (c.since = t) then (cleanCopy key s).2
  else match spillDeltas key s with
    | some s' => (throughT4 (.deltas key) (keyHandle key) s s').2
    | none => s

/-- CLEAN_WRITE_DONE: the oldest dirty copy of a shadow that is being cleaned is written to its backing location, its shadow entry is freed and
waiting commits may proceed (R229, R230). -/
def execCleanWriteDone (handle row : Nat) : State → Host.Outcome State Fault Refusal :=
  live fun s =>
    let key := mkKey handle row
    match cleanTurn (cleanMarks s) key with
    | none => s
    | some (m, t) => wakeShadow (cleanMarks (cleanOldest key m t (cleanMarks s)))

/-! ### Program slots (R204 to R208) -/

/-- The argument block of PROGRAM_LOAD with EMPTY as the row gives it. -/
def progArgs (empty : Bool) (m : MbxCall) : BitVec 2048 := setField m.args 3 1 (b2n empty)

/-- Fields that PROGRAM_LOAD does not use (R356, R384). -/
def progUnused (empty : Bool) : List (Nat × Nat) :=
  [(4, 4), (16, 48), (120, 1928)] ++ (if empty then [(64, 56)] else [])

/-- The slot belongs to another context (R207). -/
def slotForeign (s : State) (slot ctx : Nat) : Bool :=
  (match Tab.get? s.work.upd.programs slot with
   | some p => decide (p.ctx ≠ ctx)
   | none => false) ||
  (match Tab.get? s.work.upd.loading slot with
   | some ps => ps.any fun p => decide (p.ctx ≠ ctx)
   | none => false)

/-- A load or an emptying begins: SCATTER tasks that would use the slot are held, and the command waits behind those before it (R208). -/
def slotBegin (slot ctx : Nat) (p : Option Program) (s : State) : MbxRes :=
  let old := Tab.getD s.work.upd.loading slot []
  let id := (old.getLast?.map SlotLoad.id).getD 0 + 1
  .waits (updUpd (fun u => { u with loading := Tab.put u.loading slot (old ++ [{ id := id, ctx := ctx, program := p }]) }) s)
    (.programLoad slot id)

/-- PROGRAM_LOAD (R205, R207, R208). -/
def execProgramLoad (m : MbxCall) : State → Host.Outcome State Fault Refusal :=
  mbxRow (mailbox 0x24 true false false (progArgs false m) (fun s =>
    let a := progArgs false m
    let slot := bits a 0 3
    let ctx := bits a 8 8
    let addr := bits a 64 56
    let len := imageLength (devRead s addr 64)
    if !zeroFields a (progUnused false) then .refuse .badReserved
    else if !ctxOk s m ctx then .refuse .badContext
    else if !areaOk s (m.issuer % 256) addr 64 .r .any || !areaOk s (m.issuer % 256) addr len .r .any then .refuse .badAddress
    else if (areaFenced s addr len).isSome then .refuse .dataLost
    else match checkImage ctx (devRead s addr len) with
      | .error i => .reply s .badProgram i
      | .ok p => if slotForeign s slot ctx then .refuse .slotBusy else slotBegin slot ctx (some p) s) m)

/-- PROGRAM_LOAD with EMPTY (R207, R208). -/
def execProgramEmpty (m : MbxCall) : State → Host.Outcome State Fault Refusal :=
  mbxRow (mailbox 0x24 true false false (progArgs true m) (fun s =>
    let a := progArgs true m
    if !zeroFields a (progUnused true) then .refuse .badReserved
    else if !ctxOk s m (bits a 8 8) then .refuse .badContext
    else if slotForeign s (bits a 0 3) (bits a 8 8) then .refuse .slotBusy
    else slotBegin (bits a 0 3) (bits a 8 8) none s) m)

/-- An ACTIVE SCATTER uses the slot, or a run of its program is in progress (R208). -/
def slotInUse (s : State) (slot : Nat) : Bool :=
  s.work.upd.works.any (fun e => isActive s (e.1 / 2 ^ 32) (e.1 % 2 ^ 32) && e.2.programs.any fun p => decide (p.1 = slot)) ||
    s.work.upd.runs.any fun e => match work? s e.2.queue e.2.seq with
      | some w => decide (Tab.get? w.slots (keyHandle e.2.grad.key) = some slot)
      | none => false

/-- PROGRAM_SLOT_WRITE: no ACTIVE SCATTER uses the slot; the oldest image that waits is written to every core, its command completes and held
tasks are released (R208). -/
def execProgramSlotWrite (slot : Nat) : State → Host.Outcome State Fault Refusal :=
  live fun s =>
    match Tab.getD s.work.upd.loading slot [] with
    | [] => s
    | x :: rest =>
      if slotInUse s slot then s
      else
        let s := updUpd (fun u => { u with
          loading := if rest.isEmpty then Tab.del u.loading slot else Tab.put u.loading slot rest
          programs := match x.program with
            | some p => Tab.put u.programs slot p
            | none => Tab.del u.programs slot }) s
        jobEnd (.programLoad slot x.id) .ok 0 s

end Sys2Proof.Machine
end

