-- ==== Sys2Proof/Machine/Jobs.lean ====
section
/-! DEFINITION. REDUCE and FLUSH tasks, and the packets and deadlines of reduction jobs (R278 to R296). -/

namespace Sys2Proof.Machine

/-! ### REDUCE (R278, R279) -/

/-- The descriptor breaks R278. -/
def rdReserved (t : Task) : Bool :=
  let p := partBits t
  let array := decide (p 12 2 = 1)
  !partZero t [(45, 3), (186, 6), (248, 8), (376, 8), (420, 28), (504, 520)] || decide (2 ≤ p 12 2) ||
  (array && decide (p 15 1 = 1)) || (decide (p 15 1 = 0) && decide (p 48 16 ≠ 0)) ||
  decide (p 144 32 < 10) || decide (10000000 < p 144 32) || decide (999 < p 176 10) ||
  (decide (p 256 64 = 0) && (decide (p 176 10 ≠ 0) || decide (p 192 56 ≠ 0))) ||
  (array && (decide (p 384 32 = 0) || !([0, 1, 9].contains (p 416 4))))

/-- BACKUP_r of every rank (R278). -/
def rdBackups (t : Task) : List (Option Nat) :=
  (List.range 16).map fun r => if partBits t (64 + 5 * r + 4) 1 = 1 then some (partBits t (64 + 5 * r) 4) else none

/-- The job that a REDUCE opens. -/
def rdJob (t : Task) : Job :=
  let p := partBits t
  { queue := t.queue, seq := t.seq, ctx := t.ctx, array := decide (p 12 2 = 1), plain := decide (p 14 1 = 1)
    owner := decide (p 15 1 = 1), ranks := p 16 16, elems := p 32 13 + 1, map := p 48 16, backups := rdBackups t
    deadlineUs := p 144 32, keep := p 176 10, residAddr := p 192 56, residBytes := p 256 64, inAddr := p 320 56
    count := p 384 32, format := p 416 4, outAddr := p 448 56, crc := jobCrc t }

/-- The first check of R279 that fails. -/
def rdFault (s : State) (t : Task) (j : Job) (id : Nat) : Option Status :=
  if rdReserved t then some .badReserved
  else if !s.work.chain.valid then some .notChained
  else if (job? s id).any fun j => isActive s j.queue j.seq then some .jobBusy
  else if 4096 ≤ (s.work.chain.jobs.filter fun e => isActive s e.2.queue e.2.seq).length then some .jobLimit
  else if !j.ranks.testBit (me s) && !(standbys j).contains (me s) then some .reduceNotRank
  else if j.owner && !Tab.has s.work.chain.maps j.map then some .noShardMap
  else if j.owner && !((Tab.getD s.work.chain.maps j.map {}).entries.all fun e => j.ranks.testBit e.2) then some .shardOwnerNotRank
  else if j.residBytes ≠ 0 ∧ residBad s t.ctx j.residAddr (jobMode j) j.elems j.residBytes then some .residualMismatch
  else none

/-- Element `i` of the input array as a term (R282). -/
def arrayTerm (s : State) (j : Job) (i : Nat) : Word32 :=
  if j.format = 1 then BitVec.ofNat 32 (devNat s (j.inAddr + 2 * i) 2 * 65536) else BitVec.ofNat 32 (devNat s (j.inAddr + 4 * i) 4)

/-- Bucket `b` of the input array. -/
def arrayBucket (s : State) (j : Job) (b : Nat) : Bucket :=
  let ts := (List.range j.elems).map fun i =>
    if b * j.elems + i < j.count then some (arrayTerm s j (b * j.elems + i)) else none
  let b := emptyBucket (jobMode j) j.elems
  if jobInts j then depositInts ts b else depositRef ts 0 b

/-- Buckets of an ARRAY job. -/
def arrayBuckets (s : State) (j : Job) : Tab Bucket :=
  (List.range ((j.count + j.elems - 1) / j.elems)).map fun b => (b, arrayBucket s j b)

/-- The array contributes at admission: its buckets in ascending order, and RANK_DONE (R282). -/
def arrayContribute (id : Nat) (s : State) : State :=
  match job? s id with
  | none => s
  | some j =>
    let bs := arrayBuckets s j
    let (out, s) := if jobCollects j then selectBuckets id j bs s else (bs, s)
    sendRankDone id false (out.foldl (fun s e => contribute id e.1 e.2 s) s)

/-! ### Packets -/

/-- A device's first packet of the job carries the CRC of its configuration (R280): it is noted, and a device whose CRC differs is told
so and treated as past its deadline. The flag says that it differs. -/
def crcCheck (id src crc : Nat) (s : State) : Bool × State :=
  match job? s id with
  | none => (false, s)
  | some j =>
    if j.seenFrom.contains src then (j.mismatched.contains src, s)
    else
      let s := updJob id (fun j => { j with seenFrom := j.seenFrom ++ [src] }) s
      if crc = j.crc then (false, s)
      else
        (true, lateRank id src (updJob id (fun j => { j with mismatched := insertNew src j.mismatched })
          (peerSend 6 src id j.ctx 0 true (combinerDoneBytes false true) s)))

/-- A contribution is taken by its combiner (R280, R283). -/
def contribTake (p : PeerPkt) (bs : List Byte) (s : State) : State :=
  match job? s (pktJob p) with
  | none => s
  | some j =>
    let (id, backup, b, rest) := groupOf (jobMode j) bs
    let (bad, s) := crcCheck (pktJob p) (pktSrc p) (ofBytes (rest.take 4)) s
    if bad then whenS (pktLast p && !backup) (discardContrib (pktJob p)) s
    else match gatherGroup p id b s with
      | (some b, s) => takeContrib (pktJob p) (pktSrc p) id backup b s
      | (none, s) => s

/-- The end of a rank's contributions (R280, R282). -/
def rankDoneTake (p : PeerPkt) (bs : List Byte) (s : State) : State :=
  let h := ofBytes (bs.take 16)
  let (bad, s) := crcCheck (pktJob p) (pktSrc p) (bitsOf h 32 32) s
  takeRankDone (pktJob p) (pktSrc p) (bad || decide (bitsOf h 0 1 = 1)) s

/-- A packet of a job that is not open here waits on its link, unacknowledged (R280, R286); what comes from a combiner for a job that has ended
here does not (R294; log entry 61). -/
def withholds (p : PeerPkt) (s : State) : Bool :=
  peerUp s p.port && s.work.chain.valid && !pktBad p && decide (pktDst p = me s) && !pktOld s p && (job? s (pktJob p)).isNone &&
    ([3, 5].contains (pktType p) || !s.work.chain.jobsOver.contains (pktJob p))

/-- The row gradient that a RESULT's payload holds (R267, R286). -/
def resultOf (bs : List Byte) : RowGrad :=
  let h := ofBytes (bs.take 32)
  let c := bitsOf h 144 11 + 1
  let xs := (List.range c).map fun i => word32At bs (32 + 4 * i)
  { key := bitsOf h 0 64, elems := xs, ovf := bitsOf h 104 1, bound := decide (bitsOf h 105 1 = 1)
    saturated := decide (bitsOf h 106 1 = 1), nonfinite := bitsOf h 107 1, terms := bitsOf h 64 40 }

/-- A RESULT is taken: its packets join, and the row gradient is applied as it is whole (R286). -/
def resultTake (p : PeerPkt) (bs : List Byte) (s : State) : State :=
  let g := resultOf bs
  match gatherGroup p g.key { terms := g.terms, saturated := g.saturated, body := .ints g.elems } s with
  | (some b, s) => match b.body with
    | .ints es => applyResult (pktJob p) { g with elems := es } s
    | _ => s
  | (none, s) => s

/-- COMBINER_DONE is taken: it counts for the job's end, or tells that this device's configuration differs (R280, R287). -/
def combinerDoneTake (p : PeerPkt) (bs : List Byte) (s : State) : State :=
  match job? s (pktJob p) with
  | none => s
  | some j =>
    if bitsOf (ofBytes (bs.take 16)) 1 1 = 1 then failTask j.queue j.seq .jobConfigMismatch {} s
    else tookCombinerDone (pktJob p) (pktSrc p) s

/-- A packet of a job is taken: CONTRIB, RESULT, RANK_DONE or COMBINER_DONE. -/
def jobPkt (p : PeerPkt) (s : State) : State :=
  match pktType p with
  | 3 => onPacket 3 p (contribTake p) s
  | 4 => onPacket 4 p (resultTake p) s
  | 5 => onPacket 5 p (rankDoneTake p) s
  | 6 => onPacket 6 p (combinerDoneTake p) s
  | _ => s

/-- Packets that waited for the job are taken, in the order in which they came (R280, R286). -/
def openWithheld (id : Nat) (s : State) : State :=
  let mine := s.work.chain.withheld.filter fun p => decide (pktJob p = id)
  let s := updChain (fun c => { c with withheld := c.withheld.filter fun p => decide (pktJob p ≠ id) }) s
  mine.foldl (fun s p => jobPkt p s) s

/-- A packet of a job arrives: it is taken, or waits for the job to open. -/
def jobPktIn (type : Nat) (p : PeerPkt) (s : State) : State :=
  if pktType p ≠ type then s
  else if withholds p s then updChain (fun c => { c with withheld := c.withheld ++ [p] }) s
  else jobPkt p s

/-- CONTRIB (R283). -/
def execContrib (p : PeerPkt) : State → Host.Outcome State Fault Refusal := live (jobPktIn 3 p)

/-- RANK_DONE (R283, R294). -/
def execRankDone (p : PeerPkt) : State → Host.Outcome State Fault Refusal := live (jobPktIn 5 p)

/-- RESULT (R286). -/
def execResultPkt (p : PeerPkt) : State → Host.Outcome State Fault Refusal := live (jobPktIn 4 p)

/-- COMBINER_DONE (R287). -/
def execCombinerDone (p : PeerPkt) : State → Host.Outcome State Fault Refusal := live (jobPktIn 6 p)

/-! ### Admission of REDUCE and FLUSH -/

/-- The job opens under its JOB_ID. One that has ended here, whose contributor has not, gives it up (R279, R294; log entry 61). -/
def openJob (id : Nat) (j : Job) (s : State) : State :=
  let s := match job? s id with
    | none => s
    | some old =>
      let k := 4096 + sumNat (s.work.chain.jobs.map Prod.fst)
      let s := updChain (fun c => { c with jobs := Tab.put c.jobs k { old with closed := true, aborted := true } }) s
      match old.contributor with
      | some (q, n) => updWork q n (fun w => { w with job := some k }) s
      | none => s
  updChain (fun c => { c with jobs := Tab.put c.jobs id j, jobsOver := c.jobsOver.filter fun x => decide (x ≠ id) }) s

/-- A lost word among what a REDUCE reads as it starts: the header of the residual buffer, and the array with the whole buffer (R449). -/
def rdLost (s : State) (j : Job) : Option Nat :=
  (if j.residBytes = 0 then none else if j.array then residLost s j.residAddr (jobMode j) j.elems else areaFenced s j.residAddr 64).or
    (if j.array then areaFenced s j.inAddr (j.count * (if j.format = 1 then 2 else 4)) else none)

/-- The header of the residual buffer is lost, so that no check of it can be made (R449). -/
def rdHeaderLost (s : State) (j : Job) : Option Nat := if j.residBytes = 0 then none else areaFenced s j.residAddr 64

/-- REDUCE: the job opens (R279, R290). -/
def execReduce (q n : Nat) : State → Host.Outcome State Fault Refusal :=
  admission .reduce q n fun t s =>
    let id := partBits t 0 12
    let j := rdJob t
    match rdFault s t j id with
    | some st =>
      if st = .residualMismatch ∧ (rdHeaderLost s j).isSome then meetLost ((rdHeaderLost s j).getD 0) q n s
      else failTask q n st {} s
    | none =>
      match (if j.array then memGate q n .r j.inAddr (j.count * (if j.format = 1 then 2 else 4)) s else none) with
      | some s => s
      | none =>
      match rdLost s j with
      | some loc => meetLost loc q n s
      | none =>
        let s := openJob id j (startTask q n s)
        let s := if j.residBytes ≠ 0 ∧ devNat s j.residAddr 4 = 0 then
          taskWrite q n j.residAddr (residHeader j.ctx (jobMode j) j.elems 0) s else s
        let s := openWithheld id s
        combinerCheck id (if j.array then arrayContribute id s else s)

/-- Fields of a FLUSH (R382). -/
def flReserved (t : Task) : Bool := !partZero t [(12, 52), (120, 8), (192, 64)]

/-- The work of a FLUSH: results are applied to the context's tables (R287). -/
def flWork (s : State) (t : Task) (id : Nat) : UpdateWork :=
  let ts := s.work.tbl.tables.filter fun e => decide (e.2.ctx = t.ctx) && !e.2.deleting && decide (tdProbe e.2.desc = 0)
  let runs := ts.filterMap fun x =>
    if tdProgram x.2.desc then
      match Tab.get? s.work.upd.programs (tdSlot x.2.desc) with
      | some p => if p.ctx = t.ctx ∧ p.planes ≤ (shapeOf x.2.desc).planes ∧ p.words ≤ (shapeOf x.2.desc).words then
          some (x.1, tdSlot x.2.desc, p) else none
      | none => none
    else none
  { flush := true, job := some id, ingest := { done := true }, handles := ts.map Prod.fst
    slots := runs.foldl (fun m e => Tab.put m e.1 e.2.1) [], programs := runs.map Prod.snd }

/-- FLUSH: every residual entry is contributed, the buffer is emptied, and RANK_DONE follows (R292). -/
def execFlush (q n : Nat) : State → Host.Outcome State Fault Refusal :=
  admission .flush q n fun t s =>
    let id := partBits t 0 12
    let addr := partBits t 64 56
    let bytes := partBits t 128 64
    if flReserved t then failTask q n .badReserved {} s
    else match jobFault s t.ctx id (match job? s id with
        | some j => b2n j.plain
        | none => 0) none, job? s id with
      | some st, _ => failTask q n st {} s
      | none, none => failTask q n .reduceJobUnknown {} s
      | none, some j =>
        match areaFenced s addr 64 with
        | some loc => meetLost loc q n s
        | none =>
        if residBad s t.ctx addr (jobMode j) j.elems bytes then failTask q n .residualMismatch {} s
        else match residLost s addr (jobMode j) j.elems with
        | some loc => meetLost loc q n s
        | none =>
          let w := { flWork s t id with elems := j.elems, plain := j.plain }
          let es := residRead s addr (jobMode j) j.elems
          let s := updTask q n (fun t => { t with bound := w.handles.map fun h => (h, none) }) (startTask q n s)
          let s := updUpd (fun u => { u with works := Tab.put u.works (tid q n) { w with sent := true, local' := es } }) s
          let s := joinJob id q n (residSpent addr j.elems s)
          let s := es.foldl (fun s e => contribute id e.1 e.2 s) s
          sendRankDone id false (taskWrite q n addr (residHeader j.ctx (jobMode j) j.elems 0) s)

/-! ### Deadlines and loss -/

/-- A slot of a bucket changes. -/
def updSlot (id key rank : Nat) (f : RankSlot → RankSlot) (s : State) : State :=
  updJob id (fun j => { j with buckets := Tab.upd j.buckets key fun b => { b with slots := Tab.upd b.slots rank f } }) s

/-- SLOT_DEADLINE: an OPEN slot becomes LATE and is settled where it can be (R283, R284). -/
def execSlotDeadline (id key rank : Nat) : State → Host.Outcome State Fault Refusal :=
  live fun s =>
    combinerCheck id (releaseBucket id key
      (updSlot id key rank (fun sl => if sl.state = .opened then { sl with state := .late } else sl) s))

/-- BACKUP_DEADLINE: a slot still LATE becomes MISSING (R284). -/
def execBackupDeadline (id key rank : Nat) : State → Host.Outcome State Fault Refusal :=
  live fun s =>
    combinerCheck id (releaseBucket id key
      (updSlot id key rank (fun sl => if sl.state = .late then { sl with state := .missing } else sl) s))

/-- COMBINER_UNREACHABLE_DEADLINE: a combiner on which this device waits has been unreachable for DEADLINE_US; the contributor ends with
CHAIN_UNREACHABLE, and so will the REDUCE (R294, R296). -/
def execCombinerUnreachableDeadline (id combiner : Nat) : State → Host.Outcome State Fault Refusal :=
  live fun s =>
    match job? s id with
    | none => s
    | some j =>
      if !(combiners s j).contains combiner || reachable s combiner || !waitsOn s id j combiner then s
      else
        let s := updJob id (fun j => { j with lost := insertNew combiner j.lost }) s
        match j.contributor with
        | some (q, n) => failTask q n .chainUnreachable {} s
        | none => s

/-- The bucket of a key is contributed again, as the rank still holds it or builds it again (R294). -/
def resendBucket (id key : Nat) (s : State) : State :=
  match job? s id with
  | none => s
  | some j =>
    let b := match j.contributor with
      | some (q, n) => (work? s q n).bind fun w => Tab.get? w.local' key
      | none => if j.array ∧ key < (j.count + j.elems - 1) / j.elems then some (arrayBucket s j key) else none
    match b with
    | some b => contribute id key b (updJob id (fun j => { j with rowsSent := j.rowsSent - 1 }) s)
    | none => s

/-- BUCKET_RESEND_REQUEST: the rank sends again the bucket that a combiner lost with a cluster (R294). The key is the request's 64-bit
number (log entry 16). -/
def execBucketResendRequest (p : PeerPkt) : State → Host.Outcome State Fault Refusal :=
  live fun s =>
    onControl .resend p (fun bs s =>
      let key := bitsOf (ctlHead bs) 64 64
      resendBucket (bitsOf (ctlHead bs) 16 16) key s) s

end Sys2Proof.Machine
end

