-- ==== Sys2Proof/Machine/Moves.lean ====
section
/-! DEFINITION. Moves of rows (R235 to R239): the budget of an epoch, the copy and the switch, and the moves that set a partition's lines and
pinned rows where they belong. -/

namespace Sys2Proof.Machine

/-! ### The budget of an epoch (R235, R277) -/

/-- The paths of a place: stack ports 0 to 7, expanders 8 to 11, the host port 12. -/
def pathOf (p : Place) : List Nat :=
  match p.tier with
  | 1 => [p.addr / 2 ^ 36]
  | 2 => [8 + (p.addr - 2 ^ 40) / 2 ^ 40]
  | 3 => [12]
  | 4 => [12]
  | _ => []

/-- The bond channel that a move between halves takes, by its cluster pair: that of the source, the model's own choice (R235). -/
def bondPath (a b : Nat) : List Nat := if halfOf a = halfOf b then [] else [16 + a % 256]

/-- The peer link of a port. -/
def peerPath (port : Nat) : Nat := 512 + port

/-- Bytes of a path's share in one epoch (R235, R277): paths from 16 on are bond channels, from 512 on peer links. -/
def pathShare (s : State) (p : Nat) : Nat :=
  if p < 8 then 102400000 else if p < 12 then 3200000 else if p = 12 then 2560000 else if p < 512 then 3200000
  else 8960000 * (Tab.getD s.links.peers (p - 512) {}).lanes / 16

/-- The paths have room for `n` bytes more in this epoch. -/
def planRoom (s : State) (n : Nat) (ps : List Nat) : Bool :=
  ps.all fun p => decide (Tab.getD s.work.tbl.moved p 0 + n * (ps.filter fun q => decide (q = p)).length ≤ pathShare s p)

/-- A move takes its share of its paths. -/
def takePaths (n : Nat) (ps : List Nat) (s : State) : State :=
  updTables (fun w => { w with moved := ps.foldl (fun u p => Tab.put u p (Tab.getD u p 0 + n)) w.moved }) s

/-! ### The copy (R237, R239) -/

/-- The head of each MOVE packet of a row (log entry 16): key, stamp, delta versions. -/
def moveHead (key : Nat) (r : Row) : List Byte := toBytes 16 (packFields [(0, 64, key), (64, 48, r.stamp), (112, 16, r.deltas.length)])

/-- A row as MOVE packets carry it (R266; log entry 16): its footprint and its delta versions. -/
def moveBytes (r : Row) : List Byte :=
  pad16 r.bytes ++
    r.deltas.flatMap fun d =>
      toBytes 16 (packFields [(0, 48, d.lo), (48, 48, d.hi), (96, 1, b2n d.data.isSome), (97, 1, b2n d.fenced)]) ++
        pad16 (d.data.getD [])

/-- Bytes of a row in one MOVE packet, beside its head (R265). -/
def moveChunk : Nat := 65520

/-- The copy of a row goes to another device, in packets of at most 64 KiB, the last with LAST set (R265). -/
def sendMove (key dev : Nat) (s : State) : State :=
  let r := rowOf s key
  let bs := moveBytes r
  let ps := chunks moveChunk ((bs.length + moveChunk - 1) / moveChunk) bs
  (ps.zip (List.range ps.length)).foldl (fun s p =>
    peerSend 7 dev 4095 (tdCtxOf s (keyHandle key)) 0 (decide (p.2 + 1 = ps.length)) (moveHead key r ++ p.1) s) s

/-- The copy sent has not been acknowledged. -/
def moveUnacked (s : State) (key dev : Nat) : Bool :=
  match Tab.get? s.work.chain.flows (flowKey dev 4095) with
  | some f => f.unacked.any fun p => decide (bits p.hdr 0 4 = 7) && decide (ofBytes (p.raw.take 8) = key)
  | none => false

/-- The row has been read at its source, as far as the state says; READs of T4 pages go out. The flag tells that it is done. A page that
does not decode is lost (R239, R244). -/
def copySource (key : Nat) (s : State) : Bool × State :=
  let r := rowOf s key
  let h := keyHandle key
  if r.t0.isSome || decide (r.chain ≠ 0) then (true, s)
  else match fetch s (.move key) h r.place r.backing with
    | .got bs => (true, updRow key (fun r => { r with backing := bs }) s)
    | .wait s => (false, s)
    | .away => (false, s)
    | .broken k => (false, losePage (pageLoc s h k) h k none s)

/-- The row as its backing location at the destination would store it. -/
def copyStored (key : Nat) (p : Place) (s : State) : State :=
  storeRowPages key (updRow key (fun r => { r with place := p, backing := r.bytes }) s)

/-- The copy goes on: the source is read, and the pages of T4 at the destination are written. The flag tells that nothing is
outstanding. -/
def copyStep (key : Nat) (d : MoveDest) (s : State) : Bool × State :=
  match copySource key s with
  | (false, s) => (false, s)
  | (true, s) => match d with
    | .place p =>
      let ws := t4Writes s (copyStored key p s) (keyHandle key)
      if p.tier ≠ 4 || t4Wrote s (.move key) ws then (true, s)
      else (false, if t4Waiting s (.move key) then s else (t4SendAll (.move key) 2 ws s).getD s)
    | .cluster .. => (true, s)
    | .device a => (!moveUnacked s key a, s)

/-- The copy of a move begins: what has come for an earlier one is let go. -/
def copyBegin (key : Nat) (d : MoveDest) (s : State) : State :=
  let s := (copyStep key d (t4Clear (.move key) s)).2
  match d with
  | .device a => sendMove key a s
  | _ => s

/-- The destination of a move is in service (R239, R253, R454). -/
def destUp (s : State) (key : Nat) (d : MoveDest) : Bool :=
  match d with
  | .place p => placeUp s (keyHandle key) p (placedOf s key)
  | .cluster c _ _ => (serviceClusters s).contains c
  | .device a => reachable s a

/-- A move of a row can begin: it is on this device and readable, and has no move. -/
def moveReady (s : State) (key : Nat) : Bool :=
  let r := rowOf s key
  r.written && !r.fenced && r.move.isNone && decide (r.chain = 0) && decide (r.place.tier ≤ 4) && (r.t0.isSome || rowUp s key)

/-- A move of a row begins, not to a cluster in L2 or L3 (R481). -/
def startMove (key : Nat) (d : MoveDest) (s : State) : Option State :=
  let asleep := match d with
    | .cluster c _ _ => decide (2 ≤ (lullOf s (c % 256)).state)
    | _ => false
  if !moveReady s key || !destUp s key d || asleep then none
  else some (copyBegin key d (updRow key (fun r => { r with move := some { dest := d } }) s))

/-- A move begins where its paths have room in this epoch. The flag tells whether it has. -/
def planMove (key : Nat) (d : MoveDest) (ps : List Nat) (s : State) : Bool × State :=
  let n := placedOf s key
  if !planRoom s n ps then (false, s)
  else match startMove key d s with
    | some s => (true, takePaths n ps s)
    | none => (false, s)

/-- A row begins to move to the first of the tiers given whose limit, under the descriptor given, and pool have room (R211, R214, R233). The
first flag tells that some tier has room, the second that the move has begun. -/
def planTiers (key : Nat) (t : Table) (tiers : List Nat) (s : State) : Bool × Bool × State :=
  match choosePlace s key t tiers with
  | none => (false, false, s)
  | some (p, s') =>
    let (ok, s'') := planMove key (.place p) (pathOf (rowOf s key).place ++ pathOf p) s'
    (true, ok, if ok then s'' else s)

/-! ### Copies set where they belong (R217 to R219) -/

/-- The line that a copy is to have: its own where that is one of its row's set, else a free way of that set (R218, R219). -/
def lineFor (s : State) (h : Nat) (t : Table) (key set way : Nat) : Option (Nat × Nat) :=
  let x := setOf t.part.nsets key
  if x = set then some (set, way)
  else
    let used := takenWays s h x
    ((way :: List.range t.part.waysOn).find? fun w => !used.contains w && decide (w < t.part.waysOn)).map fun w => (x, w)

/-- Lines of a set are still leaving it. -/
def setLeaving (s : State) (h : Nat) (t : Table) (set : Nat) : Bool :=
  (linesOf s h set).any fun l => (rowOf s l.1).leaving || t4Waiting s (.clean l.1) || decide (setOf t.part.nsets l.1 ≠ set)

/-- A T0 copy goes to a cluster, core and line: at once where `now` holds or it lies there already, else by a move. -/
def seatCopy (now : Bool) (key : Nat) (c : T0Copy) (cl core : Nat) (line : Option (Nat × Nat)) (s : State) : State :=
  if now || decide ((cl, core) = (c.cluster, c.core)) then
    updRow key (fun r => { r with t0 := some { c with
      cluster := cl, core := core, line := line, shadow := if c.shadow.isSome then shadowHome s cl c.bytes.length else none } }) s
  else (planMove key (.cluster cl core line) (bondPath c.cluster cl) s).2

/-- A copy that does not lie where it belongs begins to move there; a line that finds no way in its set leaves T0, and so does an unpinned row
(R214, R219, R223, R237, R241). `now` sets copies there at once, as a cluster leaves service (R241). -/
def seatRow (h : Nat) (now : Bool) (s : State) (e : Nat × Row) : State :=
  match tbl? s h, (rowOf s e.1).t0 with
  | some t, some c =>
    let f := footprint (shapeOf t.desc)
    match c.line with
    | some (set, way) =>
      if t.part.nsets = 0 then s
      else match lineFor s h t e.1 set way with
        | none => if setLeaving s h t (setOf t.part.nsets e.1) then s else (evictRow e.1 s).2
        | some (x, w) => seatCopy now e.1 c (homeOf t.part x).1 (lineCore s t.part f x w) (some (x, w)) s
    | none =>
      if t.pinBelow ≤ keyIndex e.1 then
        if (rowOf s e.1).committing then s
        else match (if c.dirty then cleanCopy e.1 s else (true, s)) with
          | (true, s) => dropCopy e.1 s
          | (false, s) => s
      else seatCopy now e.1 c (homeOf t.part (keyIndex e.1)).1 (pinnedCore s t.part f (keyIndex e.1)) none s
  | _, _ => s

/-- The copies of a table are set where they belong. A copy whose row moves already is left. -/
def reseat (h : Nat) (now : Bool) (s : State) : State :=
  ((tableRows s h).filter fun e => now || e.2.move.isNone).foldl (seatRow h now) s

/-- Written rows that are pinned and have no T0 copy take one: their backing locations are read (R217). A row in T4 is asked for. -/
def pinWritten (h : Nat) (s : State) : State :=
  (tableRows s h).foldl (fun (s : State) e =>
    match tbl? s h with
    | none => s
    | some t =>
      let r := rowOf s e.1
      if !isPinned t (keyIndex e.1) || r.t0.isSome || r.move.isSome || r.committing || !r.written || r.fenced || decide (r.chain ≠ 0) then s
      else match fetch s (.fill e.1) h r.place r.backing with
        | .got bs => pinRow t e.1 bs false (t4Clear (.fill e.1) (updRow e.1 (fun r => { r with backing := bs }) s))
        | .wait s => s
        | .away => s
        | .broken k => losePage (pageLoc s h k) h k none s) s

end Sys2Proof.Machine
end

