-- ==== Sys2Proof/Machine/Pending.lean ====
section
/-! DEFINITION. Commands that go on until rows have moved: TABLE_CREATE with MODIFY (R214), RANGE_MAP (R212, R330), UNMAP of a TIER_POOL
range (R332), T4_ATTACH with a capacity of 0 (R250), and the slice of a channel that retires (R455). -/

namespace Sys2Proof.Machine

/-- What has become of the rows that a command waits for. -/
inductive Going where
  /-- They are out of its way. -/
  | gone
  /-- They move, or wait for room in the budget, a commit or the host agent. -/
  | wait
  /-- Some cannot be moved. -/
  | stuck
  deriving DecidableEq, Repr

/-- Two parts of a command together. -/
def Going.and : Going → Going → Going
  | .gone, g => g
  | g, .gone => g
  | .stuck, .stuck => .stuck
  | _, _ => .wait

/-- Steps for several things, one after the other. -/
def goEach {α : Type} (f : α → State → Going × State) (xs : List α) (s : State) : Going × State :=
  xs.foldl (fun acc x => let r := f x acc.2
                         (acc.1.and r.1, r.2)) (.gone, s)

/-- One step, then another. -/
def goThen (a b : State → Going × State) (s : State) : Going × State :=
  let r := a s
  let q := b r.2
  (r.1.and q.1, q.2)

/-- The outcome of a command, where it has one: a row that cannot be moved ends it once no row moves any more. -/
def Going.status (g : Going) (s : State) (bad : Status) : Option Status :=
  match g with
  | .gone => some .ok
  | .wait => none
  | .stuck => if s.work.tbl.rows.any fun e => e.2.move.isSome then none else some bad

/-! ### Rows -/

/-- A row leaves the places that satisfy a test, for the first of the tiers given with room under the descriptor given (R212, R214). -/
def rowOut (t : Table) (tiers : List Nat) (bad : Place → Bool) (key : Nat) (s : State) : Going × State :=
  let s := if (rowOf s key).target.any bad then abandonMove key s else s
  let r := rowOf s key
  if !r.places.any bad then (.gone, s)
  else if r.move.isSome then (.wait, s)
  else if !moveReady s key then (.stuck, s)
  else match planTiers key t tiers s with
    | (false, _, s) => (.stuck, s)
    | (true, _, s) => (.wait, s)

/-- The delta versions of a row at places that satisfy a test are read (R238). -/
def deltasRead (bad : Place → Bool) (key : Nat) (s : State) : Going × State :=
  let h := keyHandle key
  goEach (fun i s => match (rowOf s key).deltas[i]? with
    | none => (.gone, s)
    | some d => match d.data with
      | none => (.gone, s)
      | some bs =>
        if d.place.tier = 0 || !bad d.place || d.fenced then (.gone, s)
        else match fetch s (.deltas key) h d.place bs with
          | .got bs => (.gone, updRow key (fun r => { r with deltas := r.deltas.set i { d with data := some bs } }) s)
          | .wait s => (if t4Waiting s (.deltas key) then .wait else .stuck, s)
          | .away => (.stuck, s)
          | .broken k => (.gone, losePage (pageLoc s h k) h k none s)) (List.range (rowOf s key).deltas.length) s

/-- Delta versions of a row leave the places that satisfy a test (R238). Those that go to T4 are there when the host agent has written their
pages. -/
def deltasOut (tiers : List Nat) (bad : Place → Bool) (key : Nat) (s : State) : Going × State :=
  if !(rowOf s key).deltas.any fun d => decide (d.place.tier ≠ 0) && bad d.place then (.gone, s)
  else match deltasRead bad key s with
    | (.gone, s) => match sendDeltas key (fun p => decide (p.tier ≠ 0) && bad p) tiers s with
      | none => (.stuck, s)
      | some s' => match throughT4 (.deltas key) (keyHandle key) s (freePages (keyHandle key) s') with
        | (true, s) => (.gone, s)
        | (false, s) => (if t4Waiting s (.deltas key) then .wait else .stuck, s)
    | r => r

/-- A row and its delta versions leave the places of a tier that satisfy a test: to other tiers first, then inside the tier. -/
def versionsOut (tier : Nat) (bad : Place → Bool) (key : Nat) (s : State) : Going × State :=
  match tbl? s (keyHandle key) with
  | none => (.gone, s)
  | some t =>
    let tiers := (tiersOf s t).filter (fun k => decide (k ≠ tier)) ++ (tiersOf s t).filter fun k => decide (k = tier)
    goThen (rowOut t tiers bad key) (deltasOut tiers bad key) s

/-- Rows of a table, the coldest shards first (R214). -/
def coldestRows (s : State) (h : Nat) (p : Row → Bool) : List Nat :=
  (sortBy (fun e : Nat × Row => loadOf s e.1) ((tableRows s h).filter fun e => p e.2)).map Prod.fst

/-! ### Areas that are emptied (R212, R332, R455) -/

/-- A place of a tier, or a cold page that it lies in, meets an area. -/
def placeMeets (s : State) (key tier a n : Nat) (p : Place) : Bool :=
  decide (p.tier = tier) &&
    (match p.page with
     | none => meets p.addr (placedOf s key) a n
     | some _ => (p.pages (placedOf s key)).any fun k => (coldPage s (keyHandle key) k).any fun pg => meets pg.base 4096 a n)

/-- A free page of the pools for a page of a MIGRATABLE range: T1 first, then T2 (R345). -/
def freePage (s : State) : Option Nat :=
  (if poolRoom s 1 4096 then fitTier s 1 4096 4096 else none) <|> (if poolRoom s 2 4096 then fitTier s 2 4096 4096 else none)

/-- Every page of a MIGRATABLE range on the device: range, page and device address. -/
def allPages (s : State) : List (Nat × Nat × Nat) := s.ranges.flatMap fun e => e.2.devicePages.map fun p => (e.1, p.1, p.2)

/-- A page of a MIGRATABLE range leaves an area. -/
def pageOut (a n : Nat) (x : Nat × Nat × Nat) (s : State) : Going × State :=
  if !meets x.2.2 4096 a n then (.gone, s)
  else match freePage s with
    | none => (.stuck, s)
    | some q =>
      let bs := cellRead 0 s.mem x.2.2 4096
      (.gone, { s with
        mem := cellWrite 0 (cellClear s.mem x.2.2 4096) q bs
        ranges := Tab.upd s.ranges x.1 fun g => { g with devicePages := Tab.put g.devicePages x.2.1 q } })

/-- Rows leave a tier, the coldest first, until the pool holds what is in it. -/
def relieve (tier : Nat) (s : State) : Going × State :=
  let goes (e : Nat × Row) : Bool := e.2.moving && decide (e.2.place.tier = tier) && !(e.2.target.any fun p => decide (p.tier = tier))
  let out := sumNat ((s.work.tbl.rows.filter goes).map fun e => placedOf s e.1)
  let need := poolUsed s tier - poolBytes s tier
  if need = 0 then (.gone, s)
  else
    let rows := sortBy (fun k => loadOf s k) ((s.work.tbl.rows.filter fun e =>
      decide (e.2.place.tier = tier) && moveReady s e.1).map Prod.fst)
    let (_, g, s) := rows.foldl (fun (acc : Nat × Going × State) key =>
      if need ≤ acc.1 then acc
      else match tbl? acc.2.2 (keyHandle key) with
        | none => acc
        | some t => match planTiers key t ((tiersOf acc.2.2 t).filter fun k => decide (k ≠ tier)) acc.2.2 with
          | (false, _, s) => (acc.1, acc.2.1, s)
          | (true, _, s) => (acc.1 + placedOf s key, .wait, s)) (out, if out = 0 then Going.stuck else Going.wait, s)
    (g, s)

/-- Rows, delta versions and pages of MIGRATABLE ranges leave an area of a tier, and the pool holds what is left (R212). -/
def emptyArea (tier a n : Nat) (s : State) : Going × State :=
  let bad (key : Nat) : Place → Bool := placeMeets s key tier a n
  let r := goEach (fun key s => versionsOut tier (bad key) key s) (s.work.tbl.rows.map Prod.fst) s
  let q := goEach (pageOut a n) (allPages r.2) r.2
  let p := relieve tier q.2
  (r.1.and (q.1.and p.1), p.2)

/-! ### MODIFY (R214) -/

/-- Rows that a scratchpad table pins (R217). -/
def pinnedRows (d : BitVec 1024) : Nat := if tdLimit d 0 = noLimit then tdRowLimit d + 1 else min (tdLimit d 0) (tdRowLimit d + 1)

/-- Rows that a table pins under a new descriptor: rows once unpinned stay so while T0_LIMIT stays as it is (R214, R241). -/
def newPins (t : Table) (d : BitVec 1024) : Nat := if tdLimit t.desc 0 = tdLimit d 0 then t.pinBelow else pinnedRows d

/-- The tier in which a row lies when its move is over; 0 for one that leaves the device. -/
def Row.finalTier (r : Row) : Nat :=
  match r.move with
  | some m => if m.switched then r.place.tier else match m.dest with
    | .place p => p.tier
    | .cluster .. => r.place.tier
    | .device _ => 0
  | none => r.place.tier

/-- The excess rows of tier `k` leave it (R214). -/
def lowerTier (h : Nat) (t : Table) (k : Nat) (s : State) : Going × State :=
  if tdLimit t.desc k = noLimit ∨ tierRows s h k ≤ tdLimit t.desc k then (.gone, s)
  else
    let stay := ((tableRows s h).filter fun e => decide (e.2.finalTier = k)).length
    let rows := ((coldestRows s h fun r => decide (r.place.tier = k)).filter (moveReady s)).take (stay - tdLimit t.desc k)
    let r := goEach (rowOut t ((tiersOf s t).filter fun x => decide (x ≠ k)) fun p => decide (p.tier = k)) rows s
    (if rows.isEmpty then .stuck else r.1, r.2)

/-- A T0 copy is cleaned and dropped (R214, R225). -/
def copyOut (key : Nat) (s : State) : Going × State :=
  let r := rowOf s key
  match r.t0 with
  | none => (.gone, s)
  | some c =>
    if r.committing || r.migrating || r.leaving then (.wait, s)
    else
      let (clean, s) := if c.dirty then cleanCopy key s else (true, s)
      if clean then (.gone, dropCopy key s) else (if t4Waiting s (.clean key) then .wait else .stuck, s)

/-- The excess T0 copies leave (R214). -/
def lowerT0 (h : Nat) (d : BitVec 1024) (s : State) : Going × State :=
  let out : List Nat :=
    if tdLimit d 0 = noLimit then []
    else if tdMode d = 1 then
      ((tableRows s h).filter fun e => e.2.t0.isSome && decide (tdLimit d 0 ≤ keyIndex e.1)).map Prod.fst
    else (coldestRows s h fun r => r.t0.isSome).take (t0Rows s h - tdLimit d 0)
  goEach copyOut out s

/-- The seats of a scratchpad table for `n` pinned rows (R217). -/
def setPins (h : Nat) (d : BitVec 1024) (n : Nat) (s : State) : State :=
  if tdMode d = 1 then reseat h false (updTbl h (fun t => { t with part := (partOf s h d n t.part).getD t.part, pinBelow := n }) s) else s

/-- A table takes its new descriptor. -/
def finishModify (h : Nat) (d : BitVec 1024) (s : State) : State :=
  match tbl? s h with
  | none => s
  | some t => deltaHighCheck h (pinWritten h (setPins h d (newPins t d) (updTbl h (fun t => { t with desc := d }) s)))

/-- TABLE_CREATE with MODIFY goes on (R214). -/
def stepModify (h : Nat) (d : BitVec 1024) (s : State) : Option Status × State :=
  match tbl? s h with
  | none => (some .noTable, s)
  | some t =>
    if t.deleting then (some .noTable, s)
    else
      let r := goThen (lowerT0 h d) (goEach (lowerTier h { t with desc := d }) [1, 2, 3, 4]) s
      match r.1.status r.2 .tableFull with
      | some .ok => (some .ok, finishModify h d r.2)
      | some st => (some st, setPins h t.desc t.pinBelow r.2)
      | none => (none, r.2)

/-! ### RANGE_MAP, UNMAP and T4_ATTACH (R212, R250, R330, R332) -/

/-- RANGE_MAP goes on: its memory is zero when it completes (R330). -/
def stepMap (base : Nat) (g : Range) (s : State) : Option Status × State :=
  let r := emptyArea (if g.kind = .stack then 1 else 2) base g.len s
  match r.1.status r.2 .noCapacity with
  | some .ok =>
    let s := r.2
    (some .ok, clearFences base g.len { s with ranges := Tab.put s.ranges base g, mem := cellClear s.mem base g.len })
  | o => (o, r.2)

/-- Translation copies that a range's addresses use are dropped (R332). -/
def dropRangeCopies (g : Range) (s : State) : State :=
  { s with ats := { s.ats with copies := s.ats.copies.filter fun c =>
      !(decide (g.kind = .host) && decide (c.pasid = g.space) && meets c.hostAddr c.len g.hostStart g.len) } }

/-- Fences inside an area are freed (R449). -/
def freeFences (a n : Nat) (s : State) : State :=
  { s with faults := { s.faults with fences := s.faults.fences.filter fun e =>
      !(decide (4 ≤ e.1 % 16) && decide (e.1 % 16 ≤ 7) && meets (e.1 / 16 * 16) 16 a n) } }

/-- A STACK range that covers part of the slice of a stack, or is being made there (R455). -/
def sliceRange (s : State) (p : Nat) : Option (Nat × Range) :=
  let making := s.work.tbl.pending.filterMap fun x => match x.kind with
    | .map base g => some (base, g)
    | _ => none
  (s.ranges ++ making).find? fun e => decide (e.2.kind = .stack) && meets e.1 e.2.len (sliceOf s p).1 (sliceOf s p).2

/-- A retirement that a STACK range held begins once no such range covers the slice (R455). -/
def retireUnblock (s : State) : State :=
  (List.range 8).foldl (fun (s : State) p =>
    match (stackPort s p).retireBlocked with
    | some ch =>
      if (sliceRange s p).isSome then s
      else { s with stackTab := Tab.upd s.stackTab p (fun x => { x with retireBlocked := none })
                    faults := { s.faults with retiring := s.faults.retiring ++ [p * 32 + ch] } }
    | none => s) s

/-- A range is removed (R332). -/
def removeRange (base : Nat) (g : Range) (s : State) : State :=
  ctxCheck g.ctx (retireUnblock (freeFences base g.len (dropRangeCopies g { s with
    ranges := Tab.del s.ranges base, mem := if g.kind = .host then s.mem else cellClear s.mem base g.len })))

/-- UNMAP of a TIER_POOL range goes on: its rows go to other tiers, or the range is as it was (R332). A range of a context that is being
destroyed stays UNMAPPING. -/
def stepUnpool (base : Nat) (s : State) : Option Status × State :=
  match Tab.get? s.ranges base with
  | none => (some .ok, s)
  | some g =>
    let r := emptyArea 3 base g.len s
    match r.1.status r.2 .noCapacity with
    | some .ok => (some .ok, removeRange base g r.2)
    | some st =>
      (some st, if (ctxD r.2 g.ctx).destroying then r.2 else
        let s := r.2
        { s with ranges := Tab.upd s.ranges base fun g => { g with unmapping := false } })
    | none => (none, r.2)

/-- Commits that wait for WRITEs start their write again. -/
def restartT4Commits (s : State) : State :=
  updUpd (fun u => { u with runs := u.runs.map fun e =>
    if e.2.phase = .t4Wait then (e.1, { e.2 with phase := .committing }) else e }) s

/-- T4_ATTACH with a capacity of 0 goes on: T4 is emptied, and then detached (R250). -/
def stepDetach (s : State) : Option Status × State :=
  let r := goEach (fun key s => versionsOut 4 (fun p => decide (p.tier = 4)) key s) (s.work.tbl.rows.map Prod.fst) s
  match r.1.status r.2 .noCapacity with
  | some .ok => (some .ok, restartT4Commits (updT4 (fun t => { ({} : T4) with nextSeq := t.nextSeq }) r.2))
  | o => (o, r.2)

/-! ### All of them -/

/-- A command goes on. -/
def stepPending (k : PendKind) (s : State) : Option Status × State :=
  match k with
  | .modify h d => stepModify h d s
  | .map base g => stepMap base g s
  | .unpool base => stepUnpool base s
  | .detach => stepDetach s

/-- A command that goes on takes a step, and ends where it has an outcome. -/
def pendingStep (s : State) (x : Pending) : State :=
  match stepPending x.kind s with
  | (none, s) => s
  | (some st, s) => jobEnd x.job st 0 (updTables (fun w => { w with pending := w.pending.filter fun y => decide (y ≠ x) }) s)

/-- What waits for rows to move goes on: commands, and the slices of channels that retire. -/
def continueJobs (s : State) : State :=
  let s := s.faults.retiring.foldl (fun s e => (emptyArea 1 (sliceOf s (e / 32)).1 (sliceOf s (e / 32)).2 s).2) s
  s.work.tbl.pending.foldl pendingStep s

/-- A command begins, and ends at once where nothing is in its way. -/
def beginPending (kind : PendKind) (s : State) : MbxRes :=
  let id := s.work.tbl.nextPublish
  let x : Pending := { job := .placing id, kind := kind }
  match stepPending kind (updTables (fun w => { w with pending := w.pending ++ [x], nextPublish := id + 1 }) s) with
  | (none, s) => .waits s (.placing id)
  | (some st, s) => .reply (updTables (fun w => { w with pending := w.pending.filter fun y => decide (y ≠ x) }) s) st 0

end Sys2Proof.Machine
end

