-- ==== Sys2Proof/Machine/Tables.lean ====
section
/-! DEFINITION. Tables and generations (R65 to R93, R275, R383): creation and change, loads, publishes, retirement, deletion, and their
relays to the devices of a shard map. -/

namespace Sys2Proof.Machine

/-! ### Table descriptors (R67, R68, R214) -/

/-- COLD_COMPRESS of ENG_CAPS0 reads 1: neither half is of stepping B0 (R426). -/
def coldCompress (s : State) : Bool :=
  decide (steppingOf s.fuses.lowerId ≠ 0x10) && decide (steppingOf s.fuses.upperId ≠ 0x10)

/-- The argument block with MODIFY as the row gives it. -/
def tcArgs (modify : Bool) (m : MbxCall) : BitVec 2048 := setField m.args 1024 1 (b2n modify)

/-- The descriptor of the argument block. -/
def tcDesc (m : MbxCall) : BitVec 1024 := BitVec.ofNat 1024 (bits m.args 0 1024)

/-- A reserved field or value of the descriptor is not zero, or it asks for a capability that the device lacks (R67, R427). -/
def tdReserved (s : State) (d : BitVec 1024) : Bool :=
  !zeroFields d [(47, 1), (54, 2), (60, 4), (112, 16), (138, 6), (148, 44), (240, 16), (304, 16), (368, 16), (432, 16), (496, 16),
    (544, 32), (632, 8), (656, 368)] ||
  decide (bits d 45 2 = 3) || decide (bits d 48 2 = 3) || decide (4 < bits d 51 3) || decide (tdMode d = 3) ||
  decide (3 < tdProbe d) || (tdCompress d && !coldCompress s)

/-- The format and scaling are refused (R32, R68). -/
def tdFormatBad (d : BitVec 1024) : Bool :=
  match formatOf (bits d 24 4), scalingOf (bits d 28 4) with
  | some f, some sc => decide (f = .int32) || !scalingPermits f sc
  | _, _ => true

/-- The remainder plane is not permitted (R57). -/
def tdRemBad (d : BitVec 1024) : Bool :=
  decide (bits d 45 2 ≠ 0) && !remPermits (shapeOf d).format (shapeOf d).scaling

/-- The policy fields conflict (R68). -/
def tdConflict (d : BitVec 1024) : Bool :=
  (!tdMayLeave d && (decide (tdLimit d 2 ≠ 0) || decide (tdLimit d 3 ≠ 0) || decide (tdLimit d 4 ≠ 0))) ||
  (tdSharded d && !tdMayLeave d) || (decide (tdMode d = 0) && (decide (tdWays d < 2)))

/-- The shard map is installed on this device for the context (R272). -/
def mapInstalled (s : State) (ctx id : Nat) : Bool :=
  match Tab.get? s.work.chain.maps id with
  | some m => decide (m.ctx = ctx)
  | none => false

/-- The checks of R68 from BAD_FORMAT to NO_SHARD_MAP. -/
def tdFault (s : State) (d : BitVec 1024) : Option Status :=
  if tdFormatBad d then some .badFormat
  else if tdRemBad d then some .badRemainder
  else if 65536 < recordBytes (shapeOf d) ∨ 65536 < stateBytes (shapeOf d) then some .rowTooLarge
  else if tdConflict d then some .policyConflict
  else if tdSharded d && !mapInstalled s (tdCtx d) (tdShardMap d) then some .noShardMap
  else none

/-- Delta versions leave T0 at once, where T1 to T3 have room for them. -/
def spillNow (s : State) (e : Nat × Row) : State :=
  match tbl? s (keyHandle e.1) with
  | none => s
  | some t => (sendDeltas e.1 (fun p => decide (p.tier = 0)) ((tiersOf s t).filter fun k => decide (k ≠ 4)) s).getD s

/-- Slots for `n` pinned rows of a table, where delta versions leave T0 if they are in the way (R217). -/
def reserveRows (h : Nat) (d : BitVec 1024) (n : Nat) (old : Partition) (s : State) : Option (Partition × State) :=
  match partOf s h d n old with
  | some p => some (p, s)
  | none =>
    let s := s.work.tbl.rows.foldl spillNow s
    (partOf s h d n old).map fun p => (p, s)

/-- The partition of a new table: sets and ways of a cache (R219), reserved slots of a scratchpad (R217), or nothing. None where the slots
cannot be reserved. -/
def newPartition (h : Nat) (d : BitVec 1024) (s : State) : Option (Partition × State) :=
  match tdMode d with
  | 0 =>
    let most := min (tdLimit d 0 / tdWays d) (offeredUnits s h (footprint (shapeOf d)) (tdWays d))
    some ({ (if most = 0 then {} else sizeSets s h d {} (Nat.log2 most)) with waysOn := tdWays d }, s)
  | 1 => reserveRows h d (pinnedRows d) {} s
  | _ => some ({}, s)

/-- TABLE_CREATE (R68). -/
def execTableCreate (m : MbxCall) : State → Host.Outcome State Fault Refusal :=
  mbxRow (mailbox 0x20 true false false (tcArgs false m) (fun s =>
    let a := tcArgs false m
    let d := tcDesc m
    let h := bits d 0 16
    if tdReserved s d || !zeroFields a [(1025, 1023)] then .refuse .badReserved
    else if h = 0xFFFF then .refuse .badHandle
    else if !ctxOk s m (tdCtx d) then .refuse .badContext
    else if Tab.has s.work.tbl.tables h then .refuse .tableExists
    else if 65535 ≤ s.work.tbl.tables.length then .refuse .tableLimit
    else match tdFault s d with
      | some st => .refuse st
      | none => match newPartition h d s with
        | none => .refuse .noCapacity
        | some (p, s) =>
          let t : Table := { desc := d, ctx := tdCtx d, part := p, pinBelow := pinnedRows d }
          .reply (updTables (fun w => { w with tables := Tab.put w.tables h t }) s) .ok 0) m)

/-- The descriptor without the fields that MODIFY may change (R67). -/
def tdFixed (d : BitVec 1024) : BitVec 1024 :=
  [(56, 3), (59, 1), (192, 48), (256, 48), (320, 48), (384, 48), (448, 48), (512, 32)].foldl (fun d f => setField d f.1 f.2 0) d

/-- TABLE_CREATE with MODIFY (R67, R68, R214). -/
def execTableCreateModify (m : MbxCall) : State → Host.Outcome State Fault Refusal :=
  mbxRow (mailbox 0x20 true false false (tcArgs true m) (fun s =>
    let a := tcArgs true m
    let d := tcDesc m
    let h := bits d 0 16
    if tdReserved s d || !zeroFields a [(1025, 1023)] then .refuse .badReserved
    else if h = 0xFFFF then .refuse .badHandle
    else if !ctxOk s m (tdCtx d) then .refuse .badContext
    else match liveTbl s (tdCtx d) h with
      | none => .refuse .noTable
      | some t =>
        if tdFixed d ≠ tdFixed t.desc then .refuse .badModify
        else if 65535 ≤ s.work.tbl.tables.length then .refuse .tableLimit
        else match tdFault s d with
          | some st => .refuse st
          | none =>
            if tdMode d = 1 ∧ t.pinBelow < newPins t d then match reserveRows h d (newPins t d) t.part s with
              | none => .refuse .noCapacity
              | some (p, s) => beginPending (.modify h d) (reseat h false (updTbl h (fun t => { t with part := p }) s))
            else beginPending (.modify h d) s) m)

/-! ### Relays of sharded tables (R275) -/

/-- Devices of a shard map (R270). -/
def mapDevices (m : ShardMap) : List Nat := (m.entries.map Prod.snd ++ ranksOf m.eligible ++ ranksOf m.users).eraseDups

/-- Other devices of the map of a sharded table. -/
def tableDevices (s : State) (h : Nat) : List Nat :=
  match tbl? s h with
  | some t => if tdSharded t.desc then
      (mapDevices (Tab.getD s.work.chain.maps (tdShardMap t.desc) {})).filter fun a => decide (a ≠ me s) else []
  | none => []

/-- Kinds of relay: a question for the highest numbers, a publish, a retirement, a REPLACE load and a deletion. -/
inductive RelayKind where
  | query | publish | retire | replace | delete
  deriving DecidableEq, Repr

/-- The code of a relay kind (log entry 16). -/
def RelayKind.code : RelayKind → Nat
  | .query => 1 | .publish => 2 | .retire => 3 | .replace => 4 | .delete => 5

/-- A relay goes to every device of the list. -/
def relaySend (k : RelayKind) (devs : List Nat) (ctx handle id arg : Nat) (tail : List Byte) (s : State) : State :=
  devs.foldl (fun s d => ctlSend .relay d 4095 ctx k.code handle id arg tail s) s

/-- The tables of a list that a device shares by their maps (R275). -/
def sharedWith (s : State) (d : Nat) (hs : List Nat) : List Nat := hs.filter fun h => (tableDevices s h).contains d

/-- A relay about several tables goes to every device of the list, with the handles that it shares; their number stands in the 16-bit number of
the head (R275; log entry 16). -/
def relayTables (k : RelayKind) (devs : List Nat) (ctx id arg : Nat) (hs : List Nat) (s : State) : State :=
  devs.foldl (fun s d =>
    let mine := sharedWith s d hs
    ctlSend .relay d 4095 ctx k.code mine.length id arg (mine.flatMap fun h => toBytes 2 h) s) s

/-- A report goes to the device that relayed. -/
def reportSend (k : RelayKind) (dst id : Nat) (bad : Bool) (tail : List Byte) (s : State) : State :=
  ctlSend .relayReport dst 4095 0 k.code (b2n bad) id 0 tail s

/-- A PUBLISH task has done its work, with FIRST_GENERATION for its record (R378, R381). -/
def publishedFor (q n first : Nat) (s : State) : State :=
  updTask q n (fun t => { t with effected := true, record := toBytes 64 (first % 2 ^ 48) }) s

/-- A relayed command completes when this device and every other has finished its part (R275). -/
def relayFinish (id : Nat) (s : State) : State :=
  match s.work.chain.relays.find? fun r => decide (r.id = id) with
  | some r =>
    if r.localDone ∧ r.waiting.isEmpty then
      let s := updChain (fun c => { c with relays := c.relays.filter fun x => decide (x.id ≠ id) }) s
      match r.task with
      | none => jobEnd r.job r.status r.result s
      | some (q, n) => if r.status = .ok then publishedFor q n r.result s else failTask q n r.status {} s
    else s
  | none => s

/-- A relay of this device is changed. -/
def updRelay (id : Nat) (f : Relay → Relay) (s : State) : State :=
  updChain (fun c => { c with relays := updWhere (fun r : Relay => decide (r.id = id)) f c.relays }) s

/-- A publish that waits is changed. -/
def updPublish (id : Nat) (f : Publish → Publish) (s : State) : State :=
  updTables (fun w => { w with publishes := updWhere (fun r : Publish => decide (r.id = id)) f w.publishes }) s

/-- This device's part of a relayed command is done. -/
def relayLocal (id : Nat) (st : Status) (result : Nat) (s : State) : State :=
  relayFinish id (updRelay id (fun r => { r with localDone := true, status := st, result := result }) s)

/-! ### Publishing (R81 to R85) -/

/-- The tables that a publish part names (R381). -/
def pubTables (x : Nat) : List Nat := (List.range (bitsOf x 8 7)).map fun k => bitsOf x (64 + 16 * k) 16

/-- The part breaks R381. -/
def pubReserved (x : Nat) : Bool :=
  let n := bitsOf x 8 7
  decide (bitsOf x 1 7 ≠ 0) || decide (bitsOf x 15 1 ≠ 0) || decide (bitsOf x 24 40 ≠ 0) || decide (bitsOf x 1088 64 ≠ 0) ||
  decide (n = 0) || decide (64 < n) || decide (bitsOf x (64 + 16 * n) (1024 - 16 * n) ≠ 0) ||
  decide ((pubTables x).eraseDups.length ≠ n)

/-- Generations that the device holds in PUBLISHED or RELEASED (R84). -/
def gensHeld (s : State) : Nat := sumNat (s.work.tbl.tables.map fun e => e.2.gens.length)

/-- The first check of R84 after the context that fails, with the table it names. -/
def pubFault (s : State) (ctx : Nat) (hs : List Nat) : Option (Status × Option Nat) :=
  match hs.find? fun h => (liveTbl s ctx h).isNone with
  | some h => some (.noTable, some h)
  | none =>
    match hs.find? fun h => decide (((tbl? s h).map Table.highest) = some (2 ^ 48 - 1)) with
    | some h => some (.generationExhausted, some h)
    | none => if 262144 < gensHeld s + hs.length then some (.generationRecordsFull, none) else none

/-- The publish can cut: its devices have answered, no named table loads, its drain is over, and no earlier publish that names one of
its tables still waits (R82, R83, R85). -/
def cutReady (s : State) (p : Publish) : Bool :=
  p.asking.isEmpty && p.tables.all (fun h => !loading s h) && (p.cutNow || p.tables.all fun h => !scatterBusy s h) &&
    ((s.work.tbl.publishes.takeWhile fun x => decide (x.id ≠ p.id)).all fun x => x.tables.all fun h => !p.tables.contains h)

/-- Each table takes its next number (R74, R81). A publish that was accepted before the DELETE of one of its tables still cuts, and
that table has the new generation until it is freed (DESIGN CHOICE, log entry 73). -/
def stampTables (hs : List Nat) (s : State) : State :=
  hs.foldl (fun s h => updTbl h (fun t => { t with highest := t.highest + 1, gens := Tab.put t.gens (t.highest + 1) {} }) s) s

/-- FIRST_GENERATION: the number that the first table took. -/
def firstGeneration (s : State) (p : Publish) : Nat :=
  match p.tables.head? with
  | some h => ((tbl? s h).map Table.highest).getD 0
  | none => 0

/-- The cut (R81, R85): the generations are visible at once in the model, and the command or the relaying device has its answer. -/
def doCut (p : Publish) (s : State) : State :=
  let s := updTables (fun w => { w with publishes := w.publishes.filter fun x => decide (x.id ≠ p.id) }) s
  let s := releaseHeld (count .publishes 1 (stampTables p.tables s))
  match p.remote with
  | some (src, id) => reportSend .publish src id false [] s
  | none =>
    if p.devices.isEmpty then match p.task with
      | some (q, n) => publishedFor q n (firstGeneration s p) s
      | none => jobEnd (.publish p.id) .ok (firstGeneration s p) s
    else relayLocal p.id .ok (firstGeneration s p) s

/-- A publish is accepted: it drains, waits for a load, or asks the devices of sharded tables for their numbers (R82, R83, R275). -/
def acceptPublish (ctx : Nat) (hs : List Nat) (cutNow : Bool) (task : Option (Nat × Nat)) (s : State) : Publish × State :=
  let id := s.work.tbl.nextPublish
  let sh := hs.filter fun h => !(tableDevices s h).isEmpty
  let devs := (sh.flatMap fun h => tableDevices s h).eraseDups
  let p : Publish := { id := id, ctx := ctx, tables := hs, cutNow := cutNow, task := task, devices := devs, asking := devs }
  let s := updTables (fun w => { w with publishes := w.publishes ++ [p], nextPublish := id + 1 }) s
  (p, relayTables .query devs ctx id 0 sh s)

/-- TABLE_PUBLISH with CUT_NOW as the row gives it. -/
def pubCommand (cutNow : Bool) (m : MbxCall) : State → Host.Outcome State Fault Refusal :=
  let a := setField m.args 0 1 (b2n cutNow)
  mbxRow (mailbox 0x22 true false false a (fun s =>
    let x := bits a 0 1152
    let ctx := bits a 16 8
    if pubReserved x || !zeroFields a [(1152, 896)] then .refuse .badReserved
    else if !ctxOk s m ctx then .refuse .badContext
    else match pubFault s ctx (pubTables x) with
      | some (st, _) => .refuse st
      | none =>
        let (p, s) := acceptPublish ctx (pubTables x) cutNow none s
        if cutNow && cutReady s p then
          let s := doCut p s
          .reply s .ok (firstGeneration s p)
        else .waits s (.publish p.id)) m)

/-- TABLE_PUBLISH with CUT_NOW = 0 (R82). -/
def execTablePublish (m : MbxCall) : State → Host.Outcome State Fault Refusal := pubCommand false m

/-- TABLE_PUBLISH with CUT_NOW = 1 (R82). -/
def execTablePublishCutNow (m : MbxCall) : State → Host.Outcome State Fault Refusal := pubCommand true m

/-- PUBLISH_CUT (R81, R82). -/
def execPublishCut (id : Nat) : State → Host.Outcome State Fault Refusal :=
  live fun s =>
    match s.work.tbl.publishes.find? fun p => decide (p.id = id) with
    | some p => if cutReady s p then doCut p s else s
    | none => s

/-- PUBLISH (R82, R84, R381). -/
def execPublish (q n : Nat) : State → Host.Outcome State Fault Refusal :=
  admission .publish q n fun t s =>
    let x := ofBytes t.part
    if pubReserved x then failTask q n .badReserved {} s
    else if bitsOf x 16 8 ≠ t.ctx then failTask q n .badContext {} s
    else match pubFault s t.ctx (pubTables x) with
      | some (st, h) => failTask q n st (match h with
        | some h => detTable h
        | none => {}) s
      | none =>
        let (p, s) := acceptPublish t.ctx (pubTables x) (decide (bitsOf x 0 1 = 1)) (some (q, n)) (startTask q n s)
        if p.cutNow && cutReady s p then doCut p s else s

/-- A publish of sharded tables ends unaccepted (R275). -/
def refusePublish (p : Publish) (st : Status) (s : State) : State :=
  let s := updTables (fun w => { w with publishes := w.publishes.filter fun x => decide (x.id ≠ p.id) }) s
  match p.task with
  | some (q, n) => failTask q n st {} s
  | none => jobEnd (.publish p.id) st 0 s

/-- What stands in an answer for a table that the device does not have. -/
def noNumber : Nat := 2 ^ 64 - 1

/-- An answer to a question for highest numbers: where they differ the publish is refused; after the last it is relayed and this
device drains (R275). A device that has not created a table has no number of it. -/
def queryAnswer (id src : Nat) (bad : Bool) (tail : List Byte) (s : State) : State :=
  match s.work.tbl.publishes.find? fun p => decide (p.id = id) with
  | none => s
  | some p =>
    let sh := sharedWith s src p.tables
    let same := (List.range sh.length).all fun i =>
      let n := ofBytes (sliceBytes tail (8 * i) 8)
      decide (n = noNumber) || decide (((tbl? s (sh.getD i 0)).map Table.highest) = some n)
    if !p.asking.contains src then s
    else if bad || !same then refusePublish p .shardGenerationMismatch s
    else
      let left := p.asking.filter fun a => decide (a ≠ src)
      let s := updPublish id (fun x => { x with asking := left }) s
      if !left.isEmpty then s
      else
        let r : Relay := { id := id, handle := 0, waiting := p.devices, job := .publish id, task := p.task }
        let s := updChain (fun c => { c with relays := c.relays ++ [r] }) s
        relayTables .publish p.devices p.ctx id (b2n p.cutNow) p.tables s

/-! ### Retirement and deletion (R88 to R90) -/

/-- The argument block of TABLE_RETIRE with DELETE as the row gives it. -/
def retArgs (delete : Bool) (m : MbxCall) : BitVec 2048 := setField m.args 25 1 (b2n delete)

/-- A published generation is released, and retires at once where it has no readers; the flag tells which (R88). -/
def releaseGen (h g : Nat) (s : State) : Bool × State :=
  if readers s h g = 0 then (true, retireGen h g false s)
  else (false, updTbl h (fun t => { t with gens := Tab.put t.gens g { released := true } }) s)

/-- The first check of R89 that fails. -/
def retireFault (t : Table) (g : Nat) : Option Status :=
  if g = 0 ∨ t.highest < g then some .generationUnknown
  else match Tab.get? t.gens g with
    | some x => if x.released then some .alreadyReleased else none
    | none => some .alreadyReleased

/-- A new relay of this device for a command on a sharded table. -/
def startRelay (k : RelayKind) (ctx h arg : Nat) (tail : List Byte) (job : Nat → JobWait) (s : State) : Nat × State :=
  let id := s.work.tbl.nextPublish
  let devs := tableDevices s h
  let r : Relay := { id := id, handle := h, waiting := devs, job := job id }
  let s := updChain (fun c => { c with relays := c.relays ++ [r] }) (updTables (fun w => { w with nextPublish := id + 1 }) s)
  (id, relaySend k devs ctx h id arg tail s)

/-- TABLE_RETIRE without DELETE (R88, R89, R275). -/
def execTableRetire (m : MbxCall) : State → Host.Outcome State Fault Refusal :=
  mbxRow (mailbox 0x23 true false false (retArgs false m) (fun s =>
    let a := retArgs false m
    let h := bits a 0 16
    let ctx := bits a 16 8
    let g := bits a 192 48
    if !zeroFields a [(24, 1), (26, 166), (240, 1808)] then .refuse .badReserved
    else if !ctxOk s m ctx then .refuse .badContext
    else match liveTbl s ctx h with
      | none => .refuse .noTable
      | some t => match retireFault t g with
        | some st => .refuse st
        | none =>
          if (tableDevices s h).isEmpty then
            let r := releaseGen h g s
            .reply r.2 .ok (b2n r.1)
          else
            let (id, s) := startRelay .retire ctx h g [] JobWait.relay s
            let r := releaseGen h g s
            let st := updRelay id (fun x => { x with localDone := true, result := b2n r.1 }) r.2
            .waits st (.relay id)) m)

/-- Commands that change a table which is being deleted end. -/
def endModifies (h : Nat) (s : State) : State :=
  (s.work.tbl.pending.filter fun x => match x.kind with
    | .modify k _ => decide (k = h)
    | _ => false).foldl pendingStep s

/-- Deletion begins: new bindings fail, PUBLISHED generations become RELEASED, and a MODIFY in progress ends (R68, R90). -/
def beginDelete (h : Nat) (s : State) : State :=
  endModifies h (updTbl h (fun t => { t with deleting := true, gens := t.gens.map fun g => (g.1, { g.2 with released := true }) }) s)

/-- TABLE_RETIRE with DELETE (R90, R275). -/
def execTableDelete (m : MbxCall) : State → Host.Outcome State Fault Refusal :=
  mbxRow (mailbox 0x23 true false false (retArgs true m) (fun s =>
    let a := retArgs true m
    let h := bits a 0 16
    let ctx := bits a 16 8
    if !zeroFields a [(24, 1), (26, 2022)] then .refuse .badReserved
    else if !ctxOk s m ctx then .refuse .badContext
    else match liveTbl s ctx h with
      | none => .refuse .noTable
      | some _ =>
        if (tableDevices s h).isEmpty then .waits (beginDelete h s) (.tableDelete h)
        else
          let (_, s) := startRelay .delete ctx h 0 [] (fun _ => JobWait.tableDelete h) s
          .waits (beginDelete h s) (.tableDelete h)) m)

/-- Some ACTIVE task, remote task, run or load uses the table. -/
def tableBusy (s : State) (h : Nat) : Bool :=
  s.tasks.any (fun e => decide (e.2.state = .active) && e.2.bound.any fun b => decide (b.1 = h)) ||
    s.work.chain.remotes.any (fun e => e.2.bound.any fun b => decide (b.1 = h)) ||
    s.work.upd.runs.any (fun e => decide (keyHandle e.2.grad.key = h)) || replacing s h ||
    s.work.tbl.merges.any fun x => decide (x.handle = h)

/-- Everything the table holds is freed, and its handle with it (R90). A generation that DELETE released and that has not retired by
then goes without a GENERATION_RETIRED event of its own (DESIGN CHOICE, log entry 73). -/
def freeTable (h : Nat) (s : State) : State :=
  let s := updTables (fun w => { w with rows := w.rows.filter fun e => decide (keyHandle e.1 ≠ h) }) s
  let s := freePages h (t4Forget (fun k => decide (keyHandle k = h)) s)
  updTables (fun w => { w with
    tables := Tab.del w.tables h, loads := w.loads.filter fun e => decide (keyHandle e.1 ≠ h) }) s

/-- TABLE_DELETE_FREE (R90). -/
def execTableDeleteFree (h : Nat) : State → Host.Outcome State Fault Refusal :=
  live fun s =>
    match tbl? s h with
    | none => s
    | some t =>
      if t.deleting = false ∨ tableBusy s h then s
      else
        let s := ctxCheck t.ctx (freeTable h s)
        match t.deleteFor with
        | some (src, id) => reportSend .delete src id false [] s
        | none =>
          match s.work.chain.relays.find? fun r => decide (r.job = .tableDelete h) with
          | some r => relayLocal r.id .ok 0 s
          | none => jobEnd (.tableDelete h) .ok 0 s

/-- GENERATION_RETIRE: a RELEASED generation without readers retires (R75, R86, R88). -/
def execGenerationRetire (h g : Nat) : State → Host.Outcome State Fault Refusal :=
  live fun s =>
    match (tbl? s h).bind fun t => Tab.get? t.gens g with
    | some x => if x.released ∧ readers s h g = 0 then retireGen h g true s else s
    | none => s

/-! ### Loads (R91 to R93) -/

/-- What the entries of a load image come to: rows with their footprints in order, and the offset of the first bad entry. -/
structure LoadImage where
  rows : List (Nat × List Byte)
  bad : Option Nat
  deriving DecidableEq, Repr

/-- One entry of the image at an offset: the row, its footprint and the offset of the next entry; none where it breaks R91 or
R93. Padding is stored as zero whatever the image holds there (R33, R69; log entry 69). -/
def loadEntry (d : BitVec 1024) (img : List Byte) (off : Nat) : Option (Nat × List Byte × Nat) :=
  let sh := shapeOf d
  let h := ofBytes (sliceBytes img off 16)
  let rem := decide (bitsOf h 48 1 = 1)
  let st := decide (bitsOf h 49 1 = 1)
  let P := dataBytes sh
  let R := recordBytes sh - P
  let len := 16 + P + (if rem then R else 0) + (if st then stateBytes sh else 0)
  if img.length < off + 16 ∨ bitsOf h 50 78 ≠ 0 ∨ tdRowLimit d < bitsOf h 0 48 ∨ (rem ∧ R = 0) ∨ (st ∧ stateBytes sh = 0) ∨
      img.length < off + len then none
  else
    let o := off + 16
    let data := cleanData sh (sliceBytes img o P)
    let rp := if rem then cleanRems sh (sliceBytes img (o + P) R) else zeroBytes R
    let so := o + P + (if rem then R else 0)
    let sp := if st then cleanState sh (sliceBytes img so (stateBytes sh)) else zeroBytes (stateBytes sh)
    some (bitsOf h 0 48, data ++ rp ++ sp, roundUp (off + len) 16)

/-- The entries from an offset on, at most `fuel` of them (R91). -/
def loadEntries (d : BitVec 1024) (img : List Byte) (off : Nat) : Nat → LoadImage
  | 0 => { rows := [], bad := none }
  | fuel + 1 =>
    if img.length ≤ off then { rows := [], bad := none }
    else match loadEntry d img off with
      | none => { rows := [], bad := some off }
      | some (i, bs, next) =>
        let rest := loadEntries d img next fuel
        { rest with rows := (i, bs) :: rest.rows }

/-- The image at an address. -/
def readImage (s : State) (d : BitVec 1024) (addr n : Nat) : LoadImage := loadEntries d (devRead s addr n) 0 (n / 16 + 1)

/-- Runs on the row start again, so that they read what a load has committed (R176; log entry 19). -/
def restartRuns (key : Nat) (s : State) : State :=
  let s := updUpd (fun u => { u with runs := u.runs.map fun e =>
    if e.2.grad.key = key then (e.1, newRun e.2.queue e.2.seq e.2.grad e.2.prog) else e }) s
  wakeShadow (releaseHeld (maintCommitted key (updRow key (fun r => { r with committing := false }) s)))

/-- The rows of a MERGE image, in order: the state, the rows written, the status, and the rows left where a commit finds no room in the delta
pool, or waits for the host agent to write its page (R73, R87, R92, R179, R251). -/
def mergeRows (id h : Nat) (t : Table) : List (Nat × List Byte) → Nat → State → State × Nat × Status × List (Nat × List Byte)
  | [], n, s => (s, n, .ok, [])
  | (i, bs) :: rest, n, s =>
    let key := mkKey h i
    if !ownsRow s t i then mergeRows id h t rest n s
    else match commitRow key bs false s with
      | .done s' =>
        if !rowUp s' key then (s, n, .tierUnavailable, [])
        else match throughT4 (.load id) h s s' with
          | (true, s) => mergeRows id h t rest (n + 1) (restartRuns key s)
          | (false, s) => (s, n, .tierUnavailable, if t4Waiting s (.load id) then (i, bs) :: rest else [])
      | .tableFull => (s, n, .tableFull, [])
      | .deltaFull => (s, n, .deltaPoolFull, (i, bs) :: rest)
      | .shadowFull => (s, n, .tableFull, [])
      | .lineWait s => (s, n, .deltaPoolFull, (i, bs) :: rest)

/-- The argument block of TABLE_LOAD with LOAD_MODE as the row gives it. -/
def loadArgs (replace : Bool) (m : MbxCall) : BitVec 2048 := setField m.args 24 1 (b2n replace)

/-- The checks of TABLE_LOAD before the image (R356, R357, R524). -/
def loadFault (s : State) (m : MbxCall) (a : BitVec 2048) : Option Status :=
  if !zeroFields a [(25, 39), (120, 8), (192, 1856)] then some .badReserved
  else if !ctxOk s m (bits a 16 8) then some .badContext
  else if !areaOk s (m.issuer % 256) (bits a 64 56) (bits a 128 64) .r .any then some .badAddress
  else if (liveTbl s (bits a 16 8) (bits a 0 16)).isNone then some .noTable
  else if (areaFenced s (bits a 64 56) (bits a 128 64)).isSome then some .dataLost
  else none

/-- MBX_RESULT of TABLE_LOAD (R383). -/
def loadResult (n : Nat) (bad : Option Nat) : Nat := n % 2 ^ 64 + (bad.getD 0) * 2 ^ 64

/-- The status of a MERGE load whose good entries are written (R93). -/
def mergeStatus (bad : Option Nat) : Status := if bad.isSome then .badLoadEntry else .ok

/-- A MERGE load waits for delta-pool room (R87). That the wait of R87 covers the commits of a load is DEDUCED (log entry 67). -/
def mergeWait (x : MergeLoad) (s : State) : State := updTables (fun w => { w with merges := w.merges ++ [x] }) s

/-- A waiting MERGE load is over: its command has its outcome. -/
def mergeOver (id n : Nat) (st : Status) (bad : Option Nat) (s : State) : State :=
  jobEnd (.tableLoad id) st (loadResult n bad) (updTables (fun w => { w with merges := w.merges.filter fun x => decide (x.id ≠ id) }) s)

/-- A waiting MERGE load goes on, as far as the pool has room (R87, R92). -/
def mergeResume (x : MergeLoad) (s : State) : State :=
  match tbl? s x.handle with
  | none => mergeOver x.id x.done .noTable none s
  | some t =>
    let (s, n, st, left) := mergeRows x.id x.handle t x.left x.done s
    if st = .ok then mergeOver x.id n (mergeStatus x.bad) x.bad s
    else if left.isEmpty then mergeOver x.id n st none s
    else updTables (fun w => { w with merges := w.merges.map fun y =>
      if y.id = x.id then { y with left := left, done := n, since := if n = x.done then y.since else s.clock } else y }) s

/-- TABLE_LOAD in MERGE mode (R92, R93). On a table that a REPLACE load has made LOADING it commits into the old working storage, and
its rows go with that storage when the REPLACE ends (DESIGN CHOICE, log entry 73). -/
def execTableLoadMerge (m : MbxCall) : State → Host.Outcome State Fault Refusal :=
  mbxRow (mailbox 0x21 true false false (loadArgs false m) (fun s =>
    let a := loadArgs false m
    match loadFault s m a with
    | some st => .refuse st
    | none =>
      let h := bits a 0 16
      match tbl? s h with
      | none => .refuse .noTable
      | some t =>
        let img := readImage s t.desc (bits a 64 56) (bits a 128 64)
        let id := s.work.tbl.nextPublish
        let (s, n, st, left) := mergeRows id h t img.rows 0 (updTables (fun w => { w with nextPublish := id + 1 }) s)
        if st = .ok then .reply s (mergeStatus img.bad) (loadResult n img.bad)
        else if left.isEmpty then .reply s st (loadResult n none)
        else .waits (mergeWait { id := id, handle := h, left := left, done := n, bad := img.bad, since := s.clock } s) (.tableLoad id)) m)

/-! ### Commits that wait for the delta pool (R87) -/

/-- DELTA_POOL_WAIT_EXPIRE (R87). -/
def execDeltaPoolWaitExpire (w : CommitWait) : State → Host.Outcome State Fault Refusal :=
  live fun s =>
    match w with
    | .run core =>
      match Tab.get? s.work.upd.runs core with
      | none => s
      | some r => match r.phase with
        | .deltaWait _ => endRun core (failTask r.queue r.seq .deltaPoolFull (detKey r.grad.key) s)
        | _ => s
    | .load id =>
      match s.work.tbl.merges.find? fun x => decide (x.id = id) with
      | some x => if t4Waiting s (.load id) then s else mergeOver id x.done .deltaPoolFull none s
      | none => s

/-- DELTA_POOL_ROOM: the pool has room for the copy, and the commit goes on (R87). -/
def execDeltaPoolRoom (w : CommitWait) : State → Host.Outcome State Fault Refusal :=
  live fun s =>
    match w with
    | .run core =>
      match Tab.get? s.work.upd.runs core with
      | none => s
      | some r => match r.phase, tbl? s (keyHandle r.grad.key) with
        | .deltaWait _, some t =>
          let room := match deltaFor t (rowOf s r.grad.key) with
            | some d => (placeDelta s (keyHandle r.grad.key) t d).isSome
            | none => true
          if room && !(rowOf s r.grad.key).migrating then setPhase core .committing (updRow r.grad.key (fun x => { x with committing := true }) s) else s
        | _, _ => s
    | .load id =>
      match s.work.tbl.merges.find? fun x => decide (x.id = id) with
      | some x => mergeResume x s
      | none => s

/-! ### REPLACE (R92) -/

/-- TABLE_LOAD in REPLACE mode is accepted (R92, R275). -/
def execTableLoadReplace (m : MbxCall) : State → Host.Outcome State Fault Refusal :=
  mbxRow (mailbox 0x21 true false false (loadArgs true m) (fun s =>
    let a := loadArgs true m
    match loadFault s m a with
    | some st => .refuse st
    | none =>
      let h := bits a 0 16
      let ctx := bits a 16 8
      let start (id : Nat) (s : State) : State :=
        let r : Replace := { id := id, imageAddr := bits a 64 56, imageBytes := bits a 128 64, ctx := m.issuer % 256 }
        updTbl h (fun t => { t with replaces := t.replaces ++ [r] }) s
      if (tableDevices s h).isEmpty then
        let id := s.work.tbl.nextPublish
        .waits (start id (updTables (fun w => { w with nextPublish := id + 1 }) s)) (.tableLoad id)
      else
        let (id, s) := startRelay .replace ctx h (bits a 64 56) (toBytes 8 (bits a 128 64)) JobWait.tableLoad s
        .waits (start id s) (.tableLoad id)) m)

/-- LOAD_REPLACE_START: no task bound to the working generation and no SCATTER on the table is ACTIVE; the working generation enters
LOADING (R92). -/
def execLoadReplaceStart (h : Nat) : State → Host.Outcome State Fault Refusal :=
  live fun s =>
    match (tbl? s h).bind fun t => t.replaces.head? with
    | some r =>
      if r.started ∨ workingBusy s h ∨ scatterBusy s h then s
      else updTbl h (fun t => { t with replaces := { r with started := true } :: t.replaces.drop 1 }) s
    | none => s

/-- The old working storage becomes delta versions that some generation still sees (R92); none where the delta pool has no room. -/
def retireWorking (h : Nat) (s : State) : Option State :=
  match tbl? s h with
  | none => none
  | some t =>
    (tableRows s h).foldl (fun (acc : Option State) e =>
      acc.bind fun s =>
        let r := rowOf s e.1
        match (deltaFor t r).filter fun d => d.data.isSome with
        | none => some (putRow e.1 { deltas := r.deltas } s)
        | some d => (placeDelta s h t d).map fun p =>
            storePlace h p.1.place (p.1.placed (dataBytes (shapeOf t.desc))) (putRow e.1 { deltas := r.deltas ++ [p.1] } p.2)) (some s)

/-- The cold pages of a table take no new rows, or take them again. -/
def shutPages (h : Nat) (b : Bool) (s : State) : State :=
  updTables (fun w => { w with cold := w.cold.map fun e => if keyHandle e.1 = h then (e.1, { e.2 with shut := b }) else e }) s

/-- The new working storage takes the image's rows (R92). -/
def replaceRows (h : Nat) (t : Table) : List (Nat × List Byte) → Nat → State → Option (State × Nat)
  | [], n, s => some (s, n)
  | (i, bs) :: rest, n, s =>
    if !ownsRow s t i then replaceRows h t rest n s
    else match commitRow (mkKey h i) bs false s with
      | .done s => replaceRows h t rest (n + 1) s
      | _ => none

/-- Some page of an area is reached over the host port. -/
def areaOnHost (s : State) (a n : Nat) : Bool :=
  match rangeAt s a n with
  | some (base, g) =>
    decide (g.kind = .flash) || (decide (g.kind = .host) &&
      (List.range ((a % 4096 + n + 4095) / 4096)).any fun i => !Tab.has g.devicePages ((a - base) / 4096 + i))
  | none => false

/-- A REPLACE load builds the new working generation, or leaves the old one (R92, R93): the state, the status and the result. -/
def replaceTable (h : Nat) (t : Table) (r : Replace) (s : State) : State × Status × Nat :=
  let img := readImage s t.desc r.imageAddr r.imageBytes
  if !hostUp s && areaOnHost s r.imageAddr r.imageBytes then (s, .hostLost, 0)
  else match img.bad with
  | some off => (s, .badLoadEntry, loadResult 0 (some off))
  | none =>
    let built := (retireWorking h (shutPages h true ((tableRows s h).foldl (fun s e => abandonMove e.1 s) s))).bind fun s =>
      (replaceRows h t img.rows 0 (updTbl h (fun t => { t with baseStamp := t.highest + 1 }) s)).map fun p =>
        (pruneDeltas h (shutPages h false p.1), p.2)
    match built with
    | some (s, n) => (s, .ok, loadResult n none)
    | none => (s, .tableFull, 0)

/-- The number under which a REPLACE load's WRITEs go out. -/
def replaceWho (h : Nat) : T4Who := .load (2 ^ 64 + h)

/-- A REPLACE load has its end: held tasks are released and the command has its answer (R92). -/
def replaceOver (h : Nat) (r : Replace) (st : Status) (res : Nat) (s : State) : State :=
  let s := releaseHeld (updTbl h (fun t => { t with replaces := t.replaces.drop 1 }) s)
  match r.remote with
  | some (src, id) => reportSend .replace src id (decide (st ≠ .ok)) [] s
  | none =>
    if s.work.chain.relays.any fun x => decide (x.id = r.id) then relayLocal r.id st res s
    else jobEnd (.tableLoad r.id) st res s

/-- LOAD_REPLACE_END: the image is written, in T4 by the host agent, held tasks are released and the command has its answer (R92, R251). -/
def execLoadReplaceEnd (h : Nat) : State → Host.Outcome State Fault Refusal :=
  live fun s =>
    match tbl? s h with
    | none => s
    | some t => match t.replaces.head? with
      | none => s
      | some r =>
        if r.started = false then s
        else
          let (s', st, res) := replaceTable h t r s
          if st ≠ .ok then replaceOver h r st res s
          else match throughT4 (replaceWho h) h s s' with
            | (true, s) => replaceOver h r st res s
            | (false, s) => if t4Waiting s (replaceWho h) then s else replaceOver h r .tierUnavailable 0 s

/-! ### Relays received (R275) -/

/-- The handles of a relay's tail. -/
def tailHandles (bs : List Byte) : List Nat := (chunks 2 (bs.length / 2) bs).map ofBytes

/-- Handles of a publish relay; the tail is padded to 16 B, and its length stands in the 16-bit number of the head. -/
def relayHandles (bs : List Byte) (n : Nat) : List Nat := (tailHandles (bs.drop 16)).take n

/-- A relayed command runs on this device (R275). -/
def relayTake (p : PeerPkt) (bs : List Byte) (s : State) : State :=
  let h := ctlHead bs
  let id := bitsOf h 32 32
  let handle := bitsOf h 16 16
  let arg := bitsOf h 64 64
  let src := pktSrc p
  match bitsOf h 8 8 with
  | 1 =>
    let number (h : Nat) : Nat := ((liveTbl s (pktCtx p) h).map Table.highest).getD noNumber
    reportSend .query src id false ((relayHandles bs handle).flatMap fun h => toBytes 8 (number h)) s
  | 2 =>
    let hs := (relayHandles bs handle).filter fun h => (liveTbl s (pktCtx p) h).isSome
    let n := s.work.tbl.nextPublish
    let pub : Publish :=
      { id := n, ctx := pktCtx p, tables := hs.eraseDups, cutNow := decide (arg = 1), task := none, remote := some (src, id) }
    updTables (fun w => { w with publishes := w.publishes ++ [pub], nextPublish := n + 1 }) s
  | 3 =>
    match liveTbl s (pktCtx p) handle with
    | some t => match retireFault t arg with
      | none => reportSend .retire src id false [] (releaseGen handle arg s).2
      | some _ => reportSend .retire src id true [] s
    | none => reportSend .retire src id true [] s
  | 4 =>
    match liveTbl s (pktCtx p) handle with
    | some _ =>
      let r : Replace :=
        { id := 0, imageAddr := arg, imageBytes := ofBytes (sliceBytes bs 16 8), ctx := pktCtx p, remote := some (src, id) }
      updTbl handle (fun t => { t with replaces := t.replaces ++ [r] }) s
    | none => reportSend .replace src id true [] s
  | 5 =>
    match liveTbl s (pktCtx p) handle with
    | some _ => updTbl handle (fun t => { t with deleteFor := some (src, id) }) (beginDelete handle s)
    | none => reportSend .delete src id true [] s
  | _ => s

/-- PUBLISH_RELAY (R275). -/
def execPublishRelay (p : PeerPkt) : State → Host.Outcome State Fault Refusal := live fun s => onControl .relay p (relayTake p) s

/-- RELAY_REPORT: an answer to a question, or a device's part of a relayed command is done (R275). -/
def execRelayReport (p : PeerPkt) : State → Host.Outcome State Fault Refusal :=
  live fun s =>
    onControl .relayReport p (fun bs s =>
      let h := ctlHead bs
      let id := bitsOf h 32 32
      let bad := decide (bitsOf h 16 16 = 1)
      if bitsOf h 8 8 = 1 then queryAnswer id (pktSrc p) bad (bs.drop 16) s
      else relayFinish id (updRelay id (fun r => { r with waiting := r.waiting.filter fun a => decide (a ≠ pktSrc p) }) s)) s

end Sys2Proof.Machine
end

