-- ==== Sys2Proof/Machine/Placement.lean ====
section
/-! DEFINITION. Placement (R210 to R255): ORCHARD_MAINT, code tables, Drift, moves, shard maps and the T4 attachment. -/

namespace Sys2Proof.Machine

/-! ### ORCHARD_MAINT (R224 to R227) -/

/-- The argument block with OP as the row gives it. -/
def orchArgs (op : Nat) (m : MbxCall) : BitVec 2048 := setField m.args 0 4 op

/-- A reserved field is not zero, or a field breaks its rule (R224). -/
def orchReserved (a : BitVec 2048) (op : Nat) : Bool :=
  let scope := bits a 4 2
  !zeroFields a [(6, 2), (37, 27), (176, 16), (224, 1824)] || decide (scope = 3) ||
  (if op = 4 then decide (scope ≠ 2) || decide (bits a 32 5 = 0) || decide (16 < bits a 32 5) else decide (bits a 32 5 ≠ 0)) ||
  (if scope = 2 then !zeroFields a [(64, 48), (128, 48)] else decide (bits a 128 48 = 0)) ||
  (if scope = 1 then false else !zeroFields a [(112, 16), (192, 32)])

/-- The first status of R224 after BAD_RESERVED, BAD_CONTEXT and NO_TABLE. -/
def orchFault (a : BitVec 2048) (op : Nat) (t : Table) : Option Status :=
  let scope := bits a 4 2
  let w := tdWays t.desc
  if (scope = 1 ∨ op = 4) ∧ tdMode t.desc ≠ 0 then some .notCached
  else if op = 4 ∧ w < bits a 32 5 then some .badReserved
  else if scope = 1 ∧ bits a 192 32 ≠ t.part.nsets then some .nsetsChanged
  else if scope = 0 ∧ tdRowLimit t.desc < bits a 64 48 + bits a 128 48 - 1 then some .badRange
  else if scope = 1 ∧ (t.part.nsets < bits a 64 48 + bits a 128 48 ∨ 2 ^ w ≤ bits a 112 16) then some .badRange
  else none

/-- The row's T0 copy is selected (R224). -/
def orchSelects (a : BitVec 2048) (e : Nat × Row) : Bool :=
  match e.2.t0 with
  | none => false
  | some c => match bits a 4 2 with
    | 0 => decide (bits a 64 48 ≤ keyIndex e.1) && decide (keyIndex e.1 < bits a 64 48 + bits a 128 48)
    | 1 => match c.line with
      | some (set, way) =>
        decide (bits a 64 48 ≤ set) && decide (set < bits a 64 48 + bits a 128 48) && (bits a 112 16).testBit way
      | none => false
    | _ => true

/-- ORCHARD_MAINT with one of its operations; WAYS_ON acts on the lines of the ways that lose power (R225, R227). -/
def orchCommand (op : Nat) (m : MbxCall) : State → Host.Outcome State Fault Refusal :=
  mbxRow (mailbox 0x25 true false false (orchArgs op m) (fun s =>
    let a := orchArgs op m
    let ctx := bits a 8 8
    let h := bits a 16 16
    if orchReserved a op then .refuse .badReserved
    else if !ctxOk s m ctx then .refuse .badContext
    else match liveTbl s ctx h with
      | none => .refuse .noTable
      | some t => match orchFault a op t with
        | some st => .refuse st
        | none =>
          if op = 4 then
            let n := bits a 32 5
            let s := updTbl h (fun t => { t with part := { t.part with waysOn := n } }) s
            maintStart 3 (((tableRows s h).filter fun e => match e.2.t0 with
              | some c => decide (n ≤ c.way)
              | none => false).map Prod.fst) s
          else maintStart op (((tableRows s h).filter (orchSelects a)).map Prod.fst) s) m)

/-- ORCHARD_MAINT CLEAN (R225). -/
def execOrchardClean (m : MbxCall) : State → Host.Outcome State Fault Refusal := orchCommand 1 m
/-- ORCHARD_MAINT INVALIDATE (R225). -/
def execOrchardInvalidate (m : MbxCall) : State → Host.Outcome State Fault Refusal := orchCommand 2 m
/-- ORCHARD_MAINT CLEAN_INVALIDATE (R225). -/
def execOrchardCleanInvalidate (m : MbxCall) : State → Host.Outcome State Fault Refusal := orchCommand 3 m
/-- ORCHARD_MAINT WAYS_ON (R227). -/
def execWaysOn (m : MbxCall) : State → Host.Outcome State Fault Refusal := orchCommand 4 m

/-! ### Code tables (R245, R246, R269) -/

/-- The argument block with CT_OP as the row gives it. -/
def ctArgs (op : Nat) (m : MbxCall) : BitVec 2048 := setField m.args 4 2 op

/-- Fields that CODE_TABLE_LOAD does not use (R356, R384). -/
def ctUnused (op : Nat) : List (Nat × Nat) :=
  [(2, 2), (7, 1), (16, 48), (120, 1928)] ++ (if op = 1 then [(6, 1), (64, 56)] else [])

/-- Cold pages of the context's tables that name a slot. -/
def codedPages (s : State) (ctx slot : Nat) : List Nat :=
  (s.work.tbl.cold.filter fun e => decide (tdCtxOf s (keyHandle e.1) = ctx) &&
    (match e.2.coded with
     | some c => decide (c.1 = slot)
     | none => false)).map Prod.fst

/-- The packet's header names a code slot of a context (R265). -/
def namesSlot (ctx slot : Nat) (h : Word128) : Bool := bit h 40 && decide (bits h 41 2 = slot) && decide (bits h 32 8 = ctx)

/-- The reference count of a slot: stored blocks, and packets that name it, unacknowledged at the sender or withheld at the destination (R246,
R269). -/
def codeRefs (s : State) (ctx slot : Nat) : Nat :=
  (codedPages s ctx slot).length +
    sumNat (s.work.chain.flows.map fun f => (f.2.unacked.filter fun p => namesSlot ctx slot p.hdr).length) +
    (s.work.chain.withheld.filter fun p => namesSlot ctx slot p.hdr).length

/-- A slot of a context. -/
def codeSlot (s : State) (ctx slot : Nat) : CodeSlot := Tab.getD (ctxD s ctx).codeSlots slot {}

/-- A slot of a context is put. -/
def putCodeSlot (ctx slot : Nat) (x : CodeSlot) (s : State) : State :=
  updCtx ctx (fun c => { c with codeSlots := Tab.put c.codeSlots slot x }) s

/-- The code notice of a context goes to every device of the chain (R246, R269). -/
def sendNotices (ctx : Nat) (s : State) : State :=
  if !s.work.chain.valid || !coldCompress s then s
  else
    let f := noticeOf s ctx
    (otherDevices s).foldl (fun s d => ctlSend .codeNotice d 4095 ctx f.1 f.2.1 f.2.2 0 [] s) s

/-- The ACTIVE slot of a context becomes LOADED. -/
def deactivate (ctx : Nat) (s : State) : State :=
  updCtx ctx (fun c => { c with codeSlots := c.codeSlots.map fun e =>
    if e.2.state = .active then (e.1, { e.2 with state := .loaded }) else e }) s

/-- CODE_TABLE_LOAD with LOAD (R245, R246). -/
def execCodeTableLoad (m : MbxCall) : State → Host.Outcome State Fault Refusal :=
  mbxRow (mailbox 0x26 true false false (ctArgs 0 m) (fun s =>
    let a := ctArgs 0 m
    let ctx := bits a 8 8
    let slot := bits a 0 2
    let addr := bits a 64 56
    let img := devRead s addr 160
    if !zeroFields a (ctUnused 0) then .refuse .badReserved
    else if !ctxOk s m ctx then .refuse .badContext
    else if !areaOk s (m.issuer % 256) addr 160 .r .any then .refuse .badAddress
    else if (areaFenced s addr 160).isSome then .refuse .dataLost
    else if !codeImageOk img then .refuse .badCodeTable
    else if (codeSlot s ctx slot).state = .active ∨ codeRefs s ctx slot ≠ 0 then .refuse .slotReferenced
    else
      let id := ((ctxD s ctx).codeLoadId + 1) % 2 ^ 16
      let act := bit a 6
      let s := if act then deactivate ctx s else s
      let s := updCtx ctx (fun c => { c with codeLoadId := id }) s
      let s := putCodeSlot ctx slot { state := if act then .active else .loaded, loadId := id, image := img } s
      .reply (if act then sendNotices ctx s else s) .ok 0) m)

/-- A slot whose release waits becomes FREE when nothing names it, and the command completes (R246). -/
def codeReleaseCheck (ctx slot : Nat) (s : State) : State :=
  if jobWaiting (.codeRelease ctx slot) s && decide (codeRefs s ctx slot = 0) then
    jobEnd (.codeRelease ctx slot) .ok 0 (putCodeSlot ctx slot {} s)
  else s

/-- Slots of contexts whose release waits. -/
def releasing (s : State) : List (Nat × Nat) :=
  let of (w : JobWait) : List (Nat × Nat) := match w with
    | .codeRelease c k => [(c, k)]
    | _ => []
  ((match s.mbx.running with
    | some r => of r.wait
    | none => []) ++ s.mbx.tickets.flatMap fun e => of e.2.wait).eraseDups

/-- Every release that waits is looked at. -/
def releaseChecks (s : State) : State := (releasing s).foldl (fun s x => codeReleaseCheck x.1 x.2 s) s

/-! ### Pages that are stored again (R246, R503) -/

/-- Cold pages of a context's tables that satisfy a test, by number. -/
def ctxPages (s : State) (ctx : Nat) (p : ColdPage → Bool) : List Nat :=
  (s.work.tbl.cold.filter fun e => p e.2 && decide (tdCtxOf s (keyHandle e.1) = ctx)).map Prod.fst

/-- A REKEY completes when no page remains under the old key (R503). -/
def rekeyCheck (s : State) : State :=
  ((s.ctxs.filter fun e => e.2.oldKey.isSome).map Prod.fst).foldl (fun (s : State) c =>
    if (ctxPages s c ColdPage.oldKey).isEmpty then jobEnd (.rekey c) .ok 0 (updCtx c (fun x => { x with oldKey := none }) s)
    else s) s

/-- Rows that lie in a cold page, by its number. -/
def rowsOfPage (s : State) (page : Nat) : List Nat :=
  ((tableRows s (keyHandle page)).filter fun e => (e.2.place.pages (placedOf s e.1)).contains (keyIndex page)).map Prod.fst

/-- A page is stored again where it lies, in T4 by the host agent, where the paths have room: what no move of a row can do. -/
def renewHere (page : Nat) (s : State) : State :=
  let h := keyHandle page
  match Tab.get? s.work.tbl.cold page with
  | none => s
  | some pg =>
    let ps := pathOf { tier := pg.tier, addr := pg.base }
    if t4Waiting s (.page page) then s
    else
      let written := !(t4Got s (.page page)).isEmpty
      let s' := (throughT4 (.page page) h s (storePage h (keyIndex page) s)).2
      if written then s' else if planRoom s 8192 ps then takePaths 8192 ps s' else s

/-- A page that is to be stored again is left by its rows, which move inside their tier under the budget; where no row can move, it is stored
again in its place (R235, R246, R503). -/
def renewPage (s : State) (page : Nat) : State :=
  let s := updTables (fun w => { w with cold := Tab.upd w.cold page fun pg => { pg with shut := true } }) s
  let rows := rowsOfPage s page
  if rows.any fun k => (rowOf s k).move.isSome || (rowOf s k).committing then s
  else
    let try' (acc : Bool × State) (key : Nat) : Bool × State :=
      if !moveReady acc.2 key then acc
      else match placeIn acc.2 key (rowOf acc.2 key).place.tier with
        | none => acc
        | some (p, s') =>
          let (ok, s'') := planMove key (.place p) (pathOf (rowOf acc.2 key).place ++ pathOf p) s'
          (true, if ok then s'' else acc.2)
    let (some', s) := rows.foldl try' (false, s)
    if some' then s else renewHere page s

/-- Every page that a REKEY or a RELEASE has still to store again (R246, R503). -/
def renewPages (s : State) : State :=
  let old := (s.ctxs.filter fun e => e.2.oldKey.isSome).flatMap fun e => ctxPages s e.1 ColdPage.oldKey
  let coded := (releasing s).flatMap fun x => codedPages s x.1 x.2
  releaseChecks (rekeyCheck ((old ++ coded).eraseDups.foldl renewPage s))

/-- CODE_TABLE_LOAD with RELEASE (R246): stored blocks that name the slot are stored again, with the ACTIVE slot or raw, and the command
completes when neither a block nor a packet names the slot. -/
def execCodeTableRelease (m : MbxCall) : State → Host.Outcome State Fault Refusal :=
  mbxRow (mailbox 0x26 true false false (ctArgs 1 m) (fun s =>
    let a := ctArgs 1 m
    let ctx := bits a 8 8
    let slot := bits a 0 2
    if !zeroFields a (ctUnused 1) then .refuse .badReserved
    else if !ctxOk s m ctx then .refuse .badContext
    else
      let was := decide ((codeSlot s ctx slot).state = .active)
      let s := if was then sendNotices ctx (deactivate ctx s) else s
      let s := (codedPages s ctx slot).foldl renewPage s
      if codeRefs s ctx slot = 0 then .reply (putCodeSlot ctx slot {} s) .ok 0
      else .waits s (.codeRelease ctx slot)) m)

/-! ### Shard maps (R270, R271) -/

/-- The argument block. -/
def smUnused : List (Nat × Nat) := [(0, 7), (45, 3), (120, 1928)]

/-- The entries of a shard map as they lie in memory. -/
def smEntries (s : State) (addr n : Nat) : List Nat := (List.range n).map fun i => devNat s (addr + 8 * i) 8

/-- The entries keep the rules of R270. -/
def smEntriesOk (es : List Nat) : Bool :=
  es.all (fun e => decide (bitsOf e 52 12 = 0) && decide (bitsOf e 0 48 % 4096 = 0)) &&
    decide (bitsOf (es.headD 1) 0 48 = 0) &&
    (es.zip (es.drop 1)).all fun p => decide (bitsOf p.1 0 48 < bitsOf p.2 0 48)

/-- A table names the map (R271). -/
def mapNamed (s : State) (id : Nat) : Bool :=
  s.work.tbl.tables.any fun e => tdSharded e.2.desc && decide (tdShardMap e.2.desc = id)

/-- What a MAP_UPDATE asks for (log entry 16): a newer version of a map is to be taken, a device is asked whether it can install one, it is to
install it, or it is to forget it. -/
inductive MapOp where
  | newer | ask | install | forget
  deriving DecidableEq, Repr

/-- The code of a MAP_UPDATE's operation (log entry 16). -/
def MapOp.code : MapOp → Nat
  | .newer => 0 | .ask => 1 | .install => 2 | .forget => 3

/-- A map as the payload of a MAP_UPDATE (log entry 16): head, then the entries. -/
def mapBytes (id : Nat) (op : MapOp) (m : ShardMap) : List Byte :=
  toBytes 16 (packFields [(0, 16, id), (16, 2, op.code), (18, 1, b2n m.mayMove), (32, 32, m.version), (64, 16, m.eligible),
    (80, 16, m.entries.length), (96, 16, m.users)]) ++ m.entries.flatMap fun e => toBytes 8 (e.1 + e.2 * 2 ^ 48)

/-- The map that a payload carries. -/
def mapOfBytes (ctx : Nat) (bs : List Byte) : ShardMap :=
  let h := ofBytes (bs.take 16)
  { ctx := ctx, mayMove := decide (bitsOf h 18 1 = 1), version := bitsOf h 32 32, eligible := bitsOf h 64 16, users := bitsOf h 96 16
    entries := (List.range (bitsOf h 80 16)).map fun i =>
      let e := ofBytes (sliceBytes bs (16 + 8 * i) 8)
      (bitsOf e 0 48, bitsOf e 48 4) }

/-- A map goes to devices. -/
def sendMap (id : Nat) (op : MapOp) (m : ShardMap) (devs : List Nat) (s : State) : State :=
  devs.foldl (fun s d => peerSend 8 d 4095 m.ctx 0 true (mapBytes id op m) s) s

/-- A map is installed on this device. -/
def putMap (id : Nat) (m : ShardMap) (s : State) : State := updChain (fun c => { c with maps := Tab.put c.maps id m }) s

/-- This device holds as many maps as it can (R270). -/
def mapsFull (s : State) (id : Nat) : Bool := !Tab.has s.work.chain.maps id && decide (1024 ≤ s.work.chain.maps.length)

/-- What a device answers when it is asked to install a map: 0 it can, 1 in use, 2 no room, 3 no such context (R271; log entry 16). -/
def installAnswer (s : State) (id ctx : Nat) : Nat :=
  if Tab.has s.work.chain.maps id && mapNamed s id then 1 else if mapsFull s id then 2 else if !Tab.has s.ctxs ctx then 3 else 0

/-- The status of the first refusal that applies (R271). -/
def installStatus (worst : Nat) : Status :=
  match worst with
  | 0 => .ok
  | 1 => .mapInUse
  | 2 => .mapLimit
  | _ => .chainUnreachable

/-- The refusal that stands first of two answers. -/
def worseAnswer (a b : Nat) : Nat := if a = 0 then b else if b = 0 then a else min a b

/-- A named device has answered, or has installed the map. After the last answer the map is installed everywhere, or nowhere; after the last
installation the command completes (R270, R271). -/
def installStep (id src r : Nat) (s : State) : State :=
  match Tab.get? s.work.chain.installing id with
  | none => s
  | some x =>
    if !x.left.contains src then s
    else
      let x := { x with left := x.left.filter fun d => decide (d ≠ src), worst := worseAnswer x.worst r }
      let others := (mapDevices x.map).filter fun d => decide (d ≠ me s)
      let gone (s : State) : State := updChain (fun c => { c with installing := Tab.del c.installing id }) s
      if !x.left.isEmpty then updChain (fun c => { c with installing := Tab.put c.installing id x }) s
      else if x.worst ≠ 0 then
        jobEnd (.shardMap id) (installStatus x.worst) 0 (gone (if x.agreed then s else sendMap id .forget x.map others s))
      else if x.agreed then jobEnd (.shardMap id) .ok 0 (gone s)
      else
        let s := if (mapDevices x.map).contains (me s) then putMap id x.map s else s
        sendMap id .install x.map others (updChain (fun c => { c with installing := Tab.put c.installing id { x with left := others, agreed := true } }) s)

/-- Devices that can no longer be reached do not answer (R271). -/
def installsLost (s : State) : State :=
  s.work.chain.installing.foldl (fun (s : State) e =>
    (e.2.left.filter fun d => !reachable s d).foldl (fun s d => installStep e.1 d 3 s) s) s

/-- SHARD_MAP_LOAD (R270, R271), with its USERS mask, for which the argument block has no field (log entry 17): every other device of the map is
asked whether it can install it, and the command completes when all have. -/
def execShardMapLoad (m : MbxCall) : State → Host.Outcome State Fault Refusal :=
  mbxRow (mailbox 0x27 true false false m.args (fun s =>
    let a := m.args
    let ctx := bits a 8 8
    let id := bits a 16 16
    let n := bits a 32 13
    let addr := bits a 64 56
    let es := smEntries s addr n
    let map : ShardMap :=
      { ctx := ctx, mayMove := bit a 7, eligible := bits a 48 16, users := m.users.toNat
        entries := es.map fun e => (bitsOf e 0 48, bitsOf e 48 4) }
    let devs := mapDevices map
    let others := devs.filter fun d => decide (d ≠ me s)
    let up := others.filter fun d => reachable s d
    let readable := areaOk s (m.issuer % 256) addr (8 * n) .r .any
    if !zeroFields a smUnused || decide (id = 0xFFFF) || decide (n = 0) || decide (4096 < n) then .refuse .badReserved
    else if readable && (areaFenced s addr (8 * n)).isNone && !smEntriesOk es then .refuse .badReserved
    else if !ctxOk s m ctx then .refuse .badContext
    else if !readable then .refuse .badAddress
    else if (areaFenced s addr (8 * n)).isSome then .refuse .dataLost
    else if !s.work.chain.valid || devs.any fun d => decide (s.work.chain.size ≤ d) then .refuse .notChained
    else
      let mine := if devs.contains (me s) then installAnswer s id ctx else if Tab.has s.work.chain.maps id && mapNamed s id then 1 else 0
      let worst := worseAnswer mine (if up.length < others.length then 3 else 0)
      if mine = 1 then .refuse .mapInUse
      else if up.isEmpty then
        if worst ≠ 0 then .refuse (installStatus worst) else .reply (putMap id map s) .ok 0
      else
        let s := updChain (fun c => { c with installing := Tab.put c.installing id { map := map, left := up, worst := worst } }) s
        .waits (sendMap id .ask map up s) (.shardMap id)) m)

/-- MAP_UPDATE: a newer version of a map that the device holds, or a step of an installation (R270, R271, R277). -/
def execMapUpdate (p : PeerPkt) : State → Host.Outcome State Fault Refusal :=
  live fun s =>
    onPacket 8 p (fun bs s =>
      let h := ofBytes (bs.take 16)
      let id := bitsOf h 0 16
      let map := mapOfBytes (pktCtx p) bs
      let answer (r : Nat) (s : State) : State := ctlSend .mapInstalled (pktSrc p) 4095 (pktCtx p) r id 0 0 [] s
      let agree (f : Tab ShardMap → Tab ShardMap) (s : State) : State := updChain (fun c => { c with mapsAgreed := f c.mapsAgreed }) s
      match bitsOf h 16 2 with
      | 1 =>
        let r := installAnswer s id (pktCtx p)
        answer r (if r = 0 then agree (fun t => Tab.put t id map) s else s)
      | 2 =>
        match Tab.get? s.work.chain.mapsAgreed id with
        | some map => answer 0 (putMap id map (agree (fun t => Tab.del t id) s))
        | none => s
      | 3 => agree (fun t => Tab.del t id) s
      | _ => match Tab.get? s.work.chain.maps id with
        | some old => if old.version < map.version then putMap id map s else s
        | none => s) s

/-- SHARD_MAP_INSTALLED: a device's answer, or its report that it has installed the map (R270, R271). -/
def execShardMapInstalled (p : PeerPkt) : State → Host.Outcome State Fault Refusal :=
  live fun s => onControl .mapInstalled p (fun bs s => installStep (bitsOf (ctlHead bs) 16 16) (pktSrc p) (bitsOf (ctlHead bs) 8 8) s) s

/-! ### Moves (R237 to R239) -/

/-- MOVE_COPY_DONE (R237): the copy ends; with RECOPY it starts again, and after the third such end the move is given up. A destination that has
left service ends it too (R239). A copy of which a read, a write or a packet is outstanding has not ended. -/
def execMoveCopyDone (handle row : Nat) : State → Host.Outcome State Fault Refusal :=
  live fun s =>
    let key := mkKey handle row
    match (rowOf s key).move with
    | none => s
    | some m =>
      if m.switched || m.copied then s
      else if !destUp s key m.dest then continueJobs (abandonMove key s)
      else match copyStep key m.dest s with
        | (false, s) => s
        | (true, s) =>
          if m.recopy then
            if 2 ≤ m.recopies then continueJobs (abandonMove key s)
            else copyBegin key m.dest (updRow key (fun r => { r with move := some { m with recopy := false, recopies := m.recopies + 1 } }) s)
          else updRow key (fun r => { r with move := r.move.map fun m => { m with copied := true } }) s

/-- A REDUCE with TARGET = OWNER of the context is ACTIVE here (R277). -/
def ownerReduce (s : State) (ctx : Nat) : Bool :=
  s.work.chain.jobs.any fun e => e.2.owner && decide (e.2.ctx = ctx) && isActive s e.2.queue e.2.seq

/-- The shadow of the destination has room for a copy, and the line is free there (R228, R237). -/
def switchRoom (s : State) (key cl : Nat) (line : Option (Nat × Nat)) (c : T0Copy) : Bool :=
  (!c.dirty || decide (c.shadow = shadowHome s cl c.bytes.length) || shadowRoom s cl c.bytes.length 0) &&
    (match line with
     | some (x, w) => (linesOf s (keyHandle key) x).all fun l => decide (l.1 = key) || decide (l.2.way ≠ w)
     | none => true)

/-- Rows of every table under a map whose indices lie in one range of 4,096, on this device or given away (R270, R277). -/
def mapShardRows (s : State) (map n : Nat) : List (Nat × Row) :=
  s.work.tbl.rows.filter fun e => decide (keyIndex e.1 / 4096 = n) && match tbl? s (keyHandle e.1) with
    | some t => tdSharded t.desc && decide (tdShardMap t.desc = map)
    | none => false

/-- The map of a row's table. -/
def mapOf (s : State) (key : Nat) : Nat :=
  match tbl? s (keyHandle key) with
  | some t => tdShardMap t.desc
  | none => 0

/-- Every row of the range that a row lies in is on the device `a` (R277). -/
def shardMoved (s : State) (key a : Nat) : Bool :=
  (mapShardRows s (mapOf s key) (keyIndex key / 4096)).all fun e => decide (e.2.chain = a + 1)

/-- A map with the shard's rows given to device `a` (R277). -/
def splitMap (m : ShardMap) (index a : Nat) : ShardMap :=
  let lo := index / 4096 * 4096
  let hi := lo + 4096
  let after := ownerIn m hi
  let old := m.entries.filter fun e => decide (e.1 ≠ lo) && decide (e.1 ≠ hi)
  { m with version := m.version + 1, entries := sortBy Prod.fst (old ++ [(lo, a), (hi, after)]) }

/-- The last row of a range has switched: the map's new version is installed and sent, and the rows are the other device's (R277). -/
def finishShard (key a : Nat) (s : State) : State :=
  let id := mapOf s key
  match Tab.get? s.work.chain.maps id with
  | none => s
  | some m =>
    let gone := (mapShardRows s id (keyIndex key / 4096)).map Prod.fst
    let m' := splitMap m (keyIndex key) a
    let s := sendMap id .newer m' ((mapDevices m).filter fun d => decide (d ≠ me s)) (putMap id m' s)
    let s := updTables (fun w => { w with rows := w.rows.filter fun e => !gone.contains e.1 }) s
    (gone.map keyHandle).eraseDups.foldl (fun s h => freePages h s) s

/-- The row at its new backing location, which holds what its T0 copy held: the copy is clean, and leaves T0 where T1 has accepted it (R223,
R228, R237). -/
def switchPlace (key : Nat) (m : RowMove) (p : Place) (s : State) : State :=
  let r := rowOf s key
  let s := whenS (m.leave && r.t0.any T0Copy.dirty) (partCount (keyHandle key) .writebacks) s
  storeRowPages key (updRow key (fun r => { r with
    place := p, backing := r.bytes, move := some { m with switched := true, oldPlace := some r.place }
    t0 := if m.leave then none else r.t0.map fun c => { c with dirty := false, shadow := none } }) s)

/-- A T0 copy at its new home, with its shadow entry there (R237). -/
def switchCopy (key : Nat) (m : RowMove) (cl core : Nat) (line : Option (Nat × Nat)) (c : T0Copy) (s : State) : State :=
  let c' := { c with cluster := cl, core := core, line := line, shadow := if c.shadow.isSome then shadowHome s cl c.bytes.length else none }
  updRow key (fun r => { r with
    t0 := some c', move := some { m with switched := true, oldCore := some (c.cluster * 2048 + c.core) } }) s

/-- The row is another device's (R236, R277). -/
def switchDevice (key : Nat) (m : RowMove) (a : Nat) (s : State) : State :=
  let s := updRow key (fun r => { r with
    place := { tier := 5 }, backing := r.bytes, t0 := none, chain := a + 1
    move := some { m with switched := true, oldPlace := some r.place } }) s
  if shardMoved s key a then finishShard key a s else s

/-- The location word has changed (R237): what waited for the row goes on. -/
def switched (key : Nat) (s : State) : State :=
  continueJobs (maintCommitted key (wakeShadow (cleanMarks (count .driftMoves 1 (t4Clear (.move key) s)))))

/-- MOVE_SWITCH (R237): no commit to the row is in progress, the destination is in service (R239), and the location word is switched. A page of
T4 that has changed since the copy is written again first. -/
def execMoveSwitch (handle row : Nat) : State → Host.Outcome State Fault Refusal :=
  live fun s =>
    let key := mkKey handle row
    let r := rowOf s key
    match r.move with
    | none => s
    | some m =>
      if m.switched || !m.copied || m.recopy || r.committing then s
      else if !destUp s key m.dest then continueJobs (abandonMove key s)
      else match m.dest, r.t0 with
        | .cluster .., none => continueJobs (abandonMove key s)
        | .cluster cl core line, some c => if switchRoom s key cl line c then switched key (switchCopy key m cl core line c s) else s
        | .device a, _ => if ownerReduce s (tdCtxOf s handle) then s else switched key (switchDevice key m a s)
        | .place p, _ => match throughT4 (.move key) handle s (switchPlace key m p s) with
          | (true, s) => switched key s
          | (false, s) => updRow key (fun r => { r with move := some { m with copied := false } }) s

/-- A row that an exchange has made room for moves up (R233). -/
def runSwaps (down : Nat) (s : State) : State :=
  let ups := (s.work.tbl.swaps.filter fun x => decide (x.1 = down)).map Prod.snd
  let s := updTables (fun w => { w with swaps := w.swaps.filter fun x => decide (x.1 ≠ down) }) s
  ups.foldl (fun s up => match tbl? s (keyHandle up) with
    | some t => if moveReady s up then (planTiers up t [(rowOf s up).place.tier - 1] s).2.2 else s
    | none => s) s

/-- MOVE_SOURCE_FREE (R238): the source is freed. A read takes its row in one step of this model, so none is resolved to it. -/
def execMoveSourceFree (handle row : Nat) : State → Host.Outcome State Fault Refusal :=
  live fun s =>
    let key := mkKey handle row
    match (rowOf s key).move with
    | some m =>
      if m.switched then continueJobs (runSwaps key (releaseChecks (rekeyCheck (freePages handle (updRow key (fun r => { r with move := none }) s)))))
      else s
    | none => s

/-- A row of a MOVE packet read back: the delta versions that follow the footprint. -/
def moveDeltas (P : Nat) (bs : List Byte) : Nat → List Delta
  | 0 => []
  | n + 1 =>
    let h := ofBytes (bs.take 16)
    let has := decide (bitsOf h 96 1 = 1)
    let len := if has then roundup16 P else 0
    { lo := bitsOf h 0 48, hi := bitsOf h 48 48, data := if has then some (sliceBytes bs 16 P) else none
      fenced := decide (bitsOf h 97 1 = 1) } :: moveDeltas P (bs.drop (16 + len)) n

/-- A part of a MOVE joins those before it; all of them once the last has come (R265). -/
def gatherMove (p : PeerPkt) (bs : List Byte) (s : State) : Option (List Byte) × State :=
  let all := match Tab.get? s.work.chain.movesIn (pktSrc p) with
    | some x => x ++ bs.drop 16
    | none => bs
  if pktLast p then (some all, updChain (fun c => { c with movesIn := Tab.del c.movesIn (pktSrc p) }) s)
  else (none, updChain (fun c => { c with movesIn := Tab.put c.movesIn (pktSrc p) all }) s)

/-- MOVE (R277): the device takes the copy of a row, placed as a first commit is (R211). -/
def execMovePkt (p : PeerPkt) : State → Host.Outcome State Fault Refusal :=
  live fun s =>
    onPacket 7 p (fun bs s =>
      match gatherMove p bs s with
      | (none, s) => s
      | (some bs, s) =>
      let h := ofBytes (bs.take 16)
      let key := bitsOf h 0 64
      match tbl? s (keyHandle key) with
      | none => s
      | some t =>
        let sh := shapeOf t.desc
        let foot := sliceBytes bs 16 (footprint sh)
        let ds := moveDeltas (dataBytes sh) (bs.drop (16 + roundup16 (footprint sh))) (bitsOf h 112 16)
        let place (s : State) : Option (Place × State) :=
          if (rowOf s key).written then some ((rowOf s key).place, s) else choosePlace s key t (tiersOf s t)
        let s0 := updRow key (fun r => { r with deltas := [] }) s
        let tiers := (tiersOf s t).filter fun k => decide (tdLimit t.desc k ≠ 0)
        let placed := ds.foldl (fun (acc : Option (List Delta × State)) d =>
          acc.bind fun a => (tiers.findSome? fun k => placeBytes a.2 (keyHandle key) k (d.placed (dataBytes sh))).map fun p =>
            let d := { d with place := p.1 }
            (a.1 ++ [d], updRow key (fun r => { r with deltas := r.deltas ++ [d] }) p.2)) (some ([], s0))
        match placed.bind fun a => place a.2 with
        | none => s
        | some (pl, s') =>
          let s' := updRow key (fun r => { r with place := pl, backing := foot, stamp := bitsOf h 64 48, t0 := none, chain := 0 }) s'
          let s' := (rowOf s' key).deltas.foldl (fun s d => storePlace (keyHandle key) d.place (d.placed (dataBytes sh)) s) (storeRowPages key s')
          let ws := t4Writes s s' (keyHandle key)
          let s' := ws.foldl (fun s w => match pageInT4 s w.1 with
            | some (k, _) => (t4Send (.page k) 2 w.1 w.2 s).getD s
            | none => s) s'
          freePages (keyHandle key) s') s

/-! ### Drift (R232 to R236, R277) -/

/-- A row moves to a tier where its table's limit and the pool have room (R233). The first flag tells that they have, the second that the move
has begun. -/
def planTo (key k : Nat) (s : State) : Bool × Bool × State :=
  match tbl? s (keyHandle key) with
  | some t => if (tiersOf s t).contains k then planTiers key t [k] s else (false, false, s)
  | none => (false, false, s)

/-- A table permits one more row in a tier (R211, R233). -/
def tierPermits (s : State) (h k : Nat) : Bool :=
  match tbl? s h with
  | some t => (tiersOf s t).contains k && belowLimit (tierRows s h k) (tdLimit t.desc k)
  | none => false

/-- A row of a colder shard in the tier above whose table permits tier `k`, for an exchange (R233). -/
def colderRow (s : State) (key k : Nat) : Option Nat :=
  (sortBy (fun x => loadOf s x) ((s.work.tbl.rows.filter fun e =>
    moveReady s e.1 && decide (e.2.place.tier = k - 1) && decide (2 * loadOf s e.1 ≤ loadOf s key) &&
      tierPermits s (keyHandle e.1) k && !(s.work.tbl.swaps.any fun x => decide (x.1 = e.1))).map Prod.fst)).head?

/-- A row of a hot shard goes up one tier; where the pool is full, a colder row goes down and it follows (R233). -/
def planUp (s : State) (key : Nat) : State :=
  let k := (rowOf s key).place.tier
  if !moveReady s key || k < 2 || s.work.tbl.swaps.any fun x => decide (x.2 = key) then s
  else match planTo key (k - 1) s with
    | (true, _, s) => s
    | (false, _, s) =>
      if !tierPermits s (keyHandle key) (k - 1) then s
      else match colderRow s key k with
        | none => s
        | some c => match planTo c k s with
          | (_, true, s) => updTables (fun w => { w with swaps := w.swaps ++ [(c, key)] }) s
          | (_, false, s) => s

/-- Bytes that leave T1 for 1 % of its pool to stay free (R212, R233), besides those that are leaving. -/
def t1Excess (s : State) : Nat :=
  let mapped := sumNat ((s.ranges.filter fun e => decide (e.2.kind = .stack)).map fun e => e.2.len)
  let pool := poolBytes s 1 - mapped - metadataBytes s
  let used := poolUsed s 1 - mapped - metadataBytes s
  let leaving := sumNat ((s.work.tbl.rows.filter fun e => decide (e.2.place.tier = 1) && decide (e.2.finalTier ≠ 1)).map fun e => placedOf s e.1)
  used - leaving - pool * 99 / 100

/-- The coldest rows of tables with MAY_LEAVE go down from T1 until enough is free (R233). -/
def planDown (s : State) : State :=
  let rows := sortBy (fun x => loadOf s x) ((s.work.tbl.rows.filter fun e => moveReady s e.1 && decide (e.2.place.tier = 1)).map Prod.fst)
  (rows.foldl (fun (acc : Nat × State) key =>
    if acc.1 = 0 then acc
    else match planTo key 2 acc.2 with
      | (_, true, s) => (acc.1 - placedOf s key, s)
      | (_, false, s) => (acc.1, s)) (t1Excess s, s)).2

/-- A unit of work that Drift moves between clusters (R234): a set, or the pinned rows of one shard, in one cluster. -/
structure DriftUnit where
  handle : Nat
  /-- The set, or the pinned row indices. -/
  homes : List Nat
  keys : List Nat
  heat : Nat
  deriving DecidableEq, Repr

/-- The units of a table in a cluster. -/
def unitsOf (s : State) (h : Nat) (t : Table) (c : Nat) : List DriftUnit :=
  let rows := (tableRows s h).filter fun e => e.2.t0.any fun x => decide (x.cluster = c)
  let of (f : Nat × Row → Nat) (homes : List Nat → Nat → List Nat) : List DriftUnit :=
    ((rows.map f).eraseDups).map fun u =>
      let ks := (rows.filter fun e => decide (f e = u)).map Prod.fst
      { handle := h, homes := homes ks u, keys := ks, heat := sumNat (ks.map fun k => loadOf s k) }
  match tdMode t.desc with
  | 0 => of (fun e => setOf t.part.nsets e.1) (fun _ u => [u])
  | 1 => of (fun e => keyIndex e.1 / 4096) (fun ks _ => ks.map keyIndex)
  | _ => []

/-- A unit gets a new home in a cluster, and its rows move there: all of them, or none where the cluster or the budget has no room or a row
moves already (R234, R235). -/
def moveUnit (u : DriftUnit) (c d : Nat) (s : State) : Option State :=
  match tbl? s u.handle with
  | none => none
  | some t =>
    if !(u.keys.all fun k => moveReady s k) || !planRoom s (sumNat (u.keys.map fun k => placedOf s k)) (bondPath c d) then none
    else (placesIn s u.handle t d u.homes.length).map fun p =>
      let part := { p.1 with homes := (u.homes.zip p.2).foldl (fun hs x => Tab.put hs x.1 (d, x.2)) p.1.homes }
      let s := updTbl u.handle (fun t => { t with part := part }) s
      u.keys.foldl (fun s key => seatRow u.handle false s (key, rowOf s key)) s

/-- One unit of a hot cluster goes to the coldest cluster below the mean that has room, while the cluster's projected load is at least 1.1 times
the mean, of which `sum` and `n` are the parts (R234). -/
def planUnit (sum n c total : Nat) (acc : Tab Nat × State) (u : DriftUnit) : Tab Nat × State :=
  let load := Tab.getD acc.1 c 0
  if 10 * n * load < 11 * sum then acc
  else
    let share := load * u.heat / max 1 total
    let cold := sortBy (fun e : Nat × Nat => e.2) (acc.1.filter fun e => decide (n * e.2 < sum) && decide (e.1 ≠ c))
    match cold.findSome? fun e => (moveUnit u c e.1 acc.2).map fun s => (e, s) with
    | some ((d, l), s) => (Tab.put (Tab.put acc.1 c (load - share)) d (l + share), s)
    | none => acc

/-- The units of every hot cluster move (R234). -/
def planClusters (cycles : List (Nat × Nat)) (s : State) : State :=
  let cs := (serviceClusters s).filter fun c => decide ((lullOf s (c % 256)).state < 2)
  let loads : Tab Nat := cs.map fun c => (c, ((cycles.find? fun e => decide (e.1 = c)).map Prod.snd).getD 0)
  let sum := sumNat (loads.map Prod.snd)
  let hot := loads.filter fun e => decide (5 * sum < 4 * cs.length * e.2)
  (hot.foldl (fun (acc : Tab Nat × State) e =>
    let us := acc.2.work.tbl.tables.flatMap fun t => unitsOf acc.2 t.1 t.2 e.1
    let total := sumNat (us.map DriftUnit.heat)
    (sortBy (fun u : DriftUnit => 2 ^ 64 - u.heat) us).foldl (planUnit sum cs.length e.1 total) acc) (loads, s)).2

/-- Ranges of 4,096 rows under a map that this device owns and holds rows of, hottest first (R277). -/
def ownedShards (s : State) (id : Nat) : List Nat :=
  let mine := (s.work.tbl.rows.filter fun e => match tbl? s (keyHandle e.1) with
    | some t => tdSharded t.desc && decide (tdShardMap t.desc = id) && ownsRow s t (keyIndex e.1)
    | none => false).map fun e => keyIndex e.1 / 4096
  let heat (n : Nat) : Nat := sumNat ((((mapShardRows s id n).map fun e => shardOf e.1).eraseDups).map fun k => Tab.getD s.work.tbl.loads k 0)
  sortBy (fun n => 2 ^ 64 - heat n) mine.eraseDups

/-- Rows of a table that this device has room for (R277). -/
def rowRoom (s : State) (h : Nat) (t : Table) : Nat :=
  let n := placedBytes (shapeOf t.desc)
  sumNat ((tiersOf s t).map fun k =>
    let pool := (poolBytes s k - poolUsed s k) / max 1 n
    if tdLimit t.desc k = noLimit then pool else min pool (tdLimit t.desc k - tierRows s h k))

/-- Sharded tables with the rows that this device has room for, as a load report carries them (log entry 16). -/
def roomBytes (s : State) : List Byte :=
  (s.work.tbl.tables.filter fun e => tdSharded e.2.desc).flatMap fun e =>
    toBytes 16 (packFields [(0, 16, e.1), (64, 64, rowRoom s e.1 e.2)])

/-- The room that a load report gives, by handle. -/
def roomsOf (bs : List Byte) : Tab Nat :=
  (chunks 16 (bs.length / 16) bs).foldl (fun t e => Tab.put t (bitsOf (ofBytes e) 0 16) (bitsOf (ofBytes e) 64 64)) []

/-- An owner above 1.25 times the mean moves its hottest shard to a device below the mean that has room for it, and goes on with one that it has
begun; a device whose report has not come takes none (R277). -/
def planShard (own : Nat) (s : State) (e : Nat × ShardMap) : State :=
  let others := (ranksOf e.2.eligible).filter fun d => decide (d ≠ me s)
  let known := others.filterMap fun d => (Tab.get? s.work.chain.loads d).map fun r => (d, r)
  let sum := own + sumNat (known.map fun d => d.2.1)
  let n := known.length + 1
  let begun := s.work.tbl.rows.findSome? fun r =>
    if mapOf s r.1 ≠ e.1 then none
    else if 0 < r.2.chain then some (keyIndex r.1 / 4096, r.2.chain - 1)
    else match r.2.move with
      | some { dest := .device d, .. } => some (keyIndex r.1 / 4096, d)
      | _ => none
  let rowsOf (k : Nat) : List Nat := ((mapShardRows s e.1 k).filter fun r => decide (r.2.chain = 0)).map Prod.fst
  let send (k d : Nat) (s : State) : State := (rowsOf k).foldl (fun s key =>
    if moveReady s key then (planMove key (.device d) [peerPath ((routePort s d).getD 0)] s).2 else s) s
  match begun with
  | some r => send r.1 r.2 s
  | none =>
    if !e.2.mayMove || decide (4094 < e.2.entries.length) || !(ranksOf e.2.eligible).contains (me s) || known.length < others.length ||
        own * 4 * n ≤ sum * 5 then s
    else match (ownedShards s e.1).head? with
      | none => s
      | some k =>
        let fits (d : Nat × Nat × Tab Nat) : Bool := ((rowsOf k).map keyHandle).eraseDups.all fun h =>
          decide (((rowsOf k).filter fun x => decide (keyHandle x = h)).length ≤ Tab.getD d.2.2 h 0)
        match (sortBy (fun d : Nat × Nat × Tab Nat => d.2.1) (known.filter fun d => decide (d.2.1 * n < sum) && reachable s d.1 && fits d)).head? with
        | some d => send k d.1 s
        | none => s

/-- This device's core-cycles of the last epoch, and its room, go to the eligible devices of maps whose shards may move (R277). -/
def sendLoads (own : Nat) (s : State) : State :=
  let devs := ((s.work.chain.maps.filter fun e => e.2.mayMove).flatMap fun e => ranksOf e.2.eligible).eraseDups
  (devs.filter fun d => decide (d ≠ me s)).foldl (fun s d => ctlSend .loadReport d 4095 0 0 0 0 own (roomBytes s) s) s

/-- What is left from earlier epochs goes on: commands that wait, copies that are not where they belong, and pinned rows without one. -/
def resumePlaces (s : State) : State :=
  (s.work.tbl.tables.map Prod.fst).foldl (fun s h => pinWritten h (reseat h false s)) (continueJobs (maintRetry s))

/-- DRIFT_EPOCH (R232 to R236, R277): load counters halve, the budget of moves begins anew, and moves are planned. The operand gives each
cluster's gather and update core-cycles in the epoch. -/
def execDriftEpoch (cycles : List (Nat × Nat)) : State → Host.Outcome State Fault Refusal :=
  live fun s =>
    let s := updTables (fun w => { w with
      loads := (w.loads.map fun e => (e.1, e.2 / 2)).filter fun e => decide (0 < e.2), moved := [] }) s
    let own := sumNat (cycles.map Prod.snd)
    let s := resumePlaces s
    let hot := sortBy (fun x => 2 ^ 16 - loadOf s x) ((s.work.tbl.rows.filter fun e =>
      decide (2 ≤ e.2.place.tier) && decide (8 ≤ loadOf s e.1)).map Prod.fst)
    let s := renewPages (planClusters cycles (planDown (hot.foldl planUp s)))
    sendLoads own (s.work.chain.maps.foldl (planShard own) s)

/-- LOAD_REPORT (R277). -/
def execLoadReport (p : PeerPkt) : State → Host.Outcome State Fault Refusal :=
  live fun s =>
    onControl .loadReport p (fun bs s =>
      updChain (fun c => { c with loads := Tab.put c.loads (pktSrc p) (bitsOf (ctlHead bs) 64 64, roomsOf (bs.drop 16)) }) s) s

/-! ### Partition sizes (R219) -/

/-- Row space of the whole Orchard that scratchpad reservations leave free. -/
def cacheSpace (s : State) : Nat :=
  let pins := sumNat ((s.work.tbl.tables.filter fun e => decide (tdMode e.2.desc = 1)).flatMap fun e =>
    e.2.part.seats.map fun x => (x.hi - x.lo) * x.len)
  (2048 * (serviceClusters s).length - pins) * rowSpace s

/-- Load of a table (R233). -/
def tableLoad (s : State) (h : Nat) : Nat :=
  sumNat ((s.work.tbl.loads.filter fun e => decide (keyHandle e.1 = h)).map Prod.snd)

/-- The lines of a merged set that stay: the youngest by AGE, then the lower source set, then the lower way (R219). -/
def keptLines (w : Nat) (ls : List (Nat × T0Copy)) : List Nat :=
  ((sortBy (fun l : Nat × T0Copy => (l.2.age * 2 ^ 40 + (match l.2.line with
    | some (set, _) => set
    | none => 0)) * 32 + l.2.way) ls).take w).map Prod.fst

/-- The partition takes a number of sets: lines that a merged set has no way for leave T0, and the others move to their new sets (R219,
R223). -/
def resizeTo (h n : Nat) (part : Partition) (s : State) : State :=
  match tbl? s h with
  | none => s
  | some t =>
    let s := updTbl h (fun t => { t with part := { part with nsets := n } }) s
    let lines := (tableRows s h).filterMap fun e => e.2.t0.map fun c => (e.1, c)
    let sets := ((lines.map fun l => setOf n l.1)).eraseDups
    let s := sets.foldl (fun s set =>
      let ls := lines.filter fun l => decide (setOf n l.1 = set)
      let keep := keptLines t.part.waysOn ls
      (ls.filter fun l => !keep.contains l.1).foldl (fun s l => (evictRow l.1 s).2) s) s
    reseat h false s

/-- One partition is compared with its target, and halves or doubles (R219). -/
def resizeTable (total space : Nat) (s : State) (e : Nat × Table) : State :=
  let h := e.1
  match tbl? s h with
  | none => s
  | some t =>
    if tdMode t.desc ≠ 0 ∨ total = 0 then s
    else
      let holds := t.part.nsets * tdWays t.desc * footprint (shapeOf t.desc)
      let target := space * tableLoad s h / total
      let twice := max 1 (2 * t.part.nsets)
      if 2 * target < holds ∧ 1 < t.part.nsets then match partOf s h t.desc (t.part.nsets / 2) t.part with
        | some p => resizeTo h (t.part.nsets / 2) p s
        | none => s
      else if 2 * holds < target ∧ belowLimit (twice * tdWays t.desc - 1) (tdLimit t.desc 0) = true then match partOf s h t.desc twice t.part with
        | some p => resizeTo h twice p s
        | none => s
      else s

/-- PARTITION_RESIZE (R219). -/
def execPartitionResize : State → Host.Outcome State Fault Refusal :=
  live fun s =>
    let caches := s.work.tbl.tables.filter fun e => decide (tdMode e.2.desc = 0)
    let total := sumNat (caches.map fun e => tableLoad s e.1)
    caches.foldl (resizeTable total (cacheSpace s)) s

/-! ### Flash through the host agent (R250 to R252, R385) -/

/-- A field of T4_ATTACH breaks its rule (R385). -/
def t4Reserved (a : BitVec 2048) : Bool :=
  !zeroFields a [(4, 12), (36, 28), (120, 8), (184, 8), (248, 8), (272, 16), (336, 16), (366, 1682)] ||
  decide (bits a 0 4 < 6) || decide (12 < bits a 0 4) || decide (bits a 16 10 < 4) || decide (bits a 256 16 = 0) ||
  decide (bits a 352 14 = 0) || decide (10000 < bits a 352 14)

/-- The rings and the bounce area lie in PINNED HOST ranges of the issuer with the rights that the device's accesses need (R385). -/
def t4AreasOk (s : State) (ctx : Nat) (a : BitVec 2048) : Bool :=
  let n := 2 ^ bits a 0 4
  areaOk s ctx (bits a 64 56) (32 * n) .w .pinned && areaOk s ctx (bits a 128 56) (16 * n) .r .pinned &&
    areaOk s ctx (bits a 192 56) (4096 * bits a 256 16) .w .pinned && areaOk s ctx (bits a 192 56) (4096 * bits a 256 16) .r .pinned

/-- The end of T4's used space in pages. -/
def t4Used (s : State) : Nat := maxNat ((usedIn s 4).map fun u => (u.1 + u.2 + 4095) / 4096)

/-- T4_ATTACH (R250, R385). -/
def execT4Attach (m : MbxCall) : State → Host.Outcome State Fault Refusal :=
  mbxRow (mailbox 0x32 true false false m.args (fun s =>
    let a := m.args
    let ctx := m.issuer % 256
    let cap := bits a 288 48
    if t4Reserved a then .refuse .badReserved
    else if !Tab.has s.ctxs ctx then .refuse .badContext
    else if !t4AreasOk s ctx a then .refuse .badAddress
    else if Tab.has s.queues (bits a 26 10) then .refuse .queueExists
    else if cap = 0 then
      if s.ranges.any fun e => decide (e.2.kind = .flash) then .refuse .noCapacity else beginPending .detach s
    else if cap < t4Used s then .refuse .noCapacity
    else
      .reply (updT4 (fun t => { t with
        attached := true, ctx := ctx, ringLog2 := bits a 0 4, vector := bits a 16 10, page := bits a 26 10, reqAddr := bits a 64 56
        cplAddr := bits a 128 56, bounce := bits a 192 56, buffers := bits a 256 16, capacity := cap
        timeoutMs := bits a 352 14, taken := 0 }) s) .ok 0) m)

/-- A request of a stream's transfer has failed, or has timed out (R252). -/
def transferLost (id : Nat) (timeout : Bool) (s : State) : State :=
  { s with streams := { s.streams with transfers := Tab.upd s.streams.transfers id fun t => { t with lost := some timeout } } }

/-- The task that a reader's number stands for. -/
def readerTask (reader : Nat) : Option (Nat × Nat) := if reader < 2 ^ 64 then some (reader / 2 ^ 32, reader % 2 ^ 32) else none

/-- A page of T4 cannot be read: every row version in it is lost, and the reader ends (R244, R252). -/
def pageLost (who : T4Who) (page : Nat) (s : State) : State :=
  let loc := 4096 * page + LocKind.flash.code
  match pageInT4 s page with
  | none => s
  | some (k, _) => match who with
    | .read reader key =>
      let task := readerTask reader
      let s := losePage loc (keyHandle k) (keyIndex k) (some (key, task)) s
      (match task with
       | some (q, n) => failTask q n .dataLost (detLoc loc (lossSeq s key loc)) s
       | none => releaseHeld s)
    | _ => losePage loc (keyHandle k) (keyIndex k) none s

/-- A load cannot write its pages (R179, R252). -/
def loadFailed (id : Nat) (s : State) : State :=
  if id < 2 ^ 64 then match s.work.tbl.merges.find? fun x => decide (x.id = id) with
    | some x => mergeOver id x.done .tierUnavailable none s
    | none => s
  else
    let h := id - 2 ^ 64
    match (tbl? s h).bind fun t => t.replaces.head? with
    | some r => replaceOver h r .tierUnavailable 0 s
    | none => s

/-- A request has failed or timed out (R179, R252): a READ that fails loses its page; the requester ends, or its commit, load or move is given
up. -/
def t4Failed (who : T4Who) (read timeout : Bool) (page : Nat) (s : State) : State :=
  match who with
  | .transfer id => transferLost id timeout s
  | .free _ => s
  | .stale => s
  | _ =>
    if read && !timeout then pageLost who page s
    else match who with
      | .read reader key => (match readerTask reader with
        | some (q, n) => failTask q n .tierUnavailable (detKey key) s
        | none => (match Tab.get? s.work.chain.remotes (reader - 2 ^ 64) with
          | some x => remoteFail x 2 key 0 s
          | none => s))
      | .commit core => (match Tab.get? s.work.upd.runs core with
        | some r => if r.phase = .t4Wait then endRun core (failTask r.queue r.seq .tierUnavailable (detKey r.grad.key) s) else s
        | none => s)
      | .load id => loadFailed id s
      | .move key => continueJobs (abandonMove key s)
      | _ => s

/-- The reader of a READ is still there. -/
def readerHere (s : State) (who : T4Who) : Bool :=
  match who with
  | .read reader _ => (match readerTask reader with
    | some (q, n) => isActive s q n
    | none => Tab.has s.work.chain.remotes (reader - 2 ^ 64))
  | _ => true

/-- The last request of a requester has completed (R251): what it was for goes on, where that is not an event of its own. -/
def t4Done (who : T4Who) (s : State) : State :=
  if t4Waiting s who then s
  else match who with
    | .read reader _ => if (readerTask reader).isNone then releaseHeld s else s
    | .commit core =>
      (match Tab.get? s.work.upd.runs core with
       | some r => if r.phase = .t4Wait then setPhase core .t4Done s else s
       | none => s)
    | .load id => (match s.work.tbl.merges.find? fun x => decide (x.id = id) with
      | some x => mergeResume x s
      | none => s)
    | .clean key =>
      if (rowOf s key).t0.any T0Copy.dirty then maintCommitted key (wakeShadow (cleanMarks (cleanCopy key s).2)) else t4Clear who s
    | .fill key => pinWritten (keyHandle key) s
    | .deltas _ => continueJobs s
    | .page page => if (Tab.get? s.work.tbl.cold page).any ColdPage.shut then releaseChecks (rekeyCheck (renewHere page s)) else t4Clear (.page page) s
    | _ => s

/-- The FLASH range that holds a T4 page (R330). -/
def flashRange (s : State) (page : Nat) : Option (Nat × Range) :=
  s.ranges.find? fun e => decide (e.2.kind = .flash) && decide (e.2.hostStart ≤ 4096 * page) &&
    decide (4096 * page < e.2.hostStart + e.2.len)

/-- A page of a FLASH range has been read, or written: one that was never written reads as zero (R330). -/
def flashTake (page : Nat) (block data : List Byte) (s : State) : State :=
  match flashRange s page with
  | none => s
  | some (base, g) =>
    if data.isEmpty then
      if g.writtenPages.contains page then { s with mem := cellWrite 0 s.mem (base + (4096 * page - g.hostStart)) block } else s
    else { s with ranges := Tab.put s.ranges base { g with writtenPages := insertNew page g.writtenPages } }

/-- A request has been completed: a READ has brought a page's block in its bounce buffer, which is decoded (R242, R244, R251). -/
def t4Take (who : T4Who) (buffer page : Nat) (data : List Byte) (s : State) : State :=
  let got (bs : List Byte) (s : State) : State :=
    updT4 (fun t => { t with arrived := (t.arrived.filter fun e => readerHere s e.1) ++ [(who, page, bs)] }) s
  let block := devRead s ((t4Of s).bounce + 4096 * buffer) (t4Length s page)
  match who with
  | .stale => s
  | .free _ => s
  | .transfer _ => flashTake page block data s
  | _ =>
    if !readerHere s who then s
    else if !data.isEmpty then t4Done who (got data s)
    else match pageInT4 s page with
      | none => s
      | some (k, pg) => match openBlock s (keyHandle k) (keyIndex k) pg block with
        | some raw => t4Done who (got raw s)
        | none => pageLost who page (t4Drop who s)

/-- One completion entry (R251, R252). -/
def t4Entry1 (e : Nat) (s : State) : State :=
  let seq := bitsOf e 0 32
  let st := bitsOf e 32 8
  match Tab.get? (t4Of s).outstanding seq with
  | none => count .t4BadCompletions 1 s
  | some (who, b, page, data) =>
    if 2 < st then count .t4BadCompletions 1 s
    else
      let s := updT4 (fun t => { t with outstanding := Tab.del t.outstanding seq }) s
      let s := if st = 0 then t4Take who b page data s else t4Failed who data.isEmpty false page (t4Drop who s)
      t4Pump (t4Of s).waiting.length s

/-- `n` completion entries are taken, while the attachment stands. -/
def t4Entries : Nat → State → State
  | 0, s => s
  | n + 1, s =>
    let t := t4Of s
    if !t.attached then s else
    let e := devNat s (t.cplAddr + 16 * (t.taken.toNat % 2 ^ t.ringLog2)) 16
    t4Entries n (t4Entry1 e (updT4 (fun t => { t with taken := t.taken + 1 }) s))

/-- AGENT_COMPLETION_DOORBELL (R251, R252, R385): the agent has written `count` entries in all. -/
def execAgentCompletionDoorbell (count' : Word32) (host : List Host.Cell) : State → Host.Outcome State Fault Refusal :=
  live fun s =>
    let t := t4Of s
    let n := (count' - t.taken).toNat
    if !t.attached || !hostUp s || decide (2 ^ t.ringLog2 < n) then s else t4Entries n (hostWrote host s)

/-- T4_TIMEOUT (R252): a request has not completed within the timeout. Its buffer stays taken until the agent completes it. -/
def execT4Timeout (seq : Nat) : State → Host.Outcome State Fault Refusal :=
  live fun s =>
    match Tab.get? (t4Of s).outstanding seq with
    | none => s
    | some (who, _, _, data) => if who = .stale then s else t4Failed who data.isEmpty true 0 (t4Drop who s)

end Sys2Proof.Machine
end

