-- ==== Sys2Proof/Machine/Ingest.lean ====
section
/-! DEFINITION. The index path (R97 to R123): admission of a LOOKUP, the records that Pitter consumes, deduplication and the bag map,
and the requests that go to the owners of sharded tables (R273). -/

namespace Sys2Proof.Machine

/-- The look-up work of a task. -/
def look? (s : State) (q n : Nat) : Option LookupWork := Tab.get? s.work.idx.lookups (tid q n)

/-- The index part of the state is changed. -/
def updIdx (f : Index → Index) (s : State) : State := { s with work := { s.work with idx := f s.work.idx } }

/-- The look-up work of a task is changed. -/
def updLook (q n : Nat) (f : LookupWork → LookupWork) (s : State) : State :=
  updIdx (fun x => { x with lookups := Tab.upd x.lookups (tid q n) f }) s

/-! ### Admission of a LOOKUP (R134, R135) -/

/-- POOL_MODE is MAX or MIN. -/
def lkExt (t : Task) : Bool := decide (partBits t 0 4 = 3) || decide (partBits t 0 4 = 4)

/-- A reserved field or value is not zero, or a field breaks its rule (R135). -/
def lkReserved (t : Task) : Bool :=
  let p := partBits t
  !partZero t [(13, 3), (24, 8), (45, 3), (53, 11), (112, 16), (152, 8), (248, 8), (312, 8), (440, 8), (568, 8), (696, 8), (760, 264)] ||
  decide (4 < p 0 4) || (decide (p 5 1 = 1) && !lkExt t) ||
  (if p 11 1 = 1 then decide (p 64 32 ≠ 0) else decide (p 64 32 = 0))

/-- The layout of an output row (R149). -/
def outShape (format scaling elems : Nat) : RowShape :=
  { format := (formatOf format).getD .fp32, scaling := (scalingOf scaling).getD .none, elements := elems, remBits := 0, planes := 0
    stateBf16 := false, words := 0 }

/-- The output format is not permitted (R32, R135). -/
def lkBadFormat (t : Task) : Bool :=
  match formatOf (partBits t 16 4), scalingOf (partBits t 20 4) with
  | some f, some c => decide (f = .int32) || !scalingPermits f c
  | _, _ => true

/-- Bytes of the retained winners of a bag, or of the winner part of a body. -/
def winnerBytes (elems : Nat) : Nat := roundup16 (2 * elems)

/-- Q of R149. -/
def bodyBytes (format scaling elems : Nat) (winners fused : Bool) : Nat :=
  dataBytes (outShape format scaling elems) + (if winners then winnerBytes elems else 0) + (if fused then 16 else 0)

/-- The length of a body of the task. -/
def lkBody (t : Task) : Nat :=
  let p := partBits t
  bodyBytes (p 16 4) (p 20 4) (p 32 13 + 1) (decide (p 5 1 = 1)) (decide (p 6 1 = 1 ∨ p 7 1 = 1))

/-- The first bound table that holds rows of another length (R135). -/
def lkRowLength (s : State) (t : Task) : Option Nat :=
  (t.bindings.find? fun b => match liveTbl s t.ctx b.handle with
    | some x => decide (tdProbe x.desc = 0) && decide (tdElems x.desc ≠ partBits t 32 13 + 1)
    | none => false).map Binding.handle

/-- The parameter block of a front, as memory holds it (R108). -/
def frontBlock (s : State) (d : BitVec 1024) : BitVec 1024 := BitVec.ofNat 1024 (devNat s (tdProbeAddr d) 128)

/-- Targets that a block uses (R108). -/
def blockTargets (func : Nat) (b : BitVec 1024) : List Nat :=
  (List.range (if func = 3 then blkFactors b else 1)).map (blkTarget b)

/-- Reserved fields are zero, and so are the target and radix entries that the function does not use (R108). -/
def blockUnused (func : Nat) (b : BitVec 1024) : Bool :=
  zeroFields b [(10, 6), (26, 6), (34, 30), (384, 640)] &&
  (List.range 4).all fun k =>
    (decide (k < (if func = 3 then blkFactors b else 1)) || zeroFields b [(64 * k + 128, 16)]) &&
      (decide (func = 3 ∧ k < blkFactors b) || zeroFields b [(64 * k + 144, 48)])

/-- The probe count of an NGRAM front (R107). -/
def gramCount (b : BitVec 1024) : Nat := ((List.range 8).filter fun i => (blkOrders b).testBit i).length * blkHashes b

/-- The block of a front breaks R109. -/
def blockBad (s : State) (t : Task) (d b : BitVec 1024) : Bool :=
  let func := tdProbe d
  let ts := blockTargets func b
  let target (h : Nat) : Option Table := if t.bindings.any fun x => decide (x.handle = h) then liveTbl s t.ctx h else none
  let elems := (ts.filterMap target).map fun x => tdElems x.desc
  decide (bits b 0 4 ≠ func) || !blockUnused func b ||
  ts.any (fun h => match target h with
    | some x => decide (tdProbe x.desc ≠ 0)
    | none => true) ||
  decide (1 < elems.eraseDups.length) ||
  (decide (func = 2) && (decide (blkOrders b = 0) || decide (32 < gramCount b))) ||
  (decide (func = 3) && (decide (bits b 32 2 = 0) ||
    (List.range (blkFactors b)).any (fun k => decide (blkRadix b k = 0) || (match target (blkTarget b k) with
      | some x => decide (tdRowLimit x.desc + 1 < blkRadix b k)
      | none => true)) ||
    decide ((List.range (blkFactors b)).foldl (fun a k => a * blkRadix b k) 1 ≤ tdRowLimit d)))

/-- The first front of the binding list whose block cannot be used, or cannot be read (R109, R449). -/
def probeFault (s : State) (t : Task) : Option (Status × Detail) :=
  t.bindings.findSome? fun b => match liveTbl s t.ctx b.handle with
    | none => none
    | some x =>
      let bad := some (Status.probeParamBad, detTable b.handle)
      if tdProbe x.desc = 0 then none
      else if !areaOk s t.ctx (tdProbeAddr x.desc) 128 .r .near then bad
      else match areaFenced s (tdProbeAddr x.desc) 128 with
        | some loc => some (.dataLost, fenceDet s loc)
        | none => if blockBad s t x.desc (frontBlock s x.desc) then bad else none

/-- The first target whose rows have another length than the task's (R109). -/
def targetLength (s : State) (t : Task) : Option Nat :=
  (t.bindings.flatMap fun b => match liveTbl s t.ctx b.handle with
    | some x => if tdProbe x.desc = 0 then [] else blockTargets (tdProbe x.desc) (frontBlock s x.desc)
    | none => []).find? fun h => match tbl? s h with
      | some x => decide (tdElems x.desc ≠ partBits t 32 13 + 1)
      | none => false

/-- What expansion knows of the bound tables. -/
def lkViews (s : State) (t : Task) : List TableView :=
  t.bindings.filterMap fun b => (liveTbl s t.ctx b.handle).map fun x =>
    let v : TableView :=
      { handle := b.handle, rowLimit := tdRowLimit x.desc, func := tdProbe x.desc
        block := if tdProbe x.desc = 0 then 0 else frontBlock s x.desc }
    v

/-- The work of a LOOKUP as it is admitted. -/
def lkWork (s : State) (t : Task) : LookupWork :=
  let p := partBits t
  { poolMode := p 0 4, plain := decide (p 4 1 = 1) && !lkExt t, winners := decide (p 5 1 = 1), fuseMax := decide (p 6 1 = 1)
    fuseSum := decide (p 7 1 = 1), toMemory := decide (p 8 1 = 1), anyOrder := decide (p 9 1 = 1), retain := decide (p 10 1 = 1)
    withStatus := decide (p 12 1 = 1), format := p 16 4, scaling := p 20 4, elems := p 32 13 + 1, stream := p 48 5
    bags := p 128 24 + 1, stride := p 160 32, outAddr := p 192 56, mapAddr := p 256 56, mapBytes := p 320 64
    scratchBytes := p 448 64, recordAddr := p 512 56, recordBytes := p 576 64, statusAddr := p 640 56
    winnerAddr := if lkExt t then p 704 56 else 0, views := lkViews s t
    ingest := { mask := p 64 32, tag := p 96 16, fromMemory := decide (p 11 1 = 1) } }

/-- The LOOKUP is held: a working table is being loaded (R80), or no retained-map record is free (R160). -/
def lkHeld (s : State) (t : Task) : Bool :=
  t.bindings.any (fun b => decide (b.mode = 0) && (liveTbl s t.ctx b.handle).isSome && replacing s b.handle) ||
    (decide (partBits t 10 1 = 1) && decide (4096 ≤ s.work.upd.maps.length))

/-- The checks of a LOOKUP in their order (R135). -/
def lkFault (s : State) (t : Task) : Option (Status × Detail) :=
  let p := partBits t
  if lkReserved t then some (.badReserved, {})
  else if lkBadFormat t then some (.badFormat, {})
  else match lkRowLength s t with
    | some h => some (.rowLengthMismatch, detTable h)
    | none =>
      if p 8 1 = 1 ∧ (p 160 32 < lkBody t ∨ p 160 32 % 16 ≠ 0) then some (.badStride, {})
      else if lkExt t ∧ p 10 1 = 1 ∧ p 704 56 = 0 then some (.winnerAreaMissing, {})
      else match firstFault s t.ctx t.bindings with
        | some (h, st) => some (st, detTable h)
        | none =>
          if p 11 1 = 0 ∧ tagBusy s (p 64 32) (p 96 16) then some (.feedTagBusy, {})
          else match probeFault s t with
            | some f => some f
            | none => (targetLength s t).map fun h => (.rowLengthMismatch, detTable h)

/-- The retained-map record that a LOOKUP takes at admission (R160). -/
def lkMap (t : Task) (w : LookupWork) : RetainedMap :=
  { queue := t.queue, ctx := t.ctx, seq := t.seq, addr := w.mapAddr, bags := w.bags, elems := w.elems, poolMode := w.poolMode
    winnerAddr := w.winnerAddr, handles := t.bindings.map Binding.handle }

/-- LOOKUP: admission (R135, R78, R100, R160). -/
def execLookup (q n : Nat) : State → Host.Outcome State Fault Refusal :=
  admission .lookup q n fun t s =>
    if lkHeld s t then s
    else match lkFault s t with
      | some (st, d) => failTask q n st d s
      | none =>
        let w := lkWork s t
        let bound := t.bindings.map (bindTo s)
        let s := updTask q n (fun t => { t with bound := bound }) (startTask q n s)
        let s := updIdx (fun x => { x with lookups := Tab.put x.lookups (tid q n) w }) s
        let s := if w.retain then updUpd (fun u => { u with maps := u.maps ++ [lkMap t w] }) s else s
        if w.ingest.fromMemory then s
        else claimFaults q n w.ingest.mask w.ingest.tag (claimTags q n w.ingest.mask w.ingest.tag s)

/-! ### Pitter units (R116) -/

/-- The task has index work, now or later. -/
def pitterJob (t : Task) : Bool :=
  decide (t.state = .active) &&
    (decide (t.ttype = .lookup) || decide (t.ttype = .sort) || decide (t.ttype = .shuffle) || decide (t.ttype = .gatherSamples))

/-- Pitter units of a task. -/
def unitsHeld (s : State) (q n : Nat) : List Nat := Tab.getD s.work.idx.units (tid q n) []

/-- PITTER_UNIT_GRANT: the job takes a unit (R116). Which jobs share a unit changes no result. -/
def execPitterUnitGrant (q n unit : Nat) : State → Host.Outcome State Fault Refusal :=
  live fun s =>
    match task? s q n with
    | none => s
    | some t =>
      if pitterJob t && decide (unit < 64) && !(unitsHeld s q n).contains unit then
        updIdx (fun x => { x with units := Tab.put x.units (tid q n) (unitsHeld s q n ++ [unit]) }) s
      else s

/-! ### Records (R97 to R101, R164, R165) -/

/-- Where a record came from, as a failure names it: a channel, or an offset in the record area (R525). -/
def recDetail (src seq : Nat) : Detail := if src = 0 then detOffset seq else detFeed (src - 1) seq

/-- The kept probes of a bag's inputs (R115). -/
def keptProbes (vs : List TableView) (xs : List BagInput) : Nat := min maxProbes (expandBag vs xs).1.length

/-- A record of keys or tokens joins its bag (R99, R100). `src` is the channel plus one, or 0 for the record area; `at` is its SEQ or
offset. -/
def keysIn (q n src at' : Nat) (h : Word128) (payload : List Byte) (w : LookupWork) (s : State) : State :=
  let bad : State := failTask q n .feedBadRecord (recDetail src at') s
  let bag := recBag h
  let old := Tab.get? w.ins bag
  let open' := match old with
    | some b => !b.closed && decide (b.src = src)
    | none => false
  if recKind h = 4 ∨ w.bags ≤ bag ∨ (if recFirst h then old.isSome else !open') then bad
  else
    let b := old.getD { src := src }
    let xs := b.inputs ++ recInputs h payload
    let total := w.probes - keptProbes w.views b.inputs + keptProbes w.views xs
    let s := updLook q n (fun w => { w with
      ins := Tab.put w.ins bag { b with inputs := xs, closed := recLast h, last := at' }, probes := total }) s
    if 2 ^ 32 - 1 < total then failTask q n .jobTooLarge {} s else s

/-- Bags that are still open when ingest ends fail the task (R100). -/
def ingestEnd (q n : Nat) (s : State) : State :=
  match look? s q n with
  | none => s
  | some w =>
    let s := updLook q n (fun w => { w with ingest := { w.ingest with done := true } }) s
    match w.ins.find? fun b => !b.2.closed with
    | some (_, b) => failTask q n .feedBadRecord (recDetail b.src b.last) s
    | none => s

/-- A gradient record's header breaks R164. -/
def gradHeaderBad (h : Word128) (w : UpdateWork) : Bool :=
  let k := recKind h
  !(decide (8 ≤ k) && decide (k ≤ 11)) || !zeroFields h [(4, 4), (22, 10), (56, 8), (80, 16), (125, 3)] ||
  decide ((k = 9 ∨ k = 11) ≠ (w.bf16 = true)) ||
  (decide (10 ≤ k) && (!recFirst h || !recLast h || decide (bits h 112 13 ≠ 0)))

/-- Bags of a gradient record with the first element and the elements that each takes, none where it breaks R165. -/
def gradParts (h : Word128) (src : Nat) (w : UpdateWork) : Option (List (Nat × Nat × Nat)) :=
  let c := recCount h
  let bag := recBag h
  if gradHeaderBad h w then none
  else if 10 ≤ recKind h then
    let bs := (List.range (c / max 1 w.elems)).map fun i => bag + i
    if c % w.elems = 0 ∧ bs.all (fun b => decide (b < w.bags) && decide (Tab.getD w.got b 0 = 0)) then
      some (bs.map fun b => (b, 0, w.elems))
    else none
  else
    let e := bits h 112 13
    let got := Tab.getD w.got bag 0
    let from' := match Tab.get? w.gotFrom bag with
      | some (c, _) => decide (c = src)
      | none => decide (got = 0)
    if bag < w.bags ∧ e = got ∧ got + c ≤ w.elems ∧ recFirst h = decide (e = 0) ∧ recLast h = decide (e + c = w.elems) ∧
        from' = true then some [(bag, e, c)]
    else none

/-- A gradient record goes to the stage (R165, R166). -/
def gradIn (q n src at' : Nat) (h : Word128) (payload : List Byte) (w : UpdateWork) (s : State) : State :=
  match gradParts h src w with
  | none => failTask q n .feedBadRecord (recDetail src at') s
  | some parts =>
    let wd := if w.bf16 then 2 else 4
    let s := (parts.zip (List.range parts.length)).foldl (fun s x =>
      let (bag, e, c) := x.1
      taskWrite q n (w.gradAddr + bag * w.stride + e * wd) (sliceBytes payload (x.2 * c * wd) (c * wd)) s) s
    updWork q n (fun w => parts.foldl (fun w x => { w with
      got := Tab.put w.got x.1 (x.2.1 + x.2.2), gotFrom := Tab.put w.gotFrom x.1 (src, at') }) w) s

/-- The end of a SCATTER's ingest (R100, R165). -/
def gradEnd (q n : Nat) (s : State) : State :=
  match work? s q n with
  | none => s
  | some w =>
    let s := updWork q n (fun w => { w with ingest := { w.ingest with done := true } }) s
    match w.got.find? fun b => decide (b.2 < w.elems) with
    | some (b, _) =>
      let l := Tab.getD w.gotFrom b (0, 0)
      failTask q n .feedBadRecord (recDetail l.1 l.2) s
    | none => sendCheck q n s

/-- A TAG_END of a channel: ingest ends with the last of the mask (R100). -/
def channelEnded (q n c : Nat) (s : State) : State :=
  match look? s q n, work? s q n with
  | some w, _ =>
    let ended := w.ingest.endedOn ++ [c]
    let s := updLook q n (fun w => { w with ingest := { w.ingest with endedOn := ended } }) s
    if (maskChannels w.ingest.mask).all ended.contains then ingestEnd q n s else s
  | none, some w =>
    let ended := w.ingest.endedOn ++ [c]
    let s := updWork q n (fun w => { w with ingest := { w.ingest with endedOn := ended } }) s
    if (maskChannels w.ingest.mask).all ended.contains then gradEnd q n s else s
  | none, none => s

/-- A TAG_END header obeys R97. -/
def tagEndOk (h : Word128) : Bool := recOk h && decide (recTokenTable h = 0)

/-- A record of the task is taken, its SEQ being the one expected (R97, R99, R165). -/
def recordFor (q n src at' : Nat) (h : Word128) (payload : List Byte) (s : State) : State :=
  match look? s q n, work? s q n with
  | some w, _ => if recOk h then keysIn q n src at' h payload w s else failTask q n .feedBadRecord (recDetail src at') s
  | none, some w => gradIn q n src at' h payload w s
  | none, none => s

/-- Pitter consumes the oldest record of a tag on a channel (R97, R99, R102). -/
def consumeChannel (c tag : Nat) (s : State) : State :=
  let u := Tab.getD (chan s c).uses tag {}
  match u.owner with
  | none => s
  | some t =>
    let q := t / 2 ^ 32
    let n := t % 2 ^ 32
    let ready := (work? s q n).isSome || ((look? s q n).isSome && !(unitsHeld s q n).isEmpty)
    if !ready then s
    else match takeRecord c tag s with
      | none => s
      | some (b, s) =>
        let seq := recSeq b.hdr
        let last := decide (recKind b.hdr = 4)
        let s := if last then endUse c tag s else nextUse c tag s
        let s :=
          if seq ≠ u.nextSeq ∨ (last = true ∧ tagEndOk b.hdr = false) then failTask q n .feedBadRecord (detFeed c seq) s
          else if last then channelEnded q n c s
          else recordFor q n (c + 1) seq b.hdr b.payload s
        closedOut c s

/-- A record of an area can be passed over: its kind gives its length (R98, R164). -/
def recPassable (h : BitVec 128) : Bool := [1, 2, 3, 4, 8, 9, 10, 11].contains (recKind h)

/-- Pitter takes the next record of a task's record area (R101). A record of another tag than the task's (R134) is passed over, a
TAG_END with it: SEQ counts within the tag (DEDUCED, log entry 74). -/
def consumeArea (q n : Nat) (s : State) : State :=
  match look? s q n with
  | none => s
  | some w =>
    if !isActive s q n || !w.ingest.fromMemory || w.ingest.done || (unitsHeld s q n).isEmpty then s
    else
      let pos := w.ingest.areaPos
      let room := w.recordBytes - pos
      if room < 16 then ingestEnd q n s
      else
        let a := w.recordAddr + pos
        match memGate q n .r a 16 s with
        | some s => s
        | none =>
        let h : Word128 := BitVec.ofNat 128 (devNat s a 16)
        let len := bufLength h
        let bad : State := failTask q n .feedBadRecord (detOffset pos) s
        if recTag h ≠ w.ingest.tag then
          if recPassable h && decide (len ≤ room) then
            updLook q n (fun w => { w with ingest := { w.ingest with areaPos := pos + len } }) (takeGates q n s)
          else bad
        else
        match memGate q n .r a (min len room) s with
        | some s => s
        | none =>
        match areaFenced s a (min len room) with
        | some loc => meetLost loc q n s
        | none =>
          if !recOk h || decide (room < len) || decide (recSeq h ≠ w.ingest.areaSeq) then bad
          else if recKind h = 4 then ingestEnd q n s
          else
            let s := updLook q n (fun w => { w with
              ingest := { w.ingest with areaPos := pos + len, areaSeq := seqNext 16 w.ingest.areaSeq } }) (takeGates q n s)
            keysIn q n 0 pos h (devRead s (a + 16) (len - 16)) w s

/-- RECORD_CONSUMED (R102). -/
def execRecordConsumed (src : RecSource) : State → Host.Outcome State Fault Refusal :=
  live fun s => match src with
    | .channel c tag => consumeChannel c tag s
    | .area q n => consumeArea q n s

/-! ### Deduplication (R115 to R123) -/

/-- The probes of a bag, and its entry of the bag table (R114, R115, R120). -/
def bagProbes (w : LookupWork) (bag : Nat) : List Probe × BagInfo :=
  match Tab.get? w.ins bag with
  | none => ([], { refs := 0, outOfRange := 0, truncated := false, empty := true })
  | some b =>
    let x := expandBag w.views b.inputs
    let ps := x.1.take maxProbes
    (ps, { refs := ps.length, outOfRange := x.2, truncated := decide (maxProbes < x.1.length), empty := false })

/-- The entries of a row in requests: at most 4,096 references each. -/
def farEntries (weighted : Bool) (e : DirEntry) : List (List Byte) :=
  (chunks 4096 e.refs.length e.refs).map (probeEntry weighted e.key)

/-- The bound generations of sharded tables, 0 for a working one (R273). -/
def shardedBound (s : State) (t : Task) : List (Nat × Nat) :=
  t.bound.filterMap fun b => match tbl? s b.1 with
    | some x => if tdSharded x.desc then some (b.1, b.2.getD 0) else none
    | none => none

/-- Requests go to every owner of rows of sharded tables (R273). -/
def askOwners (q n : Nat) (t : Task) (w : LookupWork) (s : State) : State :=
  let far := w.dir.filterMap fun e => (strayOwner s e.key).map fun d => (d, e)
  match far.find? fun x => !reachable s x.1 with
  | some (_, e) => failTask q n .tierUnavailable (detKey e.key) s
  | none =>
    if far.isEmpty then s
    else
      let owners := (far.map Prod.fst).eraseDups
      let (tag, s) := takeTag s
      let s := updLook q n (fun w => { w with far := far.map fun x => x.2.key, owners := owners, tag := tag }) s
      owners.foldl (fun s d =>
        let es := (far.filter fun x => decide (x.1 = d)).flatMap fun x => farEntries (decide (w.poolMode = 2)) x.2
        sendProbes d tag t.ctx es
          (sendTaskBegin d tag t.ctx w.poolMode w.plain w.elems t.seq (me s) tag (shardedBound s t) s)) s

/-- DEDUP_DONE: sorting and deduplication end; the bag map is written, or an area is too short (R115, R117, R119, R123). A job that
Pitter can sort in one pass leaves its scratch area alone, even where that has room for two (DESIGN CHOICE, log entry 74). -/
def execDedupDone (q n : Nat) : State → Host.Outcome State Fault Refusal :=
  live fun s =>
    match look? s q n, task? s q n with
    | some w, some t =>
      if !isActive s q n || !w.ingest.done || w.deduped || (unitsHeld s q n).isEmpty then s
      else
        let bags := (List.range w.bags).map fun b => (b, bagProbes w b)
        let infos := bags.map fun b => b.2.2
        let dir := directoryOf (bags.map fun b => (b.1, b.2.1))
        let probes := sumNat (infos.map BagInfo.refs)
        let weighted := decide (w.poolMode = 2)
        let size := bagMapBytes w.bags dir weighted
        let w := { w with infos := infos, dir := dir, probes := probes, ins := [] }
        let s := updLook q n (fun _ => w) s
        if 2 ^ 25 < probes ∧ w.scratchBytes < 32 * probes then failTask q n .scratchShort (detSize (32 * probes)) s
        else if w.mapBytes < size then failTask q n .bagMapShort (detSize size) s
        else
          let s := if 2 ^ 25 < probes then useScratch q n (partBits t 384 56) (32 * probes) s else s
          let s := taskWrite q n w.mapAddr (bagMap infos dir weighted t.seq t.ctx) s
          askOwners q n t w (updLook q n (fun w => { w with deduped := true }) s)
    | _, _ => s

end Sys2Proof.Machine
end

