-- ==== Sys2Proof/Machine/Lookup.lean ====
section
/-! DEFINITION. Pooling (R136 to R157): rows are read and deposited, bags open, partials merge, bags finish, and bodies are
delivered. -/

namespace Sys2Proof.Machine

/-! ### Rows (R136 to R139) -/

/-- The generation that a task reads a table in (R78). -/
def taskGen (t : Task) (h : Nat) : Option Nat := (t.bound.find? fun b => decide (b.1 = h)).bind Prod.snd

/-- The directory entry of a key with the index of its first reference (R121). -/
def dirFind (key : Nat) : Nat → List DirEntry → Option (Nat × DirEntry)
  | _, [] => none
  | first, e :: es => if e.key = key then some (first, e) else dirFind key (first + e.refs.length) es

/-- The work still pools. -/
def pools (s : State) (q n : Nat) (w : LookupWork) : Bool := isActive s q n && w.deduped

/-- A row has been read for the task. -/
def noteRow (q n key : Nat) (x : RowRead) (s : State) : State :=
  updLook q n (fun w => { w with rows := Tab.put w.rows key x, seen := insertNew key w.seen }) s

/-- Every run of the row has been deposited, and none is to be deposited again. -/
def rowOver (w : LookupWork) (key : Nat) (e : DirEntry) : Bool :=
  (List.range (runCount e.refs.length)).all fun i => w.runs.any fun r => decide (r.1 = key) && decide (r.2.1 = 64 * i)

/-- ROW_TRANSIT_ARRIVE: a row that does not lie in T0 arrives in a free transit bank of the cluster, or in a new line (R137, R221). A row in
T4 is first asked for at the host agent (R251). -/
def execRowTransitArrive (q n key cluster : Nat) : State → Host.Outcome State Fault Refusal :=
  live fun s =>
    match look? s q n, task? s q n with
    | some w, some t =>
      let gen := taskGen t (keyHandle key)
      let spent := match dirFind key 0 w.dir with
        | some (_, e) => rowOver w key e
        | none => true
      if !pools s q n w || spent || w.far.contains key || Tab.has w.rows key || (homeBank s key gen).isSome || !clusterAwake s cluster then s
      else match takeRead (tid q n) key gen (some (q, n)) s with
        | (.wait, s) => s
        | (.lost, s) => failTask q n .dataLost (detLoc (lostWord s key gen).1 (lostWord s key gen).2) s
        | (.away, s) => failTask q n .tierUnavailable (detKey key) s
        | (.got data bytes, s') =>
          if !transitRoom s cluster (transitNeed data) then s
          else match enterRow (tid q n) key gen (!w.seen.contains key) bytes s' with
            | (false, s) => s
            | (true, s) => noteRow q n key (match homeBank s key gen with
              | some c => { cluster := c, data := data }
              | none => { cluster := cluster, data := data, transit := transitNeed data }) s
    | _, _ => s

/-- The row as the task pools it: read before, or read now from its home bank, or never written (R19, R71, R136). -/
def rowReady (q n key cluster : Nat) (t : Task) (w : LookupWork) (s : State) : Option RowRead × State :=
  let gen := taskGen t (keyHandle key)
  match Tab.get? w.rows key with
  | some x => (some x, s)
  | none =>
    match readFor s key gen, homeBank s key gen with
    | .lost, some _ => (none, failTask q n .dataLost (detLoc (lostWord s key gen).1 (lostWord s key gen).2) s)
    | .got none _, _ =>
      let x : RowRead := { cluster := cluster, data := none }
      (some x, noteRow q n key x (touchRow key gen (!w.seen.contains key) s))
    | .got data _, some c =>
      let x : RowRead := { cluster := c, data := data }
      (some x, noteRow q n key x (touchRow key gen (!w.seen.contains key) s))
    | _, _ => (none, s)

/-- The references of a run that are to be deposited: all, or those of the bags that a cluster's leaving has undone (R158). -/
def runRefs (w : LookupWork) (key off : Nat) (e : DirEntry) : List Ref :=
  let refs := (e.refs.drop off).take 64
  match w.redo.find? fun x => decide (x.1 = key) && decide (x.2.1 = off) with
  | some x => refs.filter fun r => x.2.2.contains r.bag
  | none => refs

/-- A run of at most 64 references is deposited (R136, R138, R139); the row is let go with its last run (R137). `off` counts from the
row's first reference. -/
def depositRun (q n key off cluster core : Nat) (e : DirEntry) (x : RowRead) (w : LookupWork) (s : State) : State :=
  match tbl? s (keyHandle key) with
  | none => s
  | some t =>
    let sh := shapeOf t.desc
    let refs := runRefs w key off e
    let mode := poolGroup w.poolMode w.plain
    let fresh := (refs.map Ref.bag).eraseDups.filter fun b =>
      !Tab.has w.frames (b * 512 + cluster) && decide (Tab.get? w.homes b ≠ some cluster)
    if !accumRoom s cluster (fresh.length * frameBytes w) then s
    else
      let f := refs.foldl (fun f r =>
        frameAdd mode w.elems (r.bag * 512 + cluster) core r.slot (poolTerms sh x.data (decide (w.poolMode = 2)) r) f)
        (w.frames, w.engines)
      let s := updLook q n (fun w =>
        let w := { w with
          frames := f.1, engines := f.2, runs := w.runs ++ [(key, off, cluster)]
          redo := w.redo.filter fun x => !(decide (x.1 = key) && decide (x.2.1 = off)) }
        if rowOver w key e then { w with rows := Tab.del w.rows key } else w) s
      releaseHeld s

/-- The cluster of a run is as R136 and R138 ask: the row's own for the first block of 4,096 references, another for each later
block, where another is in service. -/
def runCluster (s : State) (w : LookupWork) (x : RowRead) (key off cluster : Nat) : Bool :=
  if off < 4096 then decide (cluster = x.cluster)
  else (decide (cluster ≠ x.cluster) || decide ((serviceClusters s).length ≤ 1)) &&
    w.runs.all fun r => decide (r.1 ≠ key) || decide (r.2.1 / 4096 ≠ off / 4096) || decide (r.2.2 = cluster) ||
      !(serviceClusters s).contains r.2.2

/-- ROW_DEPOSIT: a gather engine deposits one run of a row (R136), for a LOOKUP or a SCATTER (R171). -/
def execRowDeposit (q n key firstRef cluster core : Nat) : State → Host.Outcome State Fault Refusal :=
  live fun s =>
    if engineHeld s (cluster * 2048 + core) then s else
    match look? s q n, task? s q n with
    | some w, some t =>
      match dirFind key 0 w.dir with
      | none => s
      | some (first, e) =>
        let off := firstRef - first
        let opened := (runRefs w key off e).all fun r => Tab.has w.homes r.bag
        if !pools s q n w || w.far.contains key || decide (firstRef < first) || decide (e.refs.length ≤ off) ||
            decide (off % 64 ≠ 0) || !opened || (w.runs.any fun r => decide (r.1 = key) && decide (r.2.1 = off)) ||
            decide (2048 ≤ core) then s
        else match rowReady q n key cluster t w s with
          | (none, s) => s
          | (some x, s) =>
            if runCluster s w x key off cluster then match look? s q n with
              | some w => depositRun q n key off cluster core e x w s
              | none => s
            else s
    | none, some _ => scatterDeposit q n key firstRef cluster s
    | _, none => s

/-! ### Bags (R140 to R143) -/

/-- Number of a partial at the home cluster: bag, chain address and cluster. -/
def partKey (bag dev cluster : Nat) : Nat := bag * 8192 + dev * 512 + cluster

/-- A partial joins the bag's others; one of the same device and cluster is added to the earlier one. -/
def putPart (k : Nat) (b : Bucket) (w : LookupWork) : LookupWork :=
  { w with parts := Tab.put w.parts k (match Tab.get? w.parts k with
      | some a => mergeBucket a b
      | none => b) }

/-- The lowest bag that has not opened (R141). -/
def nextBag (w : LookupWork) : Nat := ((List.range (w.homes.length + 1)).find? fun b => !Tab.has w.homes b).getD w.homes.length

/-- BAG_OPEN: bags open in ascending order, each where its home cluster can hold its frame; partials that have come for it join it
(R141, R142). -/
def execBagOpen (q n bag cluster : Nat) : State → Host.Outcome State Fault Refusal :=
  live fun s =>
    match look? s q n with
    | none => s
    | some w =>
      if pools s q n w && decide (bag = nextBag w) && decide (bag < w.bags) && clusterAwake s cluster &&
          accumRoom s cluster (frameBytes w) then
        updLook q n (fun w =>
          let w := { w with homes := Tab.put w.homes bag cluster }
          let here := w.early.filter fun e => decide (e.1 / 8192 = bag)
          { here.foldl (fun w e => putPart e.1 e.2 w) w with early := w.early.filter fun e => decide (e.1 / 8192 ≠ bag) }) s
      else s

/-- Every run of this device's rows that holds a reference of the bag has been deposited. -/
def bagDeposited (w : LookupWork) (bag : Nat) : Bool :=
  w.dir.all fun e => w.far.contains e.key ||
    (List.range (runCount e.refs.length)).all fun i =>
      !(((e.refs.drop (64 * i)).take 64).any fun r => decide (r.bag = bag)) ||
        (w.runs.any fun r => decide (r.1 = e.key) && decide (r.2.1 = 64 * i)) ||
        w.redo.any fun x => decide (x.1 = e.key) && decide (x.2.1 = 64 * i) && !x.2.2.contains bag

/-- PARTIAL_MERGE: a cluster has made its last deposit for the bag, and its partial arrives at the home cluster (R142, R143). -/
def execPartialMerge (q n bag cluster : Nat) : State → Host.Outcome State Fault Refusal :=
  live fun s =>
    match look? s q n with
    | none => s
    | some w =>
      let k := bag * 512 + cluster
      if pools s q n w && Tab.has w.frames k && Tab.has w.homes bag && bagDeposited w bag then
        let b := closeFrame (poolGroup w.poolMode w.plain) w.elems k (w.frames, w.engines)
        updLook q n (fun w =>
          let w := putPart (partKey bag (me s) cluster) b w
          { w with frames := Tab.del w.frames k, engines := w.engines.filter fun e => decide (e.1 / 2048 ≠ k) }) s |> releaseHeld
      else s

/-- The trailing entries of a PARTIAL (R268): the slots of non-finite terms, and the count of out-of-range references (log entry 16). -/
def partialTail (bs : List Byte) : List (Nat × Nat) × Nat :=
  let ws := (chunks 4 (bs.length / 4) bs).map ofBytes
  let es := (ws.take 1 ++ (ws.drop 1).filter fun x => x ≠ 0)
  ((es.filter fun x => bitsOf x 15 1 = 0).map fun x => (bitsOf x 0 13, bitsOf x 16 16),
   sumNat ((es.filter fun x => bitsOf x 15 1 = 1).map fun x => bitsOf x 16 16))

/-- The look-up that waits for partials under a transaction tag. -/
def lookByTag (s : State) (tag : Nat) : Option (Nat × LookupWork) :=
  s.work.idx.lookups.find? fun e => decide (e.2.tag = tag) && !e.2.owners.isEmpty

/-- A PARTIAL is taken: its packets join, and the whole partial goes to the bag's home. While the bag has not opened it waits outside
accumulator memory (R141, R142, R274; log entry 75). -/
def partialTake (p : PeerPkt) (bs : List Byte) (s : State) : State :=
  match lookByTag s (pktJob p) with
  | none => s
  | some (t, w) =>
    let q := t / 2 ^ 32
    let n := t % 2 ^ 32
    let (bag, _, b, rest) := groupOf (poolGroup w.poolMode w.plain) bs
    let tail := partialTail rest
    let b := { b with nonfinite := tail.1 }
    let cl := bitsOf (ofBytes (bs.take 32)) 114 9
    let s := if tail.2 = 0 then s else
      updLook q n (fun w => { w with beyond := Tab.put w.beyond bag (Tab.getD w.beyond bag 0 + tail.2) }) s
    match gatherGroup p (bag * 512 + cl) b s with
    | (some b, s) => updLook q n (fun w =>
        let k := partKey bag (pktSrc p) cl
        if Tab.has w.homes bag then putPart k b w
        else { w with early := Tab.put w.early k (match Tab.get? w.early k with
          | some a => mergeBucket a b
          | none => b) }) s
    | (none, s) => s

/-- PARTIAL (R274). -/
def execPartialPkt (p : PeerPkt) : State → Host.Outcome State Fault Refusal := live fun s => onPacket 2 p (partialTake p) s

/-- GENERATION_RETIRED_ANSWER: an owner cannot read for the task, which ends FAILED with the reason (R275; log entry 16). -/
def execGenerationRetiredAnswer (p : PeerPkt) : State → Host.Outcome State Fault Refusal :=
  live fun s => onControl .genRetired p (fun bs s =>
    match lookByTag s (pktJob p) with
    | none => s
    | some (t, _) =>
      let h := ctlHead bs
      let key := bitsOf h 64 64
      let fail (st : Status) (d : Detail) : State := failTask (t / 2 ^ 32) (t % 2 ^ 32) st d s
      match bitsOf h 8 8 with
      | 1 => fail .dataLost (detLoc key (ofBytes (sliceBytes bs 16 4)))
      | 2 => fail .tierUnavailable (detKey key)
      | _ => fail .generationRetired {}) s

/-! ### Finishing (R144 to R150) -/

/-- Elements of a row converted to the output format and scaling, the elements that are not finite, whether one saturated, and the
winners (R50, R52, R145, R147, R149). -/
structure BagRow where
  enc : Encoded
  nonfinite : List Nat
  ovf : Bool
  winners : List Nat
  deriving DecidableEq, Repr

/-- The places of a list at which a test holds. -/
def placesOf {α : Type} (p : α → Bool) (xs : List α) : List Nat :=
  (List.range xs.length).filter fun i => match xs[i]? with
    | some x => p x
    | none => false

/-- A merged bag finished and converted (R149). -/
def finishRow (sh : RowShape) (mean : Bool) (b : Bucket) : BagRow :=
  if sh.scaling = .none then
    let fs := finishGroup sh.format mean b.terms b.body
    let cs := fs.map Prod.fst
    { enc := { raws := cs.map Conv.raw, scale := [], convs := cs }, nonfinite := placesOf Conv.nonfinite cs
      ovf := cs.any Conv.saturated, winners := fs.map Prod.snd }
  else
    let fs := finishGroup .fp32 mean b.terms b.body
    let cs := fs.map Prod.fst
    let e := encodeRow sh (cs.map fun c => BitVec.ofNat 32 c.raw)
    { enc := e, nonfinite := placesOf Conv.nonfinite cs
      ovf := cs.any Conv.saturated || e.convs.any Conv.saturated, winners := fs.map Prod.snd }

/-- ROW_MAX and ROW_SUM of the output elements, and whether ROW_SUM sets OVF (R148). -/
def fusedValues (binned : Bool) (xs : List Word32) : Word32 × Word32 × Bool :=
  let top := match xs with
    | [] => f0
    | y :: ys => ys.foldl fmax y
  let c := if binned then finishBin .fp32 (depositAll (xs.map val32)) 1
    else finishPlain .fp32 (xs.foldl plainAdd plainEmpty) 1 false
  (top, BitVec.ofNat 32 c.raw, c.saturated)

/-- The 16-bit winners of a row, padded (R149). -/
def winnerPart (ws : List Nat) : List Byte := pad16 (ws.flatMap fun x => toBytes 2 x)

/-- The finished bag of a merged partial (R149, R150, R155). -/
def finishBag (w : LookupWork) (b : Bucket) : BagOut × List Nat :=
  let sh := outShape w.format w.scaling w.elems
  let row := finishRow sh (decide (w.poolMode = 1)) b
  let data := dataPart sh row.enc
  let (top, sum, ovfl) := fusedValues (decide (poolGroup w.poolMode w.plain = 0)) ((List.range w.elems).map (term1 sh data))
  let fused := if w.fuseMax || w.fuseSum then
      toBytes 4 (if w.fuseMax then top.toNat else 0) ++ toBytes 4 (if w.fuseSum then sum.toNat else 0) ++ zeroBytes 8
    else []
  ({ body := data ++ (if w.winners then winnerPart row.winners else []) ++ fused
     ovf := row.ovf || (w.fuseSum && ovfl), bound := decide (2 ^ 23 < b.terms), saturated := b.saturated
     nonfinite := row.nonfinite.length
     firstNf := row.nonfinite.head?.map fun e => (e, Tab.get? b.nonfinite e) }, row.winners)

/-- The partials of a bag, in ascending order of chain address and cluster, merged (R143). -/
def mergeParts (w : LookupWork) (bag : Nat) : Bucket :=
  ((w.parts.filter fun e => decide (e.1 / 8192 = bag)).map Prod.snd).foldl mergeBucket
    (emptyBucket (poolGroup w.poolMode w.plain) w.elems)

/-- References of a bag (R120). -/
def bagRefs (w : LookupWork) (bag : Nat) : Nat := ((w.infos.drop bag).head?.map BagInfo.refs).getD 0

/-- Every partial of the bag has been merged at home. -/
def bagWhole (w : LookupWork) (bag : Nat) : Bool :=
  !(w.frames.any fun e => decide (e.1 / 512 = bag)) && bagDeposited w bag &&
    decide ((mergeParts w bag).terms + Tab.getD w.beyond bag 0 = bagRefs w bag)

/-- BAG_FINISH: the bag is finished, converted and its body formed, and its winners go to the retained area (R134, R149). -/
def execBagFinish (q n bag : Nat) : State → Host.Outcome State Fault Refusal :=
  live fun s =>
    match look? s q n with
    | none => s
    | some w =>
      if pools s q n w && Tab.has w.homes bag && !Tab.has w.done bag && bagWhole w bag then
        let (out, winners) := finishBag w (mergeParts w bag)
        let s := updLook q n (fun w => { w with
          done := Tab.put w.done bag out, parts := w.parts.filter fun e => decide (e.1 / 8192 ≠ bag) }) s
        if w.retain ∧ w.winnerAddr ≠ 0 then taskWrite q n (w.winnerAddr + bag * winnerBytes w.elems) (winnerPart winners) s else s
      else s

/-! ### Delivery (R150 to R153) -/

/-- The header or status entry of a bag (R150). -/
def bagHeader (w : LookupWork) (bag : Nat) (o : BagOut) : List Byte :=
  let i := ((w.infos.drop bag).head?).getD { refs := 0, outOfRange := 0, truncated := false, empty := true }
  toBytes 16 (packFields
    [(0, 24, bag), (24, 1, 1), (25, 1, b2n o.ovf), (26, 1, b2n o.bound), (27, 1, b2n o.saturated), (28, 1, b2n i.truncated),
     (29, 1, b2n i.empty), (30, 1, b2n (decide (0 < o.nonfinite))), (32, 16, min 0xFFFF o.nonfinite),
     (48, 16, min 0xFFFF (i.outOfRange + Tab.getD w.beyond bag 0)), (64, 16, w.ingest.tag), (80, 16, o.body.length / 16)])

/-- A bag's body has been delivered: its status entry is written where the task asks for one (R152). -/
def bagDelivered (q n bag : Nat) (w : LookupWork) (o : BagOut) (s : State) : State :=
  let s := updLook q n (fun w => { w with delivered := w.delivered ++ [bag] }) s
  let s := count .bagsDelivered 1 s
  releaseHeld (if w.withStatus then taskWrite q n (w.statusAddr + 16 * bag) (bagHeader w bag o) s else s)

/-- The bodies that are visible where they were sent: their writes to a chained device or to flash have completed (R152, R252, R349). -/
def bagsLanded (s : State) : State :=
  s.work.idx.lookups.foldl (fun (s : State) (e : Nat × LookupWork) =>
    let q := e.1 / 2 ^ 32
    let n := e.1 % 2 ^ 32
    (e.2.writing.filter fun b =>
      !(s.streams.transfers.any fun x => decide (x.2.queue = q) && decide (x.2.seq = n) && x.2.sentOut &&
        decide (e.2.outAddr + b * e.2.stride ≤ x.2.dst) && decide (x.2.dst < e.2.outAddr + (b + 1) * e.2.stride))).foldl (fun s b =>
      match look? s q n, Tab.get? e.2.done b with
      | some w, some o => bagDelivered q n b w o (updLook q n (fun w => { w with writing := w.writing.filter fun x => decide (x ≠ b) }) s)
      | _, _ => s) s) s

/-- BAG_SEND: a finished bag is written to memory, or sent whole on its delivery stream while credit lasts (R151 to R153). -/
def execBagSend (q n bag : Nat) : State → Host.Outcome State Fault Refusal :=
  live fun s =>
    match look? s q n with
    | none => s
    | some w =>
      match Tab.get? w.done bag with
      | none => s
      | some o =>
        if !pools s q n w || w.sent.contains bag then s
        else if w.toMemory then
          match memGate q n .w (w.outAddr + bag * w.stride) o.body.length s with
          | some s => s
          | none =>
          let a := w.outAddr + bag * w.stride
          let s := updLook q n (fun w => { w with sent := w.sent ++ [bag] }) s
          if endKind s a = .peer ∨ endKind s a = .flash then
            bagsLanded (storeOut q n a o.body (updLook q n (fun w => { w with writing := w.writing ++ [bag] }) s))
          else bagDelivered q n bag w o (storeOut q n a o.body s)
        else
          let m := w.stream / 4
          let bytes := bagHeader w bag o ++ o.body
          let inTurn := w.anyOrder || decide (bag = w.sent.length)
          if inTurn && hasCredit s m 7 w.stream bytes then
            deliver m { stream := w.stream, bytes := bytes, queue := q, seq := n, item := bag } false
              (updLook q n (fun w => { w with sent := w.sent ++ [bag] }) s)
          else s

/-- The oldest delivery of a stream that has been sent, and whose last flit is acknowledged (R407). -/
def ackedDelivery (u : Ucie) (stream : Nat) : Option Delivery :=
  u.deliveries.find? fun d => decide (d.stream = stream) && (match d.lastSeq with
    | some x => !(u.kept.any fun k => decide (k.seq = x))
    | none => false)

/-- DELIVERY_ACKED: licensee logic has acknowledged the last flit of a bag or sample (R152, R413). -/
def execDeliveryAcked (stream : Nat) : State → Host.Outcome State Fault Refusal :=
  live fun s =>
    let m := stream / 4
    let u := ucieOf s m
    match ackedDelivery u stream with
    | none => s
    | some d =>
      let s := putUcie m { u with deliveries := dropFirst (fun x => decide (x = d)) u.deliveries } s
      match look? s d.queue d.seq with
      | none => s
      | some w => match Tab.get? w.done d.item with
        | some o => bagDelivered d.queue d.seq d.item w o s
        | none => s

end Sys2Proof.Machine
end

