-- ==== Sys2Proof/Machine/Streams.lean ====
section
/-! DEFINITION. COPY streams, their transfers, Headwind and arbitration, memory-side operations, and the semaphore tasks
(R297 to R319, R323). -/

namespace Sys2Proof.Machine

/-! ### Memory-side operations (R323) -/

/-- Bytes of an element of an operation. -/
def memopBytes (op : Nat) : Nat :=
  match op with
  | 2 | 7 | 8 => 2
  | 4 | 11 | 12 => 8
  | _ => 4

/-- Two's-complement maximum or minimum of `w` bits. -/
def intPick (isMax : Bool) (w a b : Nat) : Nat :=
  if isMax then (if signedOf a w < signedOf b w then b else a) else (if signedOf b w < signedOf a w then b else a)

/-- IEEE maximum or minimum of two BF16 elements, in BF16 (R38). -/
def bf16Pick (isMax : Bool) (a b : Nat) : Nat :=
  let x := BitVec.ofNat 32 (a * 65536)
  let y := BitVec.ofNat 32 (b * 65536)
  (if isMax then fmax x y else fmin x y).toNat / 65536

/-- One element: the stored element combined with the operand, whether it saturated, and whether it is left NaN or infinite. -/
def memopElem (op old x : Nat) : Nat × Bool × Bool :=
  let fp (f : Format) (r : Nat) : Nat × Bool × Bool := (r, false, isNonfinite (decodeFloat f r))
  match op with
  | 1 => let c := arrivalAdd .fp32 old x; (c.raw, c.saturated, isNonfinite (decodeFloat .fp32 c.raw))
  | 2 => let c := arrivalAdd .bf16 old x; (c.raw, c.saturated, isNonfinite (decodeFloat .bf16 c.raw))
  | 3 => (intAdd 32 old x, false, false)
  | 4 => (intAdd 64 old x, false, false)
  | 5 => fp .fp32 (fmax (BitVec.ofNat 32 old) (BitVec.ofNat 32 x)).toNat
  | 6 => fp .fp32 (fmin (BitVec.ofNat 32 old) (BitVec.ofNat 32 x)).toNat
  | 7 => fp .bf16 (bf16Pick true old x)
  | 8 => fp .bf16 (bf16Pick false old x)
  | 9 => (intPick true 32 old x, false, false)
  | 10 => (intPick false 32 old x, false, false)
  | 11 => (intPick true 64 old x, false, false)
  | _ => (intPick false 64 old x, false, false)

/-- What an operation leaves: the bytes, elements saturated, elements non-finite, and elements combined. -/
structure MemopRes where
  bytes : List Byte := []
  ovf : Nat := 0
  nonfinite : Nat := 0
  elems : Nat := 0
  deriving DecidableEq, Repr

/-- An operation over stored bytes and operand bytes, element by element. -/
def memop (op : Nat) (old src : List Byte) : MemopRes :=
  let w := memopBytes op
  ((chunks w (src.length + 1) src).zip (chunks w (src.length + 1) old)).foldl (fun (r : MemopRes) (p : List Byte × List Byte) =>
    let e := memopElem op (ofBytes p.2) (ofBytes p.1)
    { bytes := r.bytes ++ toBytes w e.1, ovf := r.ovf + b2n e.2.1, nonfinite := r.nonfinite + b2n e.2.2, elems := r.elems + 1 }) {}

/-! ### STREAM_POLICY (R308) -/

/-- STREAM_POLICY with PARTITION (R308). -/
def execStreamPolicyPartition (m : MbxCall) : State → Host.Outcome State Fault Refusal :=
  let a := setField m.args 0 4 1
  mbxRow (mailbox 0x33 false false false a (fun s =>
    if !zeroFields a [(10, 6), (48, 2000)] || decide (bits a 16 16 = 0) || decide (bits a 32 16 = 0) then .refuse .badReserved
    else
      let key := bits a 4 4 * 4 + bits a 8 2
      .reply { s with streams := { s.streams with policy := Tab.put s.streams.policy key (bits a 16 16, bits a 32 16) } } .ok 0) m)

/-- STREAM_POLICY with PORT_ARB (R308). -/
def execPortArb (m : MbxCall) : State → Host.Outcome State Fault Refusal :=
  let a := setField m.args 0 4 2
  mbxRow (mailbox 0x33 false false false a (fun s =>
    let p := bits a 48 3
    if !zeroFields a [(4, 44), (52, 1996)] then .refuse .badReserved
    else if !populated s p then .refuse .badPort
    else
      let others := s.streams.priorityPorts.filter fun x => decide (x ≠ p)
      .reply { s with streams := { s.streams with priorityPorts := if bit a 51 then insertBy id p others else others } } .ok 0) m)

/-! ### Ports -/

/-- The port that a transfer asks first: its source's, or its destination's where its bytes are forwarded to it (R312). -/
def askPort (s : State) (tr : Transfer) : Option Nat := portOf s (if tr.chain.isSome then tr.dst else tr.src)

/-- The ports of a transfer, the one it asks first ahead. -/
def transferPorts (s : State) (tr : Transfer) : List Nat := ((askPort s tr).toList ++ (portOf s tr.dst).toList).eraseDups

/-- A transfer of less than 256 B (R303). -/
def Transfer.breeze (tr : Transfer) : Bool := decide (tr.len < 256)

/-- Two transfers of one stream. What the device builds for a task is a stream of its own beside a COPY's. -/
def Transfer.sameStream (a b : Transfer) : Bool :=
  decide (a.queue = b.queue) && decide (a.seq = b.seq) && decide (a.gate.isSome = b.gate.isSome)

/-- Earlier entries of the stream have no transfer left that the order of R301 puts before this one, and the stream is not stalled at
an older transfer (R319). -/
def inOrder (s : State) (id : Nat) (tr : Transfer) : Bool :=
  s.streams.transfers.all fun e =>
    let u := e.2
    if u.sameStream tr then
      !(decide (e.1 < id) && u.stalled) &&
        !(u.gate.isNone && decide (u.entry < tr.entry) && (meets u.dst u.len tr.dst tr.len || meets u.src u.len tr.dst tr.len ||
          meets u.dst u.len tr.src tr.len))
    else true

/-- A MIGRATE_OUT holds new transfers to the area's pages (R346). -/
def migratingOut (s : State) (a n : Nat) : Bool :=
  let holds (w : JobWait) : Bool := match w with
    | .migrateOut b l => meets a n b l
    | _ => false
  (match s.mbx.running with
   | some r => holds r.wait
   | none => false) || s.mbx.tickets.any fun e => holds e.2.wait

/-! ### Headwind (R307, R308) -/

/-- HEADWIND_REFILL (R307): the bucket fills at RATE GB/s for the time given. -/
def execHeadwindRefill (partition port ns : Nat) : State → Host.Outcome State Fault Refusal :=
  live fun s =>
    let (rate, burst) := policyAt s partition port
    if rate = 0xFFFF ∨ 16 ≤ partition ∨ 32 ≤ port then s
    else
      let v := min ((burst * 1024 : Nat) : Int) (tokensAt s partition port + ((rate * ns : Nat) : Int))
      { s with streams := { s.streams with tokens := Tab.put s.streams.tokens (partition * 32 + port) v } }

/-- The Headwind partition of a transfer: that of the COPY's stream descriptor, or of the task's common part where the device built
the stream (R298). -/
def partitionOf (s : State) (tr : Transfer) : Nat :=
  match task? s tr.queue tr.seq with
  | some t => if tr.gate.isSome then t.partition else partBits t 12 4
  | none => 0

/-- The time to dry of a transfer's stream, in 10 ns (R309). What a consumer buffer holds and how fast it drains is time, which the
model does not keep: for a stream that the device builds, D is free. DESIGN CHOICE (log entry 45). -/
def timeToDry (s : State) (tr : Transfer) : Nat :=
  match task? s tr.queue tr.seq with
  | some t =>
    if tr.gate.isSome then Config.toDry (tid tr.queue tr.seq) s.clock
    else if t.deadlineUs = 0 then 100000000 else t.admittedAt + 100 * t.deadlineUs - s.clock
  | none => 100000000

/-- A demand transfer: Breeze, of a CRITICAL entry, or for a consumer buffer that holds less than 2 µs of drain (R306). -/
def Transfer.demand (s : State) (tr : Transfer) : Bool :=
  tr.breeze || tr.critical || (decide (tr.gate = some false) && decide (timeToDry s tr < 200))

/-- Every bucket of the transfer holds more than zero, or it is a demand transfer (R307). -/
def hasTokens (s : State) (tr : Transfer) : Bool :=
  ((transferPorts s tr).all fun p => decide (0 < tokensAt s (partitionOf s tr) p)) || tr.demand s

/-! ### Chains (R312) -/

/-- The byte of an address that the replica of an entry has received. -/
def relayByte (x : Stream) (entry replica a : Nat) : Option Byte :=
  x.relays.findSome? fun r =>
    if r.entry = entry ∧ r.replica = replica ∧ r.src ≤ a then r.bytes[a - r.src]? else none

/-- The bytes that the previous replica forwards to a transfer, once it has received them. -/
def relayed (s : State) (tr : Transfer) (replica : Nat) : Option (List Byte) :=
  match stream? s tr.queue tr.seq with
  | some x => (List.range tr.len).mapM fun i => relayByte x tr.entry replica (tr.src + i)
  | none => none

/-- The bytes of a transfer that takes them from the replica before it have come. -/
def chainReady (s : State) (tr : Transfer) : Bool := tr.chain.all fun j => (relayed s tr j).isSome

/-! ### Slots (R303) -/

/-- A transfer that only a slot may keep from issuing (R301, R307, R312, R319, R346). -/
def wantsSlot (s : State) (id : Nat) (tr : Transfer) : Bool :=
  !tr.issued && !tr.stalled && !(tr.gate.isSome && tr.data.isSome) && inOrder s id tr && chainReady s tr && hasTokens s tr &&
    !migratingOut s tr.src tr.len && !migratingOut s tr.dst tr.len

/-- Transfers in flight at a port (R303). -/
def inFlight (s : State) (p : Nat) : List Transfer :=
  (s.streams.transfers.filter fun e => e.2.issued && (transferPorts s e.2).contains p).map Prod.snd

/-- A slot is free for the transfer at one port (R303). -/
def slotAt (s : State) (tr : Transfer) (p : Nat) : Bool :=
  let here := inFlight s p
  let mine := here.filter fun x => x.sameStream tr
  let fair := decide (mine.length < 1024) ||
    !(s.streams.transfers.any fun e => !e.2.sameStream tr && (transferPorts s e.2).contains p && wantsSlot s e.1 e.2)
  if p < 8 then
    let all := sumNat ((List.range 8).map fun i => (inFlight s i).length)
    fair && decide (here.length < 4096) && decide (all < 32768) &&
      (tr.breeze || decide ((here.filter fun x => !x.breeze).length < 4096 - 512))
  else
    let far := (s.streams.transfers.filter fun e => e.2.issued && (transferPorts s e.2).any fun x => decide (8 ≤ x)).map Prod.snd
    let bulk (x : Transfer) : Bool := !x.breeze
    let away (x : Transfer) : Bool := !(transferPorts s x).contains 12
    fair && decide (far.length < 8192) && (tr.breeze || decide ((far.filter bulk).length < 8192 - 1024)) &&
      (decide (p = 12) || decide ((far.filter away).length < 8192 - 1024)) &&
      (tr.breeze || decide (p = 12) || decide ((far.filter fun x => bulk x && away x).length < 8192 - 2048))

/-! ### Arbitration (R309, R310) -/

/-- A transfer that R301, R303, R307 and R346 allow to issue. -/
def mayIssue (s : State) (id : Nat) (tr : Transfer) : Bool := wantsSlot s id tr && (transferPorts s tr).all (slotAt s tr)

/-- A task whose engines a read stalls: gather engines, update engines and Pitter (R310). -/
def TaskType.stalls : TaskType → Bool
  | .copy | .reduce => false
  | _ => true

/-- A critical transfer of R310: of a CRITICAL entry, or a read that stalls an engine of its task. -/
def isCritical (s : State) (tr : Transfer) : Bool :=
  tr.critical || (decide (tr.gate = some false) && (task? s tr.queue tr.seq).any fun t => t.ttype.stalls)

/-- A transfer that has waited 20 µs (R309). -/
def Transfer.aged (s : State) (tr : Transfer) : Bool := decide (tr.since + 2000 ≤ s.clock)

/-- Whether a transfer issues before another by R309: the aged first, then the lower time to dry, the lower partition, the older. -/
def issuesBefore (s : State) (a b : Nat × Transfer) : Bool :=
  let rank (x : Nat × Transfer) : List Nat :=
    if x.2.aged s then [0, x.2.since, 0, x.1] else [1, timeToDry s x.2, partitionOf s x.2, x.1]
  decide (rank a < rank b)

/-- Transfers that compete at a port. -/
def rivals (s : State) (p : Option Nat) : Tab Transfer :=
  s.streams.transfers.filter fun e => decide (askPort s e.2 = p) && mayIssue s e.1 e.2

/-- The transfer is the port's choice (R309, R310). -/
def isChosen (s : State) (id : Nat) (tr : Transfer) : Bool :=
  let p := askPort s tr
  let rs := rivals s p
  let critical := rs.filter fun e => isCritical s e.2
  let others := rs.filter fun e => !isCritical s e.2
  let priority : Bool := match p with
    | some x => s.streams.priorityPorts.contains x
    | none => false
  let turn : Bool := match p with
    | some x => !s.streams.lastCritical.contains x || others.isEmpty
    | none => true
  if priority ∧ !critical.isEmpty ∧ turn then decide ((critical.head?).map Prod.fst = some id)
  else (if priority ∧ !others.isEmpty then others else rs).all fun e => decide (e.1 = id) || issuesBefore s (id, tr) e

/-! ### COPY (R298, R317, R318) -/

/-- Reserved fields of a COPY (R298). -/
def coReserved (t : Task) : Bool := !partZero t [(16, 16), (56, 8), (120, 8), (128, 384)]

/-- The arming that runs or waits has retired: its record is posted, and its transfers have completed (R317). -/
def retired (s : State) (e : Nat × Nat) : Bool :=
  match task? s e.1 e.2 with
  | none => true
  | some t => t.posted && taskQuiet s e.1 e.2

/-- The arming state of a stream. -/
def armingOf (s : State) (ctx sid : Nat) : Arming := Tab.getD (ctxD s ctx).armings sid {}

/-- The arming state of a stream is put. -/
def putArming (ctx sid : Nat) (a : Arming) (s : State) : State := updCtx ctx (fun c => { c with armings := Tab.put c.armings sid a }) s

/-- COPY: admission, with the stream's next arming number (R317). -/
def execCopy (q n : Nat) : State → Host.Outcome State Fault Refusal :=
  admission .copy q n fun t s =>
    if coReserved t then failTask q n .badReserved {} s
    else
      let sid := partBits t 0 12
      let a := armingOf s t.ctx sid
      let busy := match a.running with
        | some e => !retired s e
        | none => false
      if a.waiting.isSome then s
      else
        let num := (a.num + 1) % 65536
        let a' : Arming := if busy then { a with num := num, waiting := some (q, n) }
          else { num := num, running := some (q, n), waiting := none }
        let x : Stream :=
          { streamId := sid, entries := partBits t 32 24 + 1, listAddr := partBits t 64 56, arming := num, started := !busy }
        let s := startTask q n (putArming t.ctx sid a' s)
        { s with streams := { s.streams with streams := Tab.put s.streams.streams (tid q n) x } }

/-- ARMING_START: the waiting arming starts when the previous one has retired (R317). -/
def execArmingStart (ctx sid : Nat) : State → Host.Outcome State Fault Refusal :=
  live fun s =>
    let a := armingOf s ctx sid
    match a.running, a.waiting with
    | some e, some w =>
      if !retired s e then s
      else updStream w.1 w.2 (fun x => { x with started := true }) (putArming ctx sid { a with running := some w, waiting := none } s)
    | _, _ => s

/-! ### Entries (R299, R300) -/

/-- SRC_ADDR of a block-list entry. -/
def beSrc (e : Nat) : Nat := bitsOf e 0 56
/-- DST_ADDR. -/
def beDst (e : Nat) : Nat := bitsOf e 64 56
/-- Length in bytes. -/
def beLen (e : Nat) : Nat := bitsOf e 128 24 + 1
/-- OP. -/
def beOp (e : Nat) : Nat := bitsOf e 152 4
/-- Replicas. -/
def beReplicas (e : Nat) : Nat := bitsOf e 192 8 + 1
/-- DST_STRIDE. -/
def beStride (e : Nat) : Nat := bitsOf e 200 48
/-- Address of a replica. -/
def beReplica (e j : Nat) : Nat := beDst e + j * beStride e

/-- A destination outside T1 that no window carries (R300, R319). -/
def outsideT1 (a n : Nat) : Bool :=
  !(decide (a + n ≤ 2 ^ 39)) && !(decide (0x0020000000000000 ≤ a) && decide (a + n ≤ 0x0030000000000000))

/-- The reason of R300 for which an entry fails its check, in the order of the table. -/
def entryFault (e : Nat) : Option Nat :=
  let rep := beReplicas e
  let n := beLen e
  let dsts := (List.range rep).map (beReplica e)
  let z (lo len : Nat) : Bool := bitsOf e lo len == 0
  if !(z 56 8 && z 120 8 && z 159 1 && z 172 4 && z 188 4 && z 248 8) || decide (12 < beOp e) || (z 156 1 && !z 160 12) ||
      (z 157 1 && !z 176 12) || (decide (rep = 1) && decide (beStride e ≠ 0)) || decide (beStride e % 16 ≠ 0) then some 1
  else if dsts.any (fun d => meets (beSrc e) n d n) || (decide (1 < rep) && decide (beStride e < n)) then some 2
  else if beOp e ≠ 0 ∧ (beSrc e % memopBytes (beOp e) ≠ 0 ∨ n % memopBytes (beOp e) ≠ 0 ∨ beDst e % memopBytes (beOp e) ≠ 0) then some 3
  else if beOp e ≠ 0 ∧ dsts.any (fun d => outsideT1 d n) then some 4
  else if 2 ^ 56 < beSrc e + n ∨ dsts.any (fun d => decide (2 ^ 56 < d + n)) then some 5
  else none

/-- The transfers of one replica: cuts at 512 B boundaries of the destination (R303). -/
def replicaPieces (e j : Nat) : List (Nat × Nat × Nat) :=
  let d := beReplica e j
  let n := beLen e
  (List.range ((d + n - 1) / 512 - d / 512 + 1)).map fun i =>
    let lo := max d ((d / 512 + i) * 512)
    (beSrc e + (lo - d), lo, min (d + n) ((d / 512 + i + 1) * 512) - lo)

/-- The chain of an entry: its replicas at stack ports, in ascending order (R312). -/
def beChain (e : Nat) : List Nat := (List.range (beReplicas e)).filter fun j => decide (beReplica e j < 2 ^ 39)

/-- The transfers of an entry wait to issue. -/
def cutEntry (q n idx e : Nat) (s : State) : State :=
  let members := beChain e
  ((List.range (beReplicas e)).flatMap fun j => (replicaPieces e j).map fun p => (j, p)).foldl
    (fun (s : State) (p : Nat × Nat × Nat × Nat) =>
      let inChain := members.contains p.1
      addTransfer { queue := q, seq := n, entry := idx, replica := p.1, src := p.2.1, dst := p.2.2.1, len := p.2.2.2, op := beOp e
                    critical := bitsOf e 158 1 == 1, since := s.clock
                    chain := if inChain then (members.filter fun j => decide (j < p.1)).getLast? else none
                    feeds := inChain && members.any fun j => decide (p.1 < j) } s) s

/-- The entry issues: its transfers are cut, and the stream goes on to the next (R301). -/
def issueEntry (q n : Nat) (x : Stream) (e : Nat) (s : State) : State :=
  cutEntry q n x.nextEntry e (updStream q n (fun x => { x with
    nextEntry := x.nextEntry + 1, reached := none, entryServed := false
    signals := if bitsOf e 157 1 = 1 then Tab.put x.signals x.nextEntry (bitsOf e 176 12) else x.signals }) s)

/-- The stream reaches an entry: it is read, checked, and waits or issues (R300, R314). -/
def reachEntry (q n : Nat) (t : Task) (x : Stream) (s : State) : State :=
  let a := x.listAddr + 32 * x.nextEntry
  match memGate q n .r a 32 s with
  | some s => s
  | none =>
    match areaFenced s a 32 with
    | some loc => meetLost loc q n s
    | none =>
      let e := devNat s a 32
      let s := takeGates q n s
      match entryFault e with
      | some r =>
        failTask q n .badBlockEntry (detEntry x.nextEntry r)
          (updStream q n (fun x => { x with badEntry := x.nextEntry, badReason := r }) s)
      | none =>
        if bitsOf e 156 1 = 0 then issueEntry q n x e s
        else joinSem t.ctx { sem := bitsOf e 160 12, count := 1, who := .entry q n x.nextEntry }
          (updStream q n (fun x => { x with reached := some e }) s)

/-- Every transfer cut from an entry of the stream has issued. Entries issue in list order (R301), and the entries before one that
fails its check keep their effects (R300): the stream reaches an entry only now. DEDUCED (log entry 65). -/
def entriesIssued (s : State) (q n : Nat) : Bool :=
  s.streams.transfers.all fun e => !(decide (e.2.queue = q) && decide (e.2.seq = n)) || e.2.gate.isSome || e.2.issued

/-- STREAM_ENTRY_ISSUE (R300, R301, R314). -/
def execStreamEntryIssue (q n : Nat) : State → Host.Outcome State Fault Refusal :=
  live fun s =>
    match task? s q n, stream? s q n with
    | some t, some x =>
      if t.state ≠ .active ∨ !x.started ∨ x.entries ≤ x.nextEntry then s
      else match x.reached with
        | some e => if x.entryServed then issueEntry q n x e s else s
        | none => if entriesIssued s q n then reachEntry q n t x s else s
    | _, _ => s

/-! ### Transfers -/

/-- A transfer's window request is outstanding. -/
def windowOpenFor (s : State) (id : Nat) : Bool := s.work.chain.windowReqs.any fun e => decide (e.2.transfer = id)

/-- The bytes of a transfer's source can be read now, and are these. -/
def sourceBytes (s : State) (id : Nat) (tr : Transfer) : Option (List Byte) :=
  match tr.chain with
  | some j => relayed s tr j
  | none =>
    match endKind s tr.src with
    | .peer => tr.data
    | .flash => if t4Waiting s (.transfer id) then none else some (devRead s tr.src tr.len)
    | _ => some (devRead s tr.src tr.len)

/-- Where the destination lies in a chained device or in flash and the bytes are there, its request goes out once. -/
def pushOut (id : Nat) (s : State) : State :=
  match transfer? s id with
  | none => s
  | some tr =>
    if tr.sentOut then s
    else match sourceBytes s id tr with
      | none => s
      | some bs =>
        match endKind s tr.dst with
        | .peer =>
          sendWindow id (if tr.op = 0 then 3 else 4) tr.op tr.dst tr.len bs (updTransfer id (fun t => { t with sentOut := true }) s)
        | .flash =>
          match t4SendAll (.transfer id) 2 (flashWrites s tr.dst bs) s with
          | some s => updTransfer id (fun t => { t with sentOut := true }) s
          | none => s
        | _ => s

/-- The transfer issues: its slots and tokens are taken, and the requests that its ends need go out (R303, R307). -/
def startTransfer (id : Nat) (tr : Transfer) (s : State) : State :=
  let ports := transferPorts s tr
  let part := partitionOf s tr
  let s := ports.foldl (takeTokens part tr.len) s
  let critical := isCritical s tr
  let s := if tr.aged s then (match askPort s tr with
    | some p => stackCount p .aged 1 s
    | none => s) else s
  let s := match askPort s tr with
    | some p =>
      let others := s.streams.lastCritical.filter fun x => decide (x ≠ p)
      { s with streams := { s.streams with lastCritical := if critical then insertBy (fun y => y) p others else others } }
    | none => s
  let reads := tr.chain.isNone && decide (tr.gate ≠ some true)
  let s := if tr.gate = some false then s else useCopies true tr.dst tr.len s
  let s := if reads then useCopies false tr.src tr.len s else s
  let s := updTransfer id (fun t => { t with issued := true }) s
  match reads, endKind s tr.src with
  | true, .peer => sendWindow id 1 0 tr.src tr.len [] s
  | true, .flash => (match t4SendAll (.transfer id) 1 ((flashPages s tr.src tr.len).map fun p => (p, [])) s with
    | some s => s
    | none => updTransfer id (fun t => { t with issued := false }) s)
  | _, _ => if tr.gate.isSome then s else pushOut id s

/-- A page of an area lies in the host's memory or behind its agent. -/
def needsHost (s : State) (a n : Nat) : Bool := (pagePieces a n).any fun p => (portOf s p.1 == some 12)

/-- A tier or device of an area that cannot be reached (R253, R259, R305). -/
def endUnreachable (s : State) (a : Nat) : Bool :=
  match rangeAt s a 1 with
  | some (_, g) => (match g.kind with
    | .expander => !(Tab.getD s.links.expanders ((a - 2 ^ 40) / 2 ^ 40) {}).up
    | .peer => !reachable s g.chainAddr
    | .flash => !(t4Of s).attached
    | _ => false)
  | none => false

/-- The check of a transfer at memory: FAULT_KIND, ACCESS and address of the fault (R333). -/
def transferCheck (s : State) (ctx : Nat) (tr : Transfer) : Option (Nat × Nat × Nat) :=
  let right : Right := match tr.gate with
    | some w => if w then .w else .r
    | none => if tr.op = 0 then .w else .a
  (if tr.gate = some true then none else (accessFault s ctx .r tr.src tr.len).map fun f => (f.1, 1, f.2)) <|>
    (accessFault s ctx right tr.dst tr.len).map fun f => (f.1, right.bit, f.2)

/-- A transfer that Headwind holds is counted once (R307, R326). -/
def holdTransfer (id : Nat) (tr : Transfer) (s : State) : State :=
  if tr.held then s
  else
    let ps := (transferPorts s tr).filter fun p => decide (tokensAt s (partitionOf s tr) p ≤ 0)
    ps.foldl (fun s p => stackCount p .headwindHolds 1 s) (updTransfer id (fun t => { t with held := true }) s)

/-- TRANSFER_ISSUE: the port's next transfer issues, stalls on a page, or ends its task (R301, R303, R307, R309, R319, R333). -/
def execTransferIssue (id : Nat) : State → Host.Outcome State Fault Refusal :=
  live fun s =>
    match transfer? s id with
    | none => s
    | some tr =>
      match task? s tr.queue tr.seq with
      | none => s
      | some t =>
        if tr.issued || tr.stalled || (tr.gate.isSome && tr.data.isSome) || !inOrder s id tr ||
            (if tr.gate.isSome then t.state.final else decide (t.state ≠ .active)) then s
        else if !hasTokens s tr then holdTransfer id tr s
        else if !mayIssue s id tr || !isChosen s id tr then s
        else match transferCheck s t.ctx tr with
          | some (kind, acc, a) => transferFault tr kind acc a 0 s
          | none =>
            let source := tr.chain.isNone && needsHost s tr.src tr.len
            if (source || needsHost s tr.dst tr.len) && !hostUp s then
              failTask tr.queue tr.seq .hostLost (detAddr (if source then tr.src else tr.dst)) s
            else if (tr.chain.isNone && endUnreachable s tr.src) || endUnreachable s tr.dst then failTask tr.queue tr.seq .tierUnavailable {} s
            else match transferNeed s tr with
              | some need => stallOn id need s
              | none => startTransfer id tr s

/-! ### Completion of transfers and entries -/

/-- An entry that is complete signals its semaphore, also after its task has ended (R299, R314, R318). -/
def signalEntry (q n idx : Nat) (s : State) : State :=
  match stream? s q n, task? s q n with
  | some x, some t =>
    match Tab.get? x.signals idx with
    | none => s
    | some sem =>
      let s := updStream q n (fun x => { x with signals := Tab.del x.signals idx }) s
      match signalSem t.ctx sem 1 s with
      | some s => s
      | none =>
        if t.state = .active then failTask q n .semOverflow (detEntry idx 0) (updStream q n (fun x => { x with badEntry := idx }) s)
        else s
  | _, _ => s

/-- The entry's transfers: every one has completed, or some was given up. -/
def entryLeft (s : State) (q n idx : Nat) : Bool :=
  s.streams.transfers.any fun e => decide (e.2.queue = q) && decide (e.2.seq = n) && decide (e.2.entry = idx) && e.2.gate.isNone

/-- The lowest incomplete entry moves up over complete ones (R302). -/
def riseComplete : Nat → Stream → Stream
  | 0, x => x
  | fuel + 1, x =>
    if x.completeSet.contains x.completeBelow then
      riseComplete fuel { x with completeBelow := x.completeBelow + 1, completeSet := x.completeSet.filter fun i => decide (i ≠ x.completeBelow) }
    else x

/-- A transfer of an entry has ended whole. An entry of which no transfer is left, and none was given up or failed, is complete. -/
def entryStep (q n idx : Nat) (s : State) : State :=
  match stream? s q n with
  | none => s
  | some x =>
    if entryLeft s q n idx || x.completeSet.contains idx || decide (idx < x.completeBelow) || x.broken.contains idx then s
    else
      signalEntry q n idx (updStream q n (fun x => riseComplete (x.completeSet.length + 1) { x with
        completeSet := x.completeSet ++ [idx], relays := x.relays.filter fun r => decide (r.entry ≠ idx) }) s)

/-- MIGRATE_OUT goes on once no transfer to its pages is in flight (R346): pages go back to the host, and the command completes. -/
def migrateBack (base : Nat) (first last : Nat) (s : State) : State :=
  match Tab.get? s.ranges base with
  | none => s
  | some g =>
    let pages := g.devicePages.filter fun p => decide (first ≤ p.1) && decide (p.1 < last)
    let s := pages.foldl (fun (s : State) (p : Nat × Nat) =>
      let bs := cellRead 0 s.mem p.2 4096
      { s with
        hostMem := cellWrite 0 s.hostMem (hostKey g.pasidValid g.pasid (g.hostStart + 4096 * p.1)) bs
        mem := cellClear s.mem p.2 4096 }) s
    let left := g.devicePages.filter fun p => !(decide (first ≤ p.1) && decide (p.1 < last))
    { s with ranges := Tab.put s.ranges base { g with devicePages := left } }

/-- No transfer in flight touches the area. -/
def areaQuiet (s : State) (a n : Nat) : Bool :=
  !(s.streams.transfers.any fun e => e.2.issued && (meets e.2.src e.2.len a n || meets e.2.dst e.2.len a n))

/-- The MIGRATE_OUT commands that wait. -/
def migrateJobs (s : State) : List (Nat × Nat) :=
  let of (w : JobWait) : List (Nat × Nat) := match w with
    | .migrateOut a n => [(a, n)]
    | _ => []
  ((match s.mbx.running with
    | some r => of r.wait
    | none => []) ++ s.mbx.tickets.flatMap fun e => of e.2.wait).eraseDups

/-- One MIGRATE_OUT ends where it may. -/
def migrateOutStep (s : State) (j : Nat × Nat) : State :=
  if !areaQuiet s j.1 j.2 then s
  else if !hostUp s then jobEnd (.migrateOut j.1 j.2) .hostLost 0 s
  else match rangeAt s j.1 j.2 with
    | none => jobEnd (.migrateOut j.1 j.2) .noRange 0 s
    | some (base, _) =>
      jobEnd (.migrateOut j.1 j.2) .ok 0 (migrateBack base ((j.1 - base) / 4096) ((j.1 + j.2 - base) / 4096) s)

/-- What waits on transfers goes on. -/
def afterTransfer (s : State) : State := (migrateJobs s).foldl migrateOutStep s

/-- The transfer ends without its effect: its entry stays incomplete (R318, R320). -/
def breakTransfer (id : Nat) (tr : Transfer) (s : State) : State :=
  updStream tr.queue tr.seq (fun x => { x with broken := if x.broken.contains tr.entry then x.broken else x.broken ++ [tr.entry] })
    (dropTransfer id s)

/-- Counts of a COPY's record rise, saturating (R302). -/
def countMoved (tr : Transfer) (r : MemopRes) (s : State) : State :=
  updStream tr.queue tr.seq (fun x => { x with
    bytesWritten := satAdd 64 x.bytesWritten tr.len, memOvf := satAdd 32 x.memOvf r.ovf
    memNonfinite := satAdd 32 x.memNonfinite r.nonfinite }) s

/-- The port counters of a completed transfer (R326). A source is read once for all replicas of a chain (R312). -/
def countPorts (tr : Transfer) (elems : Nat) (s : State) : State :=
  let s := match portOf s tr.src with
    | some p => if tr.chain.isNone && decide (tr.gate ≠ some true) then stackCount p .readBytes tr.len s else s
    | none => s
  let s := match portOf s tr.dst with
    | some p => if tr.gate = some false then s else stackCount p .memopElems elems (stackCount p .writeBytes tr.len s)
    | none => s
  if tr.breeze then (transferPorts s tr).foldl (fun s p => stackCount p .breeze 1 s) s else s

/-- The transfer has ended whole. -/
def endTransfer (id : Nat) (tr : Transfer) (r : MemopRes) (s : State) : State :=
  afterTransfer (entryStep tr.queue tr.seq tr.entry (countPorts tr r.elems (countMoved tr r (dropTransfer id s))))

/-- The bytes that a member of a chain has received are held for the next (R312). -/
def relay (tr : Transfer) (bs : List Byte) (s : State) : State :=
  if tr.feeds then updStream tr.queue tr.seq (fun x => { x with
    relays := x.relays ++ [{ entry := tr.entry, replica := tr.replica, src := tr.src, bytes := bs }] }) s
  else s

/-- The bytes of a transfer reach a destination on this device, or the operation is done there (R320, R323). -/
def storeBytes (id : Nat) (tr : Transfer) (bs : List Byte) (s : State) : State :=
  let source := if tr.chain.isSome then none else areaFenced s tr.src tr.len
  match source <|> (if tr.op = 0 then none else areaFenced s tr.dst tr.len) with
  | some loc => afterTransfer (meetLost loc tr.queue tr.seq (breakTransfer id tr s))
  | none =>
    let s := relay tr bs s
    if tr.op = 0 then endTransfer id tr {} (taskWrite tr.queue tr.seq tr.dst bs s)
    else
      let r := memop tr.op (devRead s tr.dst tr.len) bs
      endTransfer id tr r (devWrite tr.dst r.bytes s)

/-- A transfer of a device-built stream has ended: the requests of a write that went out (R152, R252), or the part of a read or
write that its task awaits. -/
def gateDone (id : Nat) (tr : Transfer) (poisoned : Bool) (s : State) : State :=
  match tr.lost with
  | some timeout =>
    let s := dropTransfer id s
    if timeout then failTask tr.queue tr.seq .tierUnavailable {} s else loseForTask 1 (locDev tr.src) tr.queue tr.seq s
  | none =>
    if tr.sentOut then bagsLanded (dropTransfer id s)
    else
      let s := afterTransfer (countPorts tr 0 (updTransfer id (fun t => { t with data := some [], issued := false }) s))
      if taskOver s tr.queue tr.seq then dropTransfer id s
      else if poisoned ∧ tr.gate = some false then loseForTask 4 (locDev tr.src) tr.queue tr.seq s
      else s

/-- TRANSFER_COMPLETE (R303, R316, R320): the data or the write acknowledgement returns. A source that arrives poisoned is lost
(R441). A transfer whose requests are outstanding has not completed. -/
def execTransferComplete (id : Nat) (poisoned : Bool) : State → Host.Outcome State Fault Refusal :=
  live fun s =>
    match transfer? s id with
    | none => s
    | some tr =>
      if !tr.issued || t4Waiting s (.transfer id) || windowOpenFor s id then s
      else if tr.gate.isSome then gateDone id tr poisoned s
      else match tr.lost with
        | some timeout =>
          let s := breakTransfer id tr s
          afterTransfer (if timeout then failTask tr.queue tr.seq .tierUnavailable {} s
            else loseForTask 1 (locDev (if endKind s tr.src = .flash then tr.src else tr.dst)) tr.queue tr.seq s)
        | none =>
          if poisoned ∧ tr.chain.isNone then afterTransfer (loseForTask 4 (locDev tr.src) tr.queue tr.seq (breakTransfer id tr s))
          else match sourceBytes s id tr with
            | none => s
            | some bs =>
              match endKind s tr.dst with
              | .peer => if tr.sentOut then s else pushOut id s
              | .flash => if tr.sentOut then storeBytes id tr bs s else pushOut id s
              | _ => storeBytes id tr bs s

/-! ### Semaphore tasks (R315) -/

/-- Reserved fields and COUNT of a semaphore task (R315). -/
def seReserved (t : Task) : Bool := !partZero t [(12, 4), (47, 465)] || decide (partBits t 16 31 = 0)

/-- Every write of every earlier task of the queue is visible (R315, R373). -/
def earlierDone (s : State) (q n : Nat) : Bool :=
  (earlierTasks s q n).all fun t => t.state.final && taskQuiet s q t.seq

/-- An ACTIVE SEM_SIGNAL signals once its time has come (R314, R315). -/
def semSignalStep (q n : Nat) (s : State) : State :=
  match task? s q n with
  | none => s
  | some t =>
    if t.ttype ≠ .semSignal ∨ t.state ≠ .active ∨ t.effected ∨ !earlierDone s q n then s
    else match signalSem t.ctx (partBits t 0 12) (partBits t 16 31) s with
      | some s => updTask q n (fun t => { t with effected := true }) s
      | none => failTask q n .semOverflow {} s

/-- A SEM_SIGNAL whose turn has come is admitted. -/
def semSignalAdmit (q n : Nat) (s : State) : State :=
  match admissible s q n with
  | some t =>
    if t.ttype ≠ .semSignal then s else if seReserved t then failTask q n .badReserved {} s else startTask q n s
  | none => s

/-- SEM_SIGNAL (R315): the task is admitted, and signals when every earlier task's writes are visible. -/
def execSemSignal (q n : Nat) : State → Host.Outcome State Fault Refusal :=
  live fun s => if !tasksRun s then s else semSignalStep q n (semSignalAdmit q n s)

/-- SEM_WAIT (R315): admission, and the wait begins. -/
def execSemWait (q n : Nat) : State → Host.Outcome State Fault Refusal :=
  admission .semWait q n fun t s =>
    if seReserved t then failTask q n .badReserved {} s
    else joinSem t.ctx { sem := partBits t 0 12, count := partBits t 16 31, who := .task q n } (startTask q n s)

/-- SEM_WAIT_SERVED (R314): the first waiter of the semaphore is served where the value suffices. -/
def execSemWaitServed (ctx sem : Nat) : State → Host.Outcome State Fault Refusal :=
  live fun s =>
    match (ctxD s ctx).waiters.find? fun w => decide (w.sem = sem) with
    | none => s
    | some w =>
      let v := semVal s ctx sem
      if v < w.count then s
      else
        let s := setSem ctx sem (v - w.count) s
        let s := updCtx ctx (fun c => { c with waiters := dropFirst (fun x => decide (x = w)) c.waiters }) s
        match w.who with
        | .task q n => updTask q n (fun t => { t with effected := true }) s
        | .entry q n _ => updStream q n (fun x => { x with entryServed := true }) s

end Sys2Proof.Machine
end

