-- ==== Sys2Proof/Machine/Ranges.lean ====
section
/-! DEFINITION. RANGE_MAP and PAGE_RESOLVE (R329 to R332, R343 to R347, R350), and window traffic (R348, R349). -/

namespace Sys2Proof.Machine

/-! ### Arguments -/

/-- RANGE_MAP's arguments with the row's operation. -/
def rmArgs (op : Nat) (m : MbxCall) : BitVec 2048 := setField m.args 0 4 op

/-- DEV_BASE. -/
def rmBase (a : BitVec 2048) : Nat := bits a 64 56
/-- LENGTH. -/
def rmLen (a : BitVec 2048) : Nat := bits a 128 48
/-- CTX_ID. -/
def rmCtx (a : BitVec 2048) : Nat := bits a 8 8
/-- Some right is set. -/
def rmRights (a : BitVec 2048) : Bool := decide (bits a 16 3 ≠ 0)

/-- Reserved fields of R329, and the area above the block. -/
def rmReserved : List (Nat × Nat) := [(7, 1), (23, 1), (60, 4), (120, 8), (176, 16), (272, 1776)]

/-- Fields that the kind does not use (R329, R356). -/
def kindUnused : RangeKind → List (Nat × Nat)
  | .host => [(44, 16), (256, 16)]
  | .peer => [(19, 4), (24, 20), (240, 16), (256, 16)]
  | _ => [(19, 4), (24, 36), (192, 64), (256, 16)]

/-- MAP breaks a field's rule (R329). -/
def mapReserved (a : BitVec 2048) (k : RangeKind) : Bool :=
  !zeroFields a (rmReserved ++ kindUnused k) || decide (rmLen a = 0) ||
    (decide (k = .host) && ((bit a 20 && (!bit a 19 || rmRights a)) || (bit a 21 && bit a 19) || (!bit a 22 && decide (bits a 24 20 ≠ 0))))

/-- Every byte of an area is memory of some stack port (R321, R327). -/
def stackSpan (s : State) (a n : Nat) : Bool :=
  decide (a + n ≤ 2 ^ 39) && (List.range 8).all fun p =>
    let lo := max a (p * 2 ^ 36)
    let hi := min (a + n) ((p + 1) * 2 ^ 36)
    decide (hi ≤ lo) || inStack s lo (hi - lo)

/-- Every byte of an area is memory of some expander port (R327). -/
def expanderSpan (s : State) (a n : Nat) : Bool :=
  decide (2 ^ 40 ≤ a) && decide (a + n ≤ 5 * 2 ^ 40) && (List.range 4).all fun e =>
    let lo := max a ((e + 1) * 2 ^ 40)
    let hi := min (a + n) ((e + 2) * 2 ^ 40)
    decide (hi ≤ lo) || inExpander s lo (hi - lo)

/-- The area lies in the region of its kind, without a hole (R331). -/
def inRegion (s : State) (k : RangeKind) (a n : Nat) : Bool :=
  match k with
  | .stack => stackSpan s a n
  | .expander => expanderSpan s a n
  | .host => decide (0x0010000000000000 ≤ a) && decide (a + n ≤ 0x0020000000000000)
  | .peer => decide (0x0020000000000000 ≤ a) && decide (a + n ≤ 0x0030000000000000)
  | .flash => decide (0x0030000000000000 ≤ a) && decide (a + n ≤ 0x0040000000000000)

/-- The range of a context that starts at DEV_BASE and is not UNMAPPING (R331). -/
def namedRange (s : State) (ctx base : Nat) : Option Range :=
  match Tab.get? s.ranges base with
  | some g => if g.ctx = ctx ∧ !g.unmapping then some g else none
  | none => none

/-- The area reaches the slice of a retired channel, or of one that is being retired (R455). -/
def reachesSlice (s : State) (a n : Nat) : Bool :=
  (List.range 8).any fun p =>
    let x := stackPort s p
    (x.retiredChannel.isSome || s.faults.retiring.any fun e => decide (e / 32 = p)) &&
      meets a n (sliceOf s p).1 (sliceOf s p).2

/-! ### MAP, UNMAP, PROTECT -/

/-- The new range takes its memory from the pool or the T4 capacity; a STACK or EXPANDER range waits for rows to leave (R212, R330). -/
def mapRange (base : Nat) (g : Range) (s : State) : MbxRes :=
  let put (g : Range) (s : State) : State := { s with ranges := Tab.put s.ranges base g }
  match g.kind with
  | .stack => if reachesSlice s base g.len then .refuse .noCapacity else beginPending (.map base g) s
  | .expander => beginPending (.map base g) s
  | .flash =>
    if !(t4Of s).attached || !poolRoom s 4 g.len then .refuse .noCapacity
    else match fitTier s 4 g.len 4096 with
      | some p => .reply (clearFences base g.len { (put { g with hostStart := p } s) with mem := cellClear s.mem base g.len }) .ok 0
      | none => .refuse .noCapacity
  | _ => .reply (put g s) .ok 0

/-- Ranges that exist, and those that RANGE_MAP commands are making. -/
def rangesHeld (s : State) : List (Nat × Nat) :=
  (s.ranges.map fun e => (e.1, e.2.len)) ++ s.work.tbl.pending.filterMap fun x => match x.kind with
    | .map base g => some (base, g.len)
    | _ => none

/-- RANGE_MAP with MAP (R330, R331). `remoteOk` tells whether the device at CHAIN_ADDR holds an open window that admits and covers a
PEER range. -/
def execRangeMap (m : MbxCall) (remoteOk : Bool) : State → Host.Outcome State Fault Refusal :=
  let a := rmArgs 1 m
  mbxRow (mailbox 0x30 true false false a (fun s =>
    match RangeKind.ofCode (bits a 4 3) with
    | none => .refuse .badReserved
    | some k =>
      let base := rmBase a
      let n := rmLen a
      if mapReserved a k then .refuse .badReserved
      else if !ctxOk s m (rmCtx a) then .refuse .badContext
      else if base % 4096 ≠ 0 ∨ n % 4096 ≠ 0 ∨ (k = .host ∧ bits a 192 64 % 4096 ≠ 0) then .refuse .badAlign
      else if !inRegion s k base n then .refuse .badRegion
      else if bit a 22 && !s.ats.pasidEnabled then .refuse .badPasid
      else if k = .peer ∧ (!s.work.chain.valid ∨ bits a 44 4 = s.work.chain.addr ∨ s.work.chain.size ≤ bits a 44 4) then
        .refuse .notChained
      else if (rangesHeld s).any fun e => meets e.1 e.2 base n then .refuse .rangeOverlap
      else if 65536 ≤ (rangesHeld s).length then .refuse .rangeLimit
      else if k = .peer ∧ !remoteOk then .refuse .windowRefused
      else
        let g : Range :=
          { kind := k, ctx := rmCtx a, r := bit a 16, w := bit a 17, a := bit a 18, pinned := bit a 19, tierPool := bit a 20
            migratable := bit a 21, pasidValid := bit a 22, pasid := bits a 24 20, chainAddr := bits a 44 4, windowId := bits a 48 12
            len := n, hostStart := bits a 192 64 }
        mapRange base g s) m)

/-- Fields that UNMAP and PROTECT do not use. -/
def unmapUnused : List (Nat × Nat) := [(4, 3), (19, 45), (128, 144)]

/-- RANGE_MAP with UNMAP (R332): the range is UNMAPPING until no task refers to it. -/
def execRangeUnmap (m : MbxCall) : State → Host.Outcome State Fault Refusal :=
  let a := rmArgs 2 m
  mbxRow (mailbox 0x30 true false false a (fun s =>
    if !zeroFields a (rmReserved ++ unmapUnused ++ [(16, 3)]) then .refuse .badReserved
    else if !ctxOk s m (rmCtx a) then .refuse .badContext
    else if rmBase a % 4096 ≠ 0 then .refuse .badAlign
    else match namedRange s (rmCtx a) (rmBase a) with
      | none => .refuse .noRange
      | some g => .waits { s with ranges := Tab.put s.ranges (rmBase a) { g with unmapping := true } } (.unmap (rmBase a))) m)

/-- The reference count of a range (R332): QUEUED and ACTIVE tasks that resolved an address in it. -/
def rangeRefs (s : State) (base : Nat) : Nat :=
  (s.tasks.filter fun e => !e.2.state.final && e.2.ranges.contains base).length

/-- UNMAP_DRAIN_DONE (R332): with no reference and no transfer left, pages go back to the host, rows of the pool begin to move out, and the
range is removed when they have. -/
def execUnmapDrainDone (base : Nat) : State → Host.Outcome State Fault Refusal :=
  live fun s =>
    match Tab.get? s.ranges base with
    | none => s
    | some g =>
      if !g.unmapping || decide (rangeRefs s base ≠ 0) || !areaQuiet s base g.len then s
      else if !g.devicePages.isEmpty && !hostUp s then
        jobEnd (.unmap base) .hostLost 0 { s with ranges := Tab.put s.ranges base { g with unmapping := false } }
      else
        let s := migrateBack base 0 (g.len / 4096) s
        if g.tierPool then
          let x : Pending := { job := .unmap base, kind := .unpool base }
          if s.work.tbl.pending.contains x then s
          else pendingStep (updTables (fun w => { w with pending := w.pending ++ [x] }) s) x
        else jobEnd (.unmap base) .ok 0 (removeRange base g s)

/-- RANGE_MAP with PROTECT (R330). -/
def execRangeProtect (m : MbxCall) : State → Host.Outcome State Fault Refusal :=
  let a := rmArgs 3 m
  mbxRow (mailbox 0x30 true false false a (fun s =>
    let named := namedRange s (rmCtx a) (rmBase a)
    if !zeroFields a (rmReserved ++ unmapUnused) || (rmRights a && named.any fun g => g.tierPool) then .refuse .badReserved
    else if !ctxOk s m (rmCtx a) then .refuse .badContext
    else if rmBase a % 4096 ≠ 0 then .refuse .badAlign
    else match named with
      | none => .refuse .noRange
      | some g =>
        .reply { s with ranges := Tab.put s.ranges (rmBase a) { g with r := bit a 16, w := bit a 17, a := bit a 18 } } .ok 0) m)

/-! ### Windows -/

/-- RANGE_MAP with WINDOW_OPEN (R331, R347). -/
def execWindowOpen (m : MbxCall) : State → Host.Outcome State Fault Refusal :=
  let a := rmArgs 4 m
  mbxRow (mailbox 0x30 true false false a (fun s =>
    let base := rmBase a
    let n := rmLen a
    let id := bits a 48 12
    if !zeroFields a (rmReserved ++ [(4, 3), (19, 29), (192, 64)]) || decide (n = 0) then .refuse .badReserved
    else if !ctxOk s m (rmCtx a) then .refuse .badContext
    else if base % 4096 ≠ 0 ∨ n % 4096 ≠ 0 then .refuse .badAlign
    else if !s.work.chain.valid then .refuse .notChained
    else if 4096 ≤ s.windows.length then .refuse .rangeLimit
    else match ctxRange s (rmCtx a) base n with
      | none => .refuse .noRange
      | some (_, g) =>
        if (g.kind ≠ .stack ∧ g.kind ≠ .expander) ∨ (bit a 16 && !g.r) ∨ (bit a 17 && !g.w) ∨ (bit a 18 && !g.a) then .refuse .noRange
        else if Tab.has s.windows id then .refuse .windowExists
        else
          let w : Window := { ctx := rmCtx a, base := base, len := n, r := bit a 16, w := bit a 17, a := bit a 18, mask := bits a 256 16 }
          .reply { s with windows := Tab.put s.windows id w } .ok 0) m)

/-- RANGE_MAP with WINDOW_CLOSE (R350): requests are served as they arrive, so none is left when the window closes. -/
def execWindowClose (m : MbxCall) : State → Host.Outcome State Fault Refusal :=
  let a := rmArgs 5 m
  mbxRow (mailbox 0x30 true false false a (fun s =>
    let id := bits a 48 12
    if !zeroFields a (rmReserved ++ [(4, 3), (16, 32), (64, 56), (128, 48), (192, 80)]) then .refuse .badReserved
    else if !ctxOk s m (rmCtx a) then .refuse .badContext
    else if !s.work.chain.valid then .refuse .notChained
    else match Tab.get? s.windows id with
      | none => .refuse .noWindow
      | some w => if w.ctx ≠ rmCtx a then .refuse .noWindow else .reply { s with windows := Tab.del s.windows id } .ok 0) m)

/-- The right of a window request: READ_REQ reads, WRITE writes, MEMOP needs A (R333). -/
def windowRight (op : Nat) : Right := if op = 1 then .r else if op = 3 then .w else .a

/-- The window grants the right. -/
def Window.grants (w : Window) : Right → Bool
  | .r => w.r
  | .w => w.w
  | .a => w.a

/-- The STATUS of a request, checked in order, and the local address (R349). The check at memory that follows answers BOUNDS where no
range of the context covers the area, and RIGHTS where the range withholds the right. -/
def windowCheck (s : State) (p : PeerPkt) (h op : Nat) : Nat × Nat :=
  let len := bitsOf h 80 16 + 1
  let right := windowRight op
  match Tab.get? s.windows (bitsOf h 16 12) with
  | none => (1, 0)
  | some w =>
    let a := w.base + bitsOf h 32 48
    if w.ctx ≠ pktCtx p then (1, a)
    else if !w.mask.testBit (pktSrc p) then (2, a)
    else if !w.grants right then (3, a)
    else if w.len < bitsOf h 32 48 + len then (4, a)
    else if op = 4 ∧ 2 ^ 39 < a + len then (5, a)
    else match accessFault s w.ctx right a len with
      | some (4, _) => (3, a)
      | some _ => (4, a)
      | none => if (op ≠ 3 && (areaFenced s a len).isSome) then (6, a) else (0, a)

/-- A window request is answered (R348, R349). -/
def windowAnswer (p : PeerPkt) (h op status : Nat) (data : List Byte) (s : State) : State :=
  peerSend 9 (pktSrc p) windowJob (pktCtx p) 0 true (windowHead op 0 status (bitsOf h 16 12) (bitsOf h 32 48) (bitsOf h 80 16 + 1) ++ data) s

/-- Reserved fields of a sub-header, and fields that its operation leaves zero (R266, R348; log entry 79). -/
def windowBad (h : Nat) : Bool :=
  let op := bitsOf h 0 4
  decide (bitsOf h 12 4 ≠ 0) || decide (bitsOf h 28 4 ≠ 0) || decide (bitsOf h 96 32 ≠ 0) ||
    (decide (op ≠ 4) && decide (bitsOf h 4 4 ≠ 0)) || (decide (op ≠ 2) && decide (op ≠ 5) && decide (bitsOf h 8 4 ≠ 0))

/-- A received WINDOW packet with the operation. -/
def onWindow (op : Nat) (p : PeerPkt) (f : Nat → List Byte → State → State) (s : State) : State :=
  if bitsOf (ctlHead p.payload) 0 4 = op ∧ !windowBad (ctlHead p.payload) then
    onPacket 9 p (fun bs s => f (ctlHead bs) (bs.drop 16) s) s
  else s

/-- A request that fails its checks is answered and counted (R349). -/
def windowServe (p : PeerPkt) (h op : Nat) (serve : Nat → State → State) (s : State) : State :=
  let c := windowCheck s p h op
  if c.1 = 0 then serve c.2 s
  else
    let s := if c.1 = 6 then s else count .windowRefusals 1 s
    windowAnswer p h (if op = 1 then 2 else 5) c.1 [] s

/-- A request that is served counts at its stack port, in parts of up to 512 B (R303, R326, R349). -/
def countServed (c : StackCtr) (a n : Nat) (s : State) : State :=
  (cutArea a n).foldl (fun s x =>
    let s := stackCount (x.1 / 2 ^ 36) c x.2 s
    if x.2 < 256 then stackCount (x.1 / 2 ^ 36) .breeze 1 s else s) s

/-- READ_REQ (R349). -/
def execReadReq (p : PeerPkt) : State → Host.Outcome State Fault Refusal :=
  live fun s => onWindow 1 p (fun h _ s =>
    let len := bitsOf h 80 16 + 1
    windowServe p h 1 (fun a s => windowAnswer p h 2 0 (devRead s a len) (countServed .readBytes a len s)) s) s

/-- WRITE through a window (R349). -/
def execWindowWrite (p : PeerPkt) : State → Host.Outcome State Fault Refusal :=
  live fun s => onWindow 3 p (fun h bs s =>
    let len := bitsOf h 80 16 + 1
    windowServe p h 3 (fun a s => windowAnswer p h 5 0 [] (countServed .writeBytes a len (clearFences a len (devWrite a (sliceBytes bs 0 len) s)))) s) s

/-- A memory-side operation through a window (R323, R349). -/
def execWindowMemop (p : PeerPkt) : State → Host.Outcome State Fault Refusal :=
  live fun s => onWindow 4 p (fun h bs s =>
    let len := bitsOf h 80 16 + 1
    windowServe p h 4 (fun a s =>
      let r := memop (bitsOf h 4 4) (devRead s a len) (sliceBytes bs 0 len)
      windowAnswer p h 5 0 [] (stackCount (a / 2 ^ 36) .memopElems r.elems (countServed .writeBytes a len (devWrite a r.bytes s)))) s) s

/-- The oldest request to a device that awaits its answer: window traffic is served in the order sent (R349). -/
def oldestWindow (s : State) (dev : Nat) : Option (Nat × WindowReq) := s.work.chain.windowReqs.find? fun e => decide (e.2.dst = dev)

/-- A STATUS other than OK: DATA_LOST ends the task with it, and any other is an unrecoverable fault (R349). -/
def windowRefused (id dev status : Nat) (write : Bool) (s : State) : State :=
  match transfer? s id with
  | none => s
  | some tr =>
    let a := if write then tr.dst else tr.src
    let acc := if write then (if tr.op = 0 then 2 else 4) else 1
    let s := breakTransfer id tr s
    afterTransfer (if status = 6 then loseForTask 1 (locPeer ((routePort s dev).getD 0) dev) tr.queue tr.seq s
      else transferFault tr 7 acc a dev s)

/-- The answered request is no longer outstanding. -/
def takeWindow (tag : Nat) (s : State) : State := updChain (fun c => { c with windowReqs := Tab.del c.windowReqs tag }) s

/-- REASON of MEM_ERROR for a window's refusal (R349, R408). -/
def cxlReason (status : Nat) : Nat := if status = 6 then 4 else if status = 3 then 2 else 1

/-- MEM_ERROR for a CXL.mem request (R408, R411). -/
def memError (m tag reason : Nat) (s : State) : State := sendControl m (controlMsg 8 0 [(16, 16, reason), (64, 16, tag)]) s

/-- The answer to a CXL.mem request that went through a window: its data or completion, or MEM_ERROR. -/
def cxlAnswer (m tag status : Nat) (data : Option (List Byte)) (s : State) : State :=
  if status ≠ 0 then memError m tag (cxlReason status) s
  else match data with
    | some bs => send (.cxlData m tag bs) s
    | none => send (.cxlDone m tag) s

/-- READ_DATA (R349): the bytes go on to the transfer's destination, or to the stream that waits for them. -/
def execReadData (p : PeerPkt) : State → Host.Outcome State Fault Refusal :=
  live fun s => onWindow 2 p (fun h bs s =>
    match oldestWindow s (pktSrc p) with
    | none => s
    | some (tag, w) =>
      let s := takeWindow tag s
      if let some (m, t) := w.cxl then cxlAnswer m t (bitsOf h 8 4) (some (sliceBytes bs 0 (bitsOf h 80 16 + 1))) s
      else match transfer? s w.transfer with
      | none => s
      | some tr =>
        let data := sliceBytes bs 0 tr.len
        if bitsOf h 8 4 ≠ 0 then windowRefused w.transfer (pktSrc p) (bitsOf h 8 4) false s
        else if tr.gate.isSome then
          gateDone w.transfer tr false (devWrite tr.src data s)
        else
          let s := updTransfer w.transfer (fun t => { t with data := some data }) s
          match endKind s tr.dst with
          | .peer => pushOut w.transfer s
          | .flash => pushOut w.transfer s
          | _ => storeBytes w.transfer tr data s) s

/-- WRITE_ACK (R349): the write or operation through the window is complete. -/
def execWriteAck (p : PeerPkt) : State → Host.Outcome State Fault Refusal :=
  live fun s => onWindow 5 p (fun h _ s =>
    match oldestWindow s (pktSrc p) with
    | none => s
    | some (tag, w) =>
      let s := takeWindow tag s
      if let some (m, t) := w.cxl then cxlAnswer m t (bitsOf h 8 4) none s
      else match transfer? s w.transfer with
      | none => s
      | some tr =>
        if bitsOf h 8 4 ≠ 0 then windowRefused w.transfer (pktSrc p) (bitsOf h 8 4) true s
        else if tr.gate.isSome then bagsLanded (dropTransfer w.transfer s)
        else endTransfer w.transfer tr {} s) s

/-! ### PAGE_RESOLVE (R344 to R346) -/

/-- PAGE_RESOLVE's arguments with the row's operation. -/
def prArgs (op : Nat) (m : MbxCall) : BitVec 2048 := setField m.args 0 4 op

/-- Reserved fields of R344 and above. -/
def prReserved : List (Nat × Nat) := [(4, 12), (40, 24), (120, 8), (176, 1872)]

/-- The MIGRATE_REQUEST entry of FAULT_TAG. -/
def migrateEntry (s : State) (tag : Nat) : Option OutFault :=
  match Tab.get? s.ats.outFaults tag with
  | some e => if e.migrate then some e else none
  | none => none

/-- PAGE_RESOLVE with MIGRATE_IN (R345). -/
def execMigrateIn (m : MbxCall) : State → Host.Outcome State Fault Refusal :=
  let a := prArgs 1 m
  mbxRow (mailbox 0x31 true false false a (fun s =>
    let tag := bits a 16 16
    if !zeroFields a (prReserved ++ [(32, 8), (64, 56), (128, 48)]) then .refuse .badReserved
    else match migrateEntry s tag with
      | none => .refuse .noFault
      | some e =>
        match freePage s, Tab.get? s.ranges e.space with
        | some p, some g =>
          if !hostUp s then .reply s .hostLost 0
          else
            let bs := cellRead 0 s.hostMem (hostKey g.pasidValid g.pasid (g.hostStart + 4096 * e.hostPage)) 4096
            let s := { s with
              mem := cellWrite 0 s.mem p bs
              ranges := Tab.put s.ranges e.space { g with devicePages := Tab.put g.devicePages e.hostPage p } }
            .reply (releaseWaiters tag e.waiters s) .ok 0
        | _, _ => .refuse .noCapacity) m)

/-- PAGE_RESOLVE with FAIL (R345). -/
def execPageResolveFail (m : MbxCall) : State → Host.Outcome State Fault Refusal :=
  let a := prArgs 2 m
  mbxRow (mailbox 0x31 true false false a (fun s =>
    let tag := bits a 16 16
    if !zeroFields a (prReserved ++ [(32, 8), (64, 56), (128, 48)]) then .refuse .badReserved
    else match migrateEntry s tag with
      | none => .refuse .noFault
      | some _ => .reply (abortEntry tag s) .ok 0) m)

/-- PAGE_RESOLVE with MIGRATE_OUT (R346): it ends once no transfer to the pages is in flight. -/
def execMigrateOut (m : MbxCall) : State → Host.Outcome State Fault Refusal :=
  let a := prArgs 3 m
  mbxRow (mailbox 0x31 true false false a (fun s =>
    let addr := bits a 64 56
    let n := bits a 128 48
    if !zeroFields a (prReserved ++ [(16, 16)]) || decide (addr % 4096 ≠ 0) || decide (n % 4096 ≠ 0) || decide (n = 0) then
      .refuse .badReserved
    else if !ctxOk s m (bits a 32 8) then .refuse .badContext
    else match ctxRange s (bits a 32 8) addr n with
      | none => .refuse .noRange
      | some (base, g) =>
        if !g.migratable then .refuse .noRange
        else if !areaQuiet s addr n then .waits s (.migrateOut addr n)
        else if !hostUp s then .reply s .hostLost 0
        else .reply (migrateBack base ((addr - base) / 4096) ((addr + n - base) / 4096) s) .ok 0) m)

end Sys2Proof.Machine
end

