-- ==== Sys2Proof/Machine/Pitter.lean ====
section
/-! DEFINITION. The tasks that Pitter serves without a table: SORT (R125, R126), SHUFFLE (R127 to R129) and GATHER_SAMPLES (R130 to
R133). -/

namespace Sys2Proof.Machine

/-- Words of an array of `w` bytes each. -/
def arrayOf (s : State) (a w n : Nat) : List Nat := (List.range n).map fun i => devNat s (a + w * i) w

/-- An array of words as bytes. -/
def arrayBytes (w : Nat) (xs : List Nat) : List Byte := xs.flatMap (toBytes w)

/-! ### SORT -/

/-- The descriptor breaks R125. -/
def soReserved (t : Task) : Bool :=
  let p := partBits t
  !partZero t [(56, 8), (99, 29), (184, 8), (248, 8), (312, 8), (376, 8), (448, 64)] || decide (p 64 32 = 0) ||
    (decide (p 98 1 = 1) && decide (p 96 1 = 0))

/-- What a SORT writes: keys, positions and counts (R126). -/
def sortOutput (dedup : Bool) (ks : List Nat) : List (Nat × Nat × Nat) :=
  let sorted := sortKeys ks
  if dedup then dedupKeys sorted else sorted.map fun e => (e.1, e.2, 1)

/-- A SORT, SHUFFLE or GATHER_SAMPLES whose turn has come is admitted, unless its descriptor breaks its rule. -/
def pitterAdmit (type : TaskType) (q n : Nat) (bad : Task → Bool) (s : State) : State :=
  match admissible s q n with
  | some t => if t.ttype ≠ type then s else if bad t then failTask q n .badReserved {} s else startTask q n s
  | none => s

/-- An ACTIVE SORT or SHUFFLE that has not written its outputs does its work. -/
def pitterRun (type : TaskType) (q n : Nat) (f : Task → State → State) (s : State) : State :=
  match task? s q n with
  | some t => if t.ttype = type ∧ t.state = .active ∧ !Tab.has s.work.idx.sorts (tid q n) then f t s else s
  | none => s

/-- The rows of these tasks: admission, and then the work, which goes on from the same row while an area is awaited. -/
def pitterTask (type : TaskType) (q n : Nat) (mine bad : Task → Bool) (f : Task → State → State) :
    State → Host.Outcome State Fault Refusal :=
  live fun s =>
    match task? s q n with
    | some t => if !tasksRun s ∨ !mine t then s else pitterRun type q n f (pitterAdmit type q n bad s)
    | none => s

/-- The areas that a SORT reads and writes. -/
def sortAreas (t : Task) (out : Nat) : List (Right × Nat × Nat) :=
  let p := partBits t
  [(.r, p 0 56, 8 * p 64 32), (.w, p 128 56, 8 * out)] ++ (if p 97 1 = 1 then [(.w, p 192 56, 4 * out)] else []) ++
    (if p 98 1 = 1 then [(.w, p 256 56, 4 * out)] else [])

/-- SORT: the keys are sorted, and the outputs written (R125, R126, R117). -/
def execSort (q n : Nat) : State → Host.Outcome State Fault Refusal :=
  pitterTask .sort q n (fun _ => true) soReserved fun t s =>
    let p := partBits t
    let count' := p 64 32
    if 2 ^ 25 < count' ∧ p 384 64 < 32 * count' then failTask q n .scratchShort (detSize (32 * count')) s
    else match memGate q n .r (p 0 56) (8 * count') s, areaFenced s (p 0 56) (8 * count') with
      | some s, _ => s
      | none, some loc => meetLost loc q n s
      | none, none =>
        let out := sortOutput (decide (p 96 1 = 1)) (arrayOf s (p 0 56) 8 count')
        match memGates q n (sortAreas t out.length) s with
        | some s => s
        | none =>
          let s := if 2 ^ 25 < count' then useScratch q n (p 320 56) (32 * count') s else s
          let s := storeOut q n (p 128 56) (arrayBytes 8 (out.map Prod.fst)) s
          let s := if p 97 1 = 1 then storeOut q n (p 192 56) (arrayBytes 4 (out.map fun e => e.2.1)) s else s
          let s := if p 98 1 = 1 then storeOut q n (p 256 56) (arrayBytes 4 (out.map fun e => e.2.2)) s else s
          updIdx (fun x => { x with sorts := Tab.put x.sorts (tid q n) out.length }) s

/-! ### SHUFFLE -/

/-- Reserved fields and the window of a SHUFFLE or GATHER_SAMPLES descriptor (R128). -/
def shReserved (t : Task) : Bool :=
  let p := partBits t
  !partZero t [(50, 14), (224, 32), (304, 16), (368, 16), (504, 8), (568, 456)] || decide (p 320 48 = 0) ||
    decide (p 0 48 + 1 < p 256 48 + p 320 48)

/-- The permutation of a descriptor at a position (R127). -/
def shPi (t : Task) (i : Nat) : Nat :=
  let p := partBits t
  shufflePi (p 0 48 + 1) (p 64 64) (p 128 64) (p 192 32) i

/-- The positions of a descriptor's window. -/
def shWindow (t : Task) : List Nat := (List.range (partBits t 320 48)).map fun i => partBits t 256 48 + i

/-- The outputs of a SHUFFLE are written (R128). -/
def shuffleWrite (t : Task) (out : List Nat) (s : State) : State :=
  match memGate t.queue t.seq .w (partBits t 512 56) (8 * out.length) s with
  | some s => s
  | none =>
    let s := storeOut t.queue t.seq (partBits t 512 56) (arrayBytes 8 out) s
    updIdx (fun x => { x with sorts := Tab.put x.sorts (tid t.queue t.seq) out.length }) s

/-- SHUFFLE in GENERATE mode, and a descriptor whose mode is reserved (R128). -/
def execShuffleGenerate (q n : Nat) : State → Host.Outcome State Fault Refusal :=
  pitterTask .shuffle q n (fun t => decide (partBits t 48 2 ≠ 1)) (fun t => shReserved t || decide (partBits t 48 2 ≠ 0)) fun t s =>
    shuffleWrite t ((shWindow t).map fun i => (partBits t 384 64 + shPi t i) % 2 ^ 64) s

/-- SHUFFLE in PERMUTE mode (R128). -/
def execShufflePermute (q n : Nat) : State → Host.Outcome State Fault Refusal :=
  pitterTask .shuffle q n (fun t => decide (partBits t 48 2 = 1)) shReserved fun t s =>
    let addr (i : Nat) : Nat := partBits t 448 56 + 8 * shPi t i
    match memGates q n ((shWindow t).map fun i => (Right.r, addr i, 8)) s with
    | some s => s
    | none =>
      match (shWindow t).findSome? fun i => areaFenced s (addr i) 8 with
      | some loc => meetLost loc q n s
      | none => shuffleWrite t ((shWindow t).map fun i => devNat s (addr i) 8) s

/-! ### GATHER_SAMPLES -/

/-- The descriptor breaks R131. -/
def gaReserved (t : Task) : Bool :=
  let p := partBits t
  shReserved t || decide (p 48 2 ≠ 0) || !partZero t [(1082, 6), (1093, 59), (1208, 8), (1272, 8), (1312, 736)] ||
    decide (p 1280 32 < 1048576) || decide (p 1280 32 % 16 ≠ 0)

/-- The work of a GATHER_SAMPLES as it is admitted. -/
def gaWork (t : Task) : GatherWork :=
  let p := partBits t
  { n := p 0 48 + 1, keyLo := p 64 64, keyHi := p 128 64, epoch := p 192 32, first := p 256 48, count := p 320 48
    indexAddr := p 1024 56, fromMemory := decide (p 1080 1 = 1), permAddr := p 1152 56, toMemory := decide (p 1081 1 = 1)
    outAddr := p 512 56, stream := p 1088 5, stageAddr := p 1216 56, stageBytes := p 1280 32 }

/-- GATHER_SAMPLES: admission (R131). -/
def execGatherSamples (q n : Nat) : State → Host.Outcome State Fault Refusal :=
  admission .gatherSamples q n fun t s =>
    if gaReserved t then failTask q n .badReserved {} s
    else updIdx (fun x => { x with gathers := Tab.put x.gathers (tid q n) (gaWork t) }) (startTask q n s)

/-- The gather work of a task. -/
def gather? (s : State) (q n : Nat) : Option GatherWork := Tab.get? s.work.idx.gathers (tid q n)

/-- One sample of a window: its position, number, device address and length (R130, R132). -/
structure Sample where
  position : Nat
  number : Nat
  addr : Nat
  len : Nat
  deriving DecidableEq, Repr

/-- The sample number of the task's `k`-th position (R127, R131). -/
def sampleNumber (s : State) (g : GatherWork) (k : Nat) : Nat :=
  if g.fromMemory then devNat s (g.permAddr + 8 * k) 8 else shufflePi g.n g.keyLo g.keyHi g.epoch (g.first + k)

/-- The `k`-th sample. -/
def sampleAt (s : State) (g : GatherWork) (k : Nat) : Sample :=
  let x := sampleNumber s g k
  let e := devNat s (g.indexAddr + 16 * x) 16
  { position := g.first + k, number := x, addr := bitsOf e 0 56, len := bitsOf e 64 24 }

/-- The delivered size of a sample (R132). -/
def Sample.size (x : Sample) : Nat := 16 + roundup16 x.len

/-- The longest run of positions from `k` on whose delivered sizes fit in `room`, at most `fuel` of them (R132). -/
def windowFrom (s : State) (g : GatherWork) (room : Nat) : Nat → Nat → List Sample
  | 0, _ => []
  | fuel + 1, k =>
    if g.count ≤ k then []
    else
      let x := sampleAt s g k
      if room < x.size then [] else x :: windowFrom s g (room - x.size) fuel (k + 1)

/-- A delivered sample: header and bytes (R132). -/
def sampleBytes (s : State) (x : Sample) : List Byte :=
  toBytes 16 (packFields [(0, 48, x.position), (48, 48, x.number), (96, 24, x.len)]) ++ pad16 (devRead s x.addr x.len)

/-- The reads that find a window: the permutation entry and index entry of each position until the window is full. The first that must
wait, fails, or meets a fenced word gives its state (R133, R319). -/
def windowEntries (t : Task) (g : GatherWork) (room : Nat) : Nat → Nat → State → Option State
  | 0, _, _ => none
  | fuel + 1, k, s =>
    if g.count ≤ k then none
    else
      let read (a n : Nat) (next : Option State) : Option State :=
        match memGate t.queue t.seq .r a n s, areaFenced s a n with
        | some s, _ => some s
        | none, some loc => some (meetLost loc t.queue t.seq s)
        | none, none => next
      let entry : Option State := read (g.indexAddr + 16 * sampleNumber s g k) 16
        (let x := sampleAt s g k
         if room < x.size then none else windowEntries t g (room - x.size) fuel (k + 1) s)
      if g.fromMemory then read (g.permAddr + 8 * k) 8 entry else entry

/-- The reads of a window's samples, in ascending address (R132), and its writes. -/
def windowReads (t : Task) (g : GatherWork) (xs : List Sample) (s : State) : Option State :=
  let ys := (sortBy Sample.addr xs).filter fun x => decide (x.len ≠ 0)
  match memGates t.queue t.seq (ys.map fun x => (Right.r, x.addr, x.len)) s, ys.findSome? fun x => areaFenced s x.addr x.len with
  | some s, _ => some s
  | none, some loc => some (meetLost loc t.queue t.seq s)
  | none, none =>
    if g.toMemory then memGate t.queue t.seq .w (g.outAddr + g.written) (sumNat (xs.map Sample.size)) s else none

/-- The samples of a window are delivered, in ascending position (R132). -/
def deliverSample (q n : Nat) (s : State) (x : Sample) : State :=
  match gather? s q n with
  | none => s
  | some g =>
    let bs := sampleBytes s x
    let s := updIdx (fun i => { i with gathers := Tab.upd i.gathers (tid q n) fun g =>
      { g with sent := g.sent + 1, written := g.written + bs.length } }) s
    if g.toMemory then storeOut q n (g.outAddr + g.written) bs s
    else deliver (g.stream / 4) { stream := g.stream, bytes := bs, queue := q, seq := n, item := x.position } false s

/-- SAMPLE_WINDOW: the next window is sorted by address, read and delivered (R132, R133). -/
def execSampleWindow (q n : Nat) : State → Host.Outcome State Fault Refusal :=
  live fun s =>
    match gather? s q n, task? s q n with
    | some g, some t =>
      if !isActive s q n || decide (g.count ≤ g.sent) || (unitsHeld s q n).isEmpty then s
      else
        match windowEntries t g g.stageBytes 65536 g.sent s with
        | some s => s
        | none =>
          let xs := windowFrom s g g.stageBytes 65536 g.sent
          if xs.isEmpty then failTask q n .sampleTooLarge {} s
          else match windowReads t g xs s with
            | some s => s
            | none => xs.foldl (deliverSample q n) (useScratch q n g.stageAddr (sumNat (xs.map Sample.size)) s)
    | _, _ => s

end Sys2Proof.Machine
end

