-- ==== Sys2Proof/Machine/TaskEnd.lean ====
section
/-! DEFINITION. The end of tasks: when the work of each type is done, the task-specific completion parts, what a task leaves behind,
and its record (R154, R156, R160, R163, R182, R186, R287, R294 to R296, R302, R372 to R378). -/

namespace Sys2Proof.Machine

/-! ### When the work is done -/

/-- Some bag or sample of the task has been sent and is not acknowledged whole (R413). -/
def deliveryOpen (s : State) (q n : Nat) : Bool :=
  s.links.ucie.any fun u => u.2.deliveries.any fun d => decide (d.queue = q) && decide (d.seq = n)

/-- Nothing of the task is on its way any more: transfers, programs, deliveries and requests of the host agent (R156, R183, R318). -/
def settled (s : State) (q n : Nat) : Bool :=
  taskQuiet s q n && !deliveryOpen s q n && !((t4Of s).outstanding.any fun e => match e.2.1 with
    | .read reader _ => decide (reader = tid q n)
    | _ => false)

/-- Every row gradient of an update has gone through its program, or to the job. -/
def updateApplied (w : UpdateWork) : Bool := w.ingest.done && decide (w.dir.length ≤ w.finished.length) && w.ready.isEmpty

/-- The job's results have all come, and every combiner has acknowledged RANK_DONE (R287). -/
def jobApplied (s : State) (id : Nat) : Bool :=
  match job? s id with
  | none => true
  | some j => (combiners s j).all fun d => !waitsOn s id j d

/-- A combiner of the contributor's job has been lost (R294). -/
def combinerLost (s : State) (w : UpdateWork) : Bool := (w.job.bind fun id => job? s id).any fun j => !j.lost.isEmpty

/-- The job that a REDUCE has opened, with its number. -/
def jobFor (s : State) (t : Task) : Option (Nat × Job) :=
  s.work.chain.jobs.find? fun e => decide (e.2.queue = t.queue) && decide (e.2.seq = t.seq)

/-- A SCATTER or FLUSH has done its work (R163, R180, R287). -/
def updateDone (s : State) (w : UpdateWork) : Bool :=
  if w.releaseOnly then w.released
  else updateApplied w && (match w.job with
    | some id => w.sent && jobApplied s id
    | none => true)

/-- A contributor, or an array, has reached its end on this device (R296). -/
def contributionOver (s : State) (id : Nat) (j : Job) : Bool :=
  if j.array then j.doneSent && jobApplied s id
  else match j.contributor with
    | some (q, n) => taskOver s q n
    | none => false

/-- A REDUCE has done its work: its contribution and its duties as combiner have ended (R296). -/
def reduceDone (s : State) (id : Nat) (j : Job) : Bool :=
  contributionOver s id j && (!(combiners s j).contains (me s) || j.doneReported)

/-- The status with which a task ends whose work is done; none while work is left. -/
def workStatus (s : State) (t : Task) : Option Status :=
  let k := tid t.queue t.seq
  let ok (b : Bool) : Option Status := if b then some .ok else none
  match t.ttype with
  | .lookup => match look? s t.queue t.seq with
    | some w => ok (w.deduped && decide (w.bags ≤ w.delivered.length))
    | none => none
  | .scatter | .flush => match work? s t.queue t.seq with
    | some w => if updateDone s w then some (if combinerLost s w then .chainUnreachable else .ok) else none
    | none => none
  | .reduce => match jobFor s t with
    | some (id, j) => if reduceDone s id j then some (jobStatus j) else none
    | none => none
  | .sort | .shuffle => ok (Tab.has s.work.idx.sorts k)
  | .gatherSamples => match gather? s t.queue t.seq with
    | some g => ok (decide (g.count ≤ g.sent))
    | none => none
  | .copy => match stream? s t.queue t.seq with
    | some x => ok (x.started && decide (x.entries ≤ x.completeBelow))
    | none => none
  | .publish | .fence | .semSignal | .semWait => ok t.effected

/-! ### Completion parts -/

/-- The first non-finite element of the delivered bags: bag, element and source key (R155). -/
def firstNonfiniteOut (w : LookupWork) : Option (Nat × Nat × Nat) :=
  ((sortBy (fun b => b) w.delivered).findSome? fun b => (Tab.get? w.done b).bind fun o => o.firstNf.map fun e => (b, e)).map
    fun e =>
      let key := match e.2.2 with
        | none => none
        | some slot => (w.dir.find? fun (d : DirEntry) => d.refs.any fun (r : Ref) => decide (r.bag = e.1) && decide (r.slot = slot)).map DirEntry.key
      (e.1, e.2.1, key.getD (2 ^ 64 - 1))

/-- Delivered bags for which a test holds. -/
def deliveredWith (w : LookupWork) (p : BagOut → Bool) : Nat :=
  (w.delivered.filter fun b => match Tab.get? w.done b with
    | some o => p o
    | none => false).length

/-- Delivered bags whose entry in the bag table passes a test. -/
def deliveredInfo (w : LookupWork) (p : BagInfo → Bool) : Nat :=
  (w.delivered.filter fun b => match (w.infos.drop b).head? with
    | some i => p i
    | none => false).length

/-- A count in 32 bits that saturates. -/
def c32 (n : Nat) : Nat := min n (2 ^ 32 - 1)

/-- The completion part of a LOOKUP (R154). -/
def lookupRecord (w : LookupWork) : List Byte :=
  let nf := firstNonfiniteOut w
  let nfs := sumNat (w.delivered.map fun b => ((Tab.get? w.done b).map BagOut.nonfinite).getD 0)
  toBytes 64 (packFields
    [(0, 32, c32 w.delivered.length), (32, 32, c32 w.dir.length), (64, 32, c32 (sumNat (w.dir.map fun (d : DirEntry) => d.refs.length))),
     (96, 32, c32 (sumNat (w.infos.map BagInfo.outOfRange) + sumNat (w.beyond.map Prod.snd))),
     (128, 64, min nfs (2 ^ 64 - 1)),
     (192, 24, (nf.map fun e => e.1).getD 0), (216, 13, (nf.map fun e => e.2.1).getD 0), (229, 1, b2n nf.isSome),
     (256, 64, (nf.map fun e => e.2.2).getD 0),
     (320, 32, c32 (deliveredWith w BagOut.ovf)), (352, 32, c32 (deliveredWith w BagOut.bound)),
     (384, 32, c32 (deliveredWith w BagOut.saturated)), (416, 32, c32 (deliveredInfo w BagInfo.truncated)),
     (448, 32, c32 (deliveredInfo w BagInfo.empty))])

/-- Bags that received no gradient (R165). -/
def bagsWithout (w : UpdateWork) : Nat :=
  if w.fromMemory || w.releaseOnly || w.flush then 0
  else ((List.range w.bags).filter fun b => decide (Tab.getD w.got b 0 ≠ w.elems)).length

/-- The completion part of a SCATTER (R186). -/
def scatterRecord (w : UpdateWork) : List Byte :=
  toBytes 64 (packFields
    [(0, 32, c32 w.committed), (32, 32, c32 w.skipped), (64, 32, c32 w.frozen), (96, 32, c32 w.notBound), (128, 32, c32 w.ovf),
     (160, 32, c32 w.boundExceeded), (192, 32, c32 w.termsSaturated), (224, 32, c32 w.nonfinite),
     (256, 64, (w.firstNf.map Prod.fst).getD 0), (320, 13, (w.firstNf.map Prod.snd).getD 0), (333, 1, b2n w.firstNf.isSome),
     (334, 1, b2n w.released), (335, 1, b2n w.mapWritten), (352, 32, c32 (bagsWithout w)), (384, 32, c32 w.sharded),
     (416, 32, c32 w.previous)])

/-- The completion part of a COPY (R302). -/
def copyRecord (x : Stream) : List Byte :=
  toBytes 64 (packFields
    [(0, 16, x.arming), (32, 25, x.completeBelow), (64, 64, x.bytesWritten), (128, 32, c32 x.memOvf), (160, 32, c32 x.memNonfinite),
     (192, 24, x.badEntry), (216, 4, x.badReason)])

/-- The task-specific part of a task's record as the state gives it; a task that was never admitted has done nothing (R376, R378). -/
def partRecord (s : State) (t : Task) : List Byte :=
  let k := tid t.queue t.seq
  match t.ttype with
  | .lookup => ((look? s t.queue t.seq).map lookupRecord).getD []
  | .scatter => ((work? s t.queue t.seq).map scatterRecord).getD []
  | .flush => ((work? s t.queue t.seq).map fun w => toBytes 64 (min w.local'.length (2 ^ 32 - 1))).getD []
  | .reduce => ((jobFor s t).map fun e => jobRecord e.2).getD []
  | .sort => toBytes 64 (Tab.getD s.work.idx.sorts k 0 % 2 ^ 32)
  | .shuffle => toBytes 64 (Tab.getD s.work.idx.sorts k 0 % 2 ^ 48)
  | .gatherSamples => toBytes 64 (((gather? s t.queue t.seq).map GatherWork.sent).getD 0 % 2 ^ 48)
  | .copy => ((stream? s t.queue t.seq).map copyRecord).getD []
  | .publish => t.record
  | .fence | .semSignal | .semWait => []

/-! ### What a task leaves -/

/-- The commit map of a SCATTER that ended at admission or before it: no row of it is done, with FRESH, and with RESUME the map stays. The area
is written where the descriptor and the map header name it and it lies where R335 asks (R182; log entry 51). -/
def freshCommitMap (q n : Nat) (s : State) : State :=
  match task? s q n with
  | none => s
  | some t =>
    if scReserved t || scReleaseOnly t || decide (partBits t 6 2 ≠ 1) then s
    else match findMap s t.ctx (partBits t 32 32) (partBits t 128 56) with
      | none => s
      | some m =>
        let h := devNat s m.addr 64
        let len := roundup16 ((bitsOf h 96 32 + 7) / 8)
        if (areaFenced s m.addr 64).isSome || mapCorrupt h m || !areaOk s t.ctx (partBits t 320 56) len .w .near then s
        else taskWrite q n (partBits t 320 56) (zeroBytes len) s

/-- The commit map is written before the record, in every final state (R182). -/
def writeCommitMap (q n : Nat) (s : State) : State :=
  match work? s q n with
  | none => freshCommitMap q n s
  | some w =>
    if w.mapMode = 0 ∨ w.releaseOnly ∨ w.flush then s
    else
      let len := roundup16 ((w.dir.length + 7) / 8)
      let bs := (List.range len).map fun i =>
        BitVec.ofNat 8 (packFields ((List.range 8).map fun b => (b, 1, b2n (w.doneRows.contains (8 * i + b)))))
      updWork q n (fun w => { w with mapWritten := true }) (taskWrite q n w.commitMap bs s)

/-- A SCATTER with CONSUME that reaches COMPLETE begins the release of its map (R163). -/
def consumeMap (q n : Nat) (s : State) : State :=
  match work? s q n, task? s q n with
  | some w, some t =>
    if w.consume && !w.releaseOnly then
      updWork q n (fun w => { w with released := true })
        (updMap t.ctx w.mapSeq w.mapAddr (fun m => { m with releasing := true }) s)
    else s
  | _, _ => s

/-- A LOOKUP with RETAIN_MAP that reaches COMPLETE retains its map (R160). -/
def retainMap (q n : Nat) (s : State) : State :=
  match look? s q n, task? s q n with
  | some w, some t =>
    if w.retain then updUpd (fun u => { u with maps := u.maps.map fun m =>
      if m.queue = q ∧ m.ctx = t.ctx ∧ m.seq = t.seq ∧ m.addr = w.mapAddr ∧ !m.retained then { m with retained := true } else m }) s
    else s
  | _, _ => s

/-- A job is given up with its REDUCE (R294): OPEN slots of this device become late at every combiner, buckets held here end as
missing, and COMBINER_DONE says so. -/
def abortJob (id : Nat) (s : State) : State :=
  match job? s id with
  | none => s
  | some j =>
    let s := if j.doneSent then s else sendRankDone id true s
    let s := updJob id (fun j =>
      let first := (j.buckets.map fun e =>
        (e.1, ((ranksOf j.ranks).find? fun r => decide ((Tab.getD e.2.slots r {}).state ≠ .filled)).getD 0)).head?
      { j with
        aborted := true, buckets := [], missing := satAdd 32 j.missing j.buckets.length
        firstMissing := match j.firstMissing, first with
          | some a, some b => if a.1 ≤ b.1 then some a else some b
          | none, x => x
          | x, none => x }) s
    match job? s id with
    | none => s
    | some j =>
      if !(combiners s j).contains (me s) || j.doneReported then s
      else
        let s := updJob id (fun j => { j with doneReported := true }) s
        (recipients s j).foldl (fun (s : State) (d : Nat) =>
          if d = me s then tookCombinerDone id d s
          else peerSend 6 d id j.ctx 0 true (combinerDoneBytes (decide (0 < j.missing)) false) s) s

/-- A job that both its REDUCE and its contributor have left is closed. -/
def closeJob (id : Nat) (s : State) : State :=
  match job? s id with
  | none => s
  | some j =>
    let s' := updChain (fun c => { c with jobs := Tab.del c.jobs id, jobsOver := if id < 4096 then insertNew id c.jobsOver else c.jobsOver })
      (markGone (fun k p => decide (k % 4096 = id) && [3, 4, 5, 6].contains (bits p.hdr 0 4)) s)
    let open' := match j.contributor with
      | some (q, n) => (match task? s q n with
        | some t => !t.posted
        | none => false)
      | none => false
    let reduce := match task? s j.queue j.seq with
      | some t => !t.posted
      | none => false
    if open' || reduce then s else s'

/-- A SCATTER or FLUSH that ends before its last contribution sends RANK_DONE with the abort flag (R294; log entry 20). -/
def giveUpContribution (q n : Nat) (s : State) : State :=
  match work? s q n with
  | none => s
  | some w => match w.job with
    | none => s
    | some id =>
      if w.sent then s else sendRankDone id true (updWork q n (fun w => { w with sent := true }) s)

/-- TASK_END goes to the owners that hold a remote task of a look-up (R273). -/
def endRemotes (q n : Nat) (t : Task) (s : State) : State :=
  match look? s q n with
  | none => s
  | some w =>
    let s := markGone (fun k p => decide (k % 4096 = w.tag) && w.owners.contains (k / 4096) && decide (bits p.hdr 0 4 = 1)) s
    w.owners.foldl (fun (s : State) (d : Nat) => ctlSend .taskEnd d w.tag t.ctx 0 0 t.seq 0 [] s) s

/-- The work of a task is let go with its record. -/
def dropWork (q n : Nat) (s : State) : State :=
  let k := tid q n
  let s := updIdx (fun x => { x with
    lookups := Tab.del x.lookups k, gathers := Tab.del x.gathers k, sorts := Tab.del x.sorts k, units := Tab.del x.units k }) s
  let s := updUpd (fun u => { u with works := Tab.del u.works k }) s
  let mine (w : T4Who) : Bool := match w with
    | .read reader _ => decide (reader = k)
    | _ => false
  let s := updT4 (fun t => { t with waiting := t.waiting.filter fun e => !mine e.1, arrived := t.arrived.filter fun e => !mine e.1 }) s
  { s with streams := { s.streams with
      streams := Tab.del s.streams.streams k
      transfers := s.streams.transfers.filter fun e => !(decide (e.2.queue = q) && decide (e.2.seq = n)) } }

/-- What follows from the end of a task before its record is formed. -/
def settleTask (t : Task) (s : State) : State :=
  let q := t.queue
  let n := t.seq
  match t.ttype with
  | .lookup => endRemotes q n t (if t.state = .complete then retainMap q n s else s)
  | .scatter =>
    let s := if t.state = .complete then consumeMap q n s else giveUpContribution q n s
    writeCommitMap q n s
  | .flush => if t.state = .complete then s else giveUpContribution q n s
  | .reduce =>
    match jobFor s t with
    | some (id, j) => if reduceDone s id j then s else abortJob id s
    | none => s
  | _ => s

/-! ### Posting -/

/-- The record is posted, held while its ring is out of reach, or discarded by QUEUE_DESTROY (R367, R376, R397). -/
def deliverRecord (t : Task) (s : State) : State :=
  match Tab.get? s.queues t.queue with
  | none => s
  | some qu =>
    let kept := updTask t.queue t.seq (fun t => { t with posted := true }) s
    if !qu.ringLost then postRecord t s
    else if qu.state = .destroying then updQueue t.queue (fun x => { x with discarded := x.discarded + 1 }) kept
    else updQueue t.queue (fun x => { x with held := x.held ++ [t.seq] }) kept

/-- Whose record is next where records have an order: armings of one stream post in arming order (R318). -/
def recordTurn (s : State) (t : Task) : Bool :=
  match stream? s t.queue t.seq with
  | some x => decide ((armingOf s t.ctx x.streamId).running = some (t.queue, t.seq))
  | none => true

/-- A queue that is being destroyed is gone when its last record has been posted or discarded (R367). -/
def destroyCheck (q : Nat) (s : State) : State :=
  match Tab.get? s.queues q with
  | none => s
  | some qu =>
    if qu.state ≠ .destroying ∨ (queueTasks s q).any (fun t => !t.posted) then s
    else
      ctxCheck qu.ctx (jobEnd (.queueDestroy q) .ok qu.discarded
        { s with queues := Tab.del s.queues q, tasks := s.tasks.filter fun e => decide (e.2.queue ≠ q) })

/-- Commands and holds that wait for the end of tasks look again (R82, R90, R332). -/
def afterTask (s : State) : State := releaseHeld s

/-- What a REDUCE's contributor has started has reached its commit point (R183, R296). -/
def contributorQuiet (s : State) (t : Task) : Bool :=
  t.ttype ≠ .reduce || !(jobFor s t).any fun e => e.2.contributor.any fun c => !taskQuiet s c.1 c.2

/-- A final task whose work in flight is over has its record formed and posted, once (R372, R375). -/
def postFinal (q n : Nat) (s : State) : State :=
  match task? s q n with
  | none => s
  | some t =>
    if !t.state.final || t.posted || !settled s q n || !contributorQuiet s t || !recordTurn s t then s
    else
      let s := settleTask t s
      let s := updTask q n (fun x => { x with record := partRecord s t }) s
      let job := match t.ttype, work? s q n with
        | .reduce, _ => (jobFor s t).map Prod.fst
        | _, some w => w.job
        | _, none => none
      let s := match task? s q n with
        | some t => deliverRecord t (dropWork q n s)
        | none => s
      let s := match job with
        | some id => closeJob id s
        | none => s
      destroyCheck q (afterTask s)

/-- An ACTIVE task whose work is done makes the compare-and-set to its final state (R372). -/
def completeTask (q n : Nat) (s : State) : State :=
  match task? s q n with
  | none => s
  | some t =>
    if t.state ≠ .active || !settled s q n then s
    else match workStatus s t with
      | none => s
      | some .ok => endTask q n .complete .ok {} s
      | some st => failTask q n st {} s

/-- TASK_WORK_DONE (R372, R376). -/
def execTaskWorkDone (q n : Nat) : State → Host.Outcome State Fault Refusal :=
  live fun s => postFinal q n (completeTask q n s)

/-- The key of a commit of the task that waits for delta-pool room (R87). -/
def deltaWaiting (s : State) (q n : Nat) : Option (Nat × Nat) :=
  s.work.upd.runs.findSome? fun e =>
    if e.2.queue = q ∧ e.2.seq = n then
      match e.2.phase with
      | .deltaWait _ => some (e.1, e.2.grad.key)
      | _ => none
    else none

/-- DEADLINE_EXPIRE (R374): a commit that waits for delta-pool room names DELTA_POOL_FULL and its row (R87). -/
def execDeadlineExpire (q n : Nat) : State → Host.Outcome State Fault Refusal :=
  live fun s =>
    match task? s q n with
    | none => s
    | some t =>
      if t.state ≠ .active ∨ t.deadlineUs = 0 then s
      else match deltaWaiting s q n with
        | some (core, key) => endRun core (failTask q n .deltaPoolFull (detKey key) s)
        | none => failTask q n .deadlineExpired {} s

/-! ### FENCE (R380) -/

/-- FENCE: admitted when every earlier task of its queue is final; the flushing read goes out. -/
def execFence (q n : Nat) : State → Host.Outcome State Fault Refusal :=
  admission .fence q n fun t s =>
    if !partZero t [(0, 128)] then failTask q n .badReserved {} s
    else if !(earlierTasks s q n).all (fun x => x.state.final) then s
    else if hostUp s then startTask q n s else failTask q n .hostLost (detAddr Config.flushAddr) (startTask q n s)

/-- FENCE_FLUSH_DONE: the flushing read has come back and every window write of the earlier tasks is acknowledged; no prefetched byte is
held any more, and the FENCE has done its work. -/
def execFenceFlushDone (q n : Nat) : State → Host.Outcome State Fault Refusal :=
  live fun s =>
    match task? s q n with
    | none => s
    | some t =>
      if t.ttype ≠ .fence ∨ t.state ≠ .active ∨ !hostUp s ∨ !earlierDone s q n then s
      else updTask q n (fun t => { t with effected := true }) s

/-! ### Held tasks (R373) -/

/-- TASK_ADMIT_RELEASE: the first QUEUED task of the queue goes through the admission of its type again. -/
def execTaskAdmitRelease (q : Nat) (s : State) : Host.Outcome State Fault Refusal :=
  match ((queueTasks s q).filter fun t => decide (t.state = .queued)).find? fun t =>
      (earlierTasks s q t.seq).all fun x => decide (x.state ≠ .queued) with
  | none => .next s
  | some t =>
    match t.ttype with
    | .lookup => execLookup q t.seq s
    | .scatter => if scReleaseOnly t then execScatterReleaseOnly q t.seq s else execScatter q t.seq s
    | .reduce => execReduce q t.seq s
    | .sort => execSort q t.seq s
    | .shuffle => if partBits t 48 2 = 1 then execShufflePermute q t.seq s else execShuffleGenerate q t.seq s
    | .gatherSamples => execGatherSamples q t.seq s
    | .copy => execCopy q t.seq s
    | .publish => execPublish q t.seq s
    | .flush => execFlush q t.seq s
    | .fence => execFence q t.seq s
    | .semSignal => execSemSignal q t.seq s
    | .semWait => execSemWait q t.seq s

end Sys2Proof.Machine
end

