-- ==== Sys2Proof/Machine/Queues.lean ====
section
/-! DEFINITION. Contexts, queues, doorbells and slots (R335, R361 to R371, R375). -/

namespace Sys2Proof.Machine

/-! ### Queue-time resolution (R335) -/

/-- An address field of a descriptor: its first bit in the task-specific part, the area it names, the rights it needs, the kinds of range
that may hold it, and the alignment its rule asks for. -/
structure AddrField where
  bit : Nat
  addr : Nat
  len : Nat
  rights : List Right
  kind : AreaKind := .any
  align : Nat := 1
  deriving DecidableEq, Repr

/-- The field where a condition holds. -/
def fieldIf (c : Bool) (f : AddrField) : List AddrField := if c then [f] else []

/-- The address fields of a LOOKUP (R134). -/
def lookupFields (p : Nat → Nat → Nat) : List AddrField :=
  let b := p 128 24 + 1
  let ext := decide (p 0 4 = 3) || decide (p 0 4 = 4)
  fieldIf (decide (p 8 1 = 1)) { bit := 192, addr := p 192 56, len := b * p 160 32, rights := [.w] } ++
  [{ bit := 256, addr := p 256 56, len := p 320 64, rights := [.w], kind := .stack }] ++
  [{ bit := 384, addr := p 384 56, len := p 448 64, rights := [.w], kind := .stack }] ++
  fieldIf (decide (p 11 1 = 1)) { bit := 512, addr := p 512 56, len := p 576 64, rights := [.r] } ++
  fieldIf (decide (p 12 1 = 1)) { bit := 640, addr := p 640 56, len := 16 * b, rights := [.w], kind := .near } ++
  fieldIf (ext && decide (p 10 1 = 1) && decide (p 704 56 ≠ 0))
    { bit := 704, addr := p 704 56, len := b * roundup16 (2 * (p 32 13 + 1)), rights := [.w], kind := .near }

/-- The address fields of a SCATTER, each by its first byte (R167, R335). -/
def scatterFields (p : Nat → Nat → Nat) : List AddrField :=
  [{ bit := 128, addr := p 128 56, len := 1, rights := [.r], kind := .stack }] ++
  (if p 2 1 = 1 then []
   else
    [if p 3 1 = 1 then { bit := 192, addr := p 192 56, len := 1, rights := [.r] }
     else { bit := 192, addr := p 192 56, len := 1, rights := [.w, .r], kind := .stack }] ++
    fieldIf (decide (p 6 2 = 1)) { bit := 320, addr := p 320 56, len := 1, rights := [.w], kind := .near } ++
    fieldIf (decide (p 6 2 = 2)) { bit := 320, addr := p 320 56, len := 1, rights := [.w, .r], kind := .near })

/-- The address fields of a REDUCE (R278). -/
def reduceFields (p : Nat → Nat → Nat) : List AddrField :=
  let array := decide (p 12 2 = 1)
  [{ bit := 192, addr := p 192 56, len := p 256 64, rights := [.r, .w], kind := .near }] ++
  fieldIf array { bit := 320, addr := p 320 56, len := p 384 32 * (if p 416 4 = 1 then 2 else 4), rights := [.r] } ++
  fieldIf array { bit := 448, addr := p 448 56, len := 4 * p 384 32, rights := [.w] }

/-- The address fields of a SORT (R125). -/
def sortFields (p : Nat → Nat → Nat) : List AddrField :=
  let n := p 64 32
  [{ bit := 0, addr := p 0 56, len := 8 * n, rights := [.r] }, { bit := 128, addr := p 128 56, len := 8 * n, rights := [.w] }] ++
  fieldIf (decide (p 97 1 = 1)) { bit := 192, addr := p 192 56, len := 4 * n, rights := [.w] } ++
  fieldIf (decide (p 98 1 = 1)) { bit := 256, addr := p 256 56, len := 4 * n, rights := [.w] } ++
  [{ bit := 320, addr := p 320 56, len := p 384 64, rights := [.w], kind := .stack }]

/-- The address fields of a SHUFFLE (R128). -/
def shuffleFields (p : Nat → Nat → Nat) : List AddrField :=
  fieldIf (decide (p 48 2 = 1)) { bit := 448, addr := p 448 56, len := 8 * (p 0 48 + 1), rights := [.r] } ++
  [{ bit := 512, addr := p 512 56, len := 8 * p 320 48, rights := [.w] }]

/-- The address fields of a GATHER_SAMPLES (R131); the length of its output follows from the samples. -/
def gatherFields (p : Nat → Nat → Nat) : List AddrField :=
  fieldIf (decide (p 1081 1 = 1)) { bit := 512, addr := p 512 56, len := 1, rights := [.w] } ++
  [{ bit := 1024, addr := p 1024 56, len := 16 * (p 0 48 + 1), rights := [.r] }] ++
  fieldIf (decide (p 1080 1 = 1)) { bit := 1152, addr := p 1152 56, len := 8 * p 320 48, rights := [.r] } ++
  [{ bit := 1216, addr := p 1216 56, len := p 1280 32, rights := [.w, .r], kind := .stack }]

/-- The address fields of a task's descriptor, in bit order (R335). -/
def addrFields (t : Task) : List AddrField :=
  let p := partBits t
  match t.ttype with
  | .lookup => lookupFields p
  | .scatter => scatterFields p
  | .reduce => reduceFields p
  | .sort => sortFields p
  | .shuffle => shuffleFields p
  | .gatherSamples => gatherFields p
  | .copy => [{ bit := 64, addr := p 64 56, len := 32 * (p 32 24 + 1), rights := [.r], align := 32 }]
  | .flush => [{ bit := 64, addr := p 64 56, len := p 128 64, rights := [.r, .w], kind := .near }]
  | .publish | .fence | .semSignal | .semWait => []

/-- The range that resolves a field, where its rules hold (R335). -/
def resolveField (s : State) (ctx : Nat) (f : AddrField) : Option (Nat × Range) :=
  match ctxRange s ctx f.addr f.len with
  | some (base, g) =>
    if f.rights.all g.grants && f.kind.admits g && decide (f.addr % f.align = 0) then some (base, g) else none
  | none => none

/-- Translation requests for the pages of a HOST area start (R335, R336). -/
def startTranslations (g : Range) (a n : Nat) (s : State) : State :=
  if g.kind ≠ .host ∨ g.migratable then s
  else (pagePieces a n).foldl (fun (s : State) (p : Nat × Nat) =>
    match pageNeed s (!g.r) p.1 p.2 with
    | some need => if hostUp s then requestTranslation need.space need.page s else s
    | none => s) s

/-- The fields of a task are resolved: the first that fails ends it with BAD_ADDRESS, and otherwise the task refers to the ranges
(R332, R335). -/
def resolveFields (t : Task) (s : State) : State :=
  let fs := (addrFields t).filter fun f => decide (0 < f.len)
  match fs.find? fun f => (resolveField s t.ctx f).isNone with
  | some f => failTask t.queue t.seq .badAddress (detBit f.bit) s
  | none =>
    let rs := fs.filterMap fun f => (resolveField s t.ctx f).map fun e => (f, e)
    let s := updTask t.queue t.seq (fun t => { t with ranges := rs.map fun e => e.2.1 }) s
    rs.foldl (fun (s : State) (e : AddrField × Nat × Range) => startTranslations e.2.2 e.1.addr e.1.len s) s

/-! ### Slots and descriptors (R364, R365, R369 to R371) -/

/-- The slot at NEXT_SEQ as a number. -/
def slotAddr (q : Queue) : Nat := q.sqAddr + 64 * (q.nextSeq.toNat % 2 ^ q.slotsLog2)

/-- PHASE, SEQ and CHECK of the slot at NEXT_SEQ are right (R364, R365). -/
def slotMatches (q : Queue) (bs : List Byte) : Bool :=
  let x := ofBytes bs
  decide (bitsOf x 0 1 = phaseBit q.slotsLog2 q.nextSeq.toNat) && decide (bitsOf x 32 32 = q.nextSeq.toNat) &&
    decide (bitsOf x 496 16 = crc16 (bs.take 62))

/-- What the device finds at NEXT_SEQ. -/
inductive SlotView where
  | hidden
  /-- The slot is right, but its descriptor cannot be read (R365). -/
  | noDescriptor (slot : Nat)
  | visible (slot : Nat) (desc : List Byte)
  deriving DecidableEq, Repr

/-- The slot at NEXT_SEQ, and its descriptor, as they read now (R365). -/
def viewSlot (s : State) (q : Queue) : SlotView :=
  let bs := devRead s (slotAddr q) 64
  let x := ofBytes bs
  let d := bitsOf x 64 56
  let n := 16 * bitsOf x 128 16
  if !slotMatches q bs || (areaFenced s (slotAddr q) 64).isSome then .hidden
  else if d % 16 ≠ 0 ∨ !areaOk s q.ctx d n .r .any then .noDescriptor x
  else if !hostUp s && needsHost s d n then .hidden
  else
    let desc := devRead s d n
    if decide (crc32c desc = bitsOf x 160 32) && (areaFenced s d n).isNone then .visible x desc else .hidden

/-- The queue reads slots: it runs, NEXT_SEQ precedes SQ_TAIL, and the completion ring has room (R365). -/
def readsSlots (s : State) (q : Queue) : Bool :=
  tasksRun s && decide (q.state = .running) && seqBefore 32 q.nextSeq.toNat q.sqTail.toNat &&
    decide (seqDist 32 q.cqHead.toNat q.nextSeq.toNat < 2 ^ q.slotsLog2)

/-- Reserved fields of a slot (R364). -/
def slotReserved (x : Nat) : Bool :=
  [(1, 7), (17, 15), (120, 8), (144, 16), (256, 240)].all fun f => bitsOf x f.1 f.2 == 0

/-- The binding entries of a descriptor (R370). -/
def descBindings (desc : List Byte) (n : Nat) : List Nat := (List.range n).map fun i => ofBytes (sliceBytes desc (32 + 16 * i) 16)

/-- A binding entry breaks R370 or R77. -/
def bindingBad (x : Nat) : Bool :=
  decide (bitsOf x 18 46 ≠ 0) || decide (bitsOf x 112 16 ≠ 0) || decide (bitsOf x 16 2 = 3) ||
    (decide (bitsOf x 16 2 ≠ 2) && decide (bitsOf x 64 48 ≠ 0))

/-- The binding entry that a descriptor carries. -/
def bindingOf (x : Nat) : Binding := { handle := bitsOf x 0 16, mode := bitsOf x 16 2, gen := bitsOf x 64 48 }

/-- BIND_COUNT is in the range of the type (R371). -/
def bindCountOk (ty : TaskType) (releaseOnly : Bool) (n : Nat) : Bool :=
  match ty with
  | .lookup => decide (1 ≤ n) && decide (n ≤ 256)
  | .scatter => if releaseOnly then decide (n = 0) else decide (1 ≤ n) && decide (n ≤ 256)
  | _ => decide (n = 0)

/-- The slot and descriptor break a rule of R364, R369, R370 or R371. -/
def descriptorBad (x : Nat) (desc : List Byte) : Bool :=
  let common := ofBytes (sliceBytes desc 0 32)
  let n := bitsOf common 16 9
  match TaskType.ofCode (bitsOf x 8 8) with
  | none => true
  | some ty =>
    let part := ofBytes (desc.drop (32 + 16 * n))
    let bs := descBindings desc n
    !slotReserved x || !bindCountOk ty (bitsOf part 2 1 == 1) n || decide (bitsOf x 128 16 ≠ 2 + n + ty.partBytes / 16) ||
      decide (bitsOf common 0 8 ≠ bitsOf x 8 8) || decide (bitsOf common 12 4 ≠ 0) || decide (bitsOf common 25 7 ≠ 0) ||
      decide (bitsOf common 96 160 ≠ 0) || bs.any bindingBad ||
      decide ((bs.map fun b => bitsOf b 0 16).eraseDups.length ≠ n)

/-- The task that a slot and descriptor describe, as it enters QUEUED (R365, R369). -/
def taskOf (qn : Nat) (q : Queue) (x : Nat) (desc : List Byte) (now : Nat) : Task :=
  let common := ofBytes (sliceBytes desc 0 32)
  let n := bitsOf common 16 9
  { queue := qn, seq := q.nextSeq.toNat, ctx := q.ctx, ttype := (TaskType.ofCode (bitsOf x 8 8)).getD .fence
    typeCode := bitsOf x 8 8, interrupt := bitsOf x 16 1 == 1, userTag := BitVec.ofNat 64 (bitsOf x 192 64)
    partition := bitsOf common 8 4, deadlineUs := bitsOf common 32 32, waitHintUs := bitsOf common 64 32
    bindings := (descBindings desc n).map bindingOf, part := desc.drop (32 + 16 * n), queuedAt := now }

/-- A slot is consumed: its task enters QUEUED, and NEXT_SEQ advances; the task that lies 65,536 behind is forgotten (R365, R375). -/
def consumeSlot (t : Task) (s : State) : State :=
  let s := updQueue t.queue (fun q => { q with nextSeq := q.nextSeq + 1, rereads := 0 }) s
  let old := tid t.queue (t.seq + 2 ^ 32 - 65535)
  putTask t { s with tasks := s.tasks.filter fun e => !(decide (e.1 = old) && e.2.posted) }

/-- The slot at NEXT_SEQ is read, and consumed where it may be (R365, R335). -/
def readSlot (qn : Nat) (s : State) : State :=
  match Tab.get? s.queues qn with
  | none => s
  | some q =>
    if !readsSlots s q then s
    else match viewSlot s q with
      | .hidden => s
      | .noDescriptor x =>
        failTask qn q.nextSeq.toNat .badAddress (detAddr (bitsOf x 64 56)) (consumeSlot (taskOf qn q x [] s.clock) s)
      | .visible x desc =>
        let t := taskOf qn q x desc s.clock
        let s := consumeSlot t s
        if descriptorBad x desc then failTask qn t.seq .badReserved {} s else resolveFields t s

/-- SLOT_CONSUME (R365). -/
def execSlotConsume (qn : Nat) : State → Host.Outcome State Fault Refusal := live (readSlot qn)

/-- The slot that a doorbell covers is not visible. -/
def slotHidden (s : State) (q : Queue) : Bool :=
  readsSlots s q && (match viewSlot s q with
    | .hidden => true
    | _ => false)

/-- SLOT_REREAD (R366): the slot is read again; where it has become visible it is consumed. -/
def execSlotReread (qn : Nat) (host : List Host.Cell) : State → Host.Outcome State Fault Refusal :=
  live fun s =>
    match Tab.get? s.queues qn with
    | none => s
    | some q =>
      if !slotHidden s q || decide (64 ≤ q.rereads) then s
      else
        let s := updQueue qn (fun q => { q with rereads := q.rereads + 1 }) (hostWrote host s)
        readSlot qn s

/-- QUEUE_WAITING_VISIBLE: the 64th re-read has found the slot not visible (R366). -/
def execQueueWaitingVisible (qn : Nat) : State → Host.Outcome State Fault Refusal :=
  live fun s =>
    match Tab.get? s.queues qn with
    | none => s
    | some q =>
      if slotHidden s q && decide (64 ≤ q.rereads) then
        event .queueStall (packFields [(0, 10, qn), (32, 32, q.nextSeq.toNat)]) (updQueue qn (fun q => { q with state := .waitingVisible }) s)
      else s

/-! ### Doorbell pages (R363, R366, R368) -/

/-- SQ_DOORBELL: a write of SQ_TAIL. A tail behind NEXT_SEQ, or more than a ring ahead of it, sets BAD_DOORBELL (R368). -/
def execSqDoorbell (page : Nat) (tail : Word32) (host : List Host.Cell) : State → Host.Outcome State Fault Refusal :=
  live fun s =>
    match Tab.get? s.queues page with
    | none => s
    | some q =>
      if !hostUp s ∨ q.state = .destroying then s
      else
        let s := hostWrote host s
        if seqBefore 32 tail.toNat q.nextSeq.toNat ∨ 2 ^ q.slotsLog2 < seqDist 32 q.nextSeq.toNat tail.toNat then
          updQueue page (fun q => { q with badDoorbell := true }) s
        else if q.state = .waitingVisible then
          updQueue page (fun q => { q with sqTail := tail, state := .running, rereads := 0 }) s
        else updQueue page (fun q => { q with sqTail := tail }) s

/-- CQ_HEAD_WRITE (R363, R365). -/
def execCqHeadWrite (page : Nat) (head : Word32) : State → Host.Outcome State Fault Refusal :=
  live fun s => if hostUp s then updQueue page (fun q => { q with cqHead := head }) s else s

/-! ### Contexts (R361) -/

/-- CTX_CREATE. -/
def execCtxCreate (m : MbxCall) : State → Host.Outcome State Fault Refusal :=
  mbxRow (mailbox 0x10 false false false m.args (fun s =>
    let c := bits m.args 0 8
    if !zeroFields m.args [(9, 2039)] || (bit m.args 8 && !coldCompress s) then .refuse .badReserved
    else if c ≠ m.issuer % 256 then .refuse .badContext
    else if Tab.has s.ctxs c then .refuse .ctxExists
    else
      let x : Ctx := { peerCompress := bit m.args 8 }
      .reply { s with ctxs := Tab.put s.ctxs c x } .ok 0) m)

/-- A queue is being destroyed (R367): every task of it is aborted, and records whose tasks have nothing in flight are posted at once. -/
def destroyQueue (qn : Nat) (s : State) : State :=
  let s := updQueue qn (fun q => { q with state := .destroying, discarded := q.held.length, held := [] }) s
  let ts := (queueTasks s qn).map Task.seq
  let s := ts.foldl (fun (s : State) (n : Nat) => endTask qn n .aborted .abortedByHost {} s) s
  destroyCheck qn (ts.foldl (fun (s : State) (n : Nat) => postFinal qn n s) s)

/-- What a context holds beside its queues is given up (R361). -/
def dropCtxParts (c : Nat) (s : State) : State :=
  let s := (s.work.tbl.tables.filter fun e => decide (e.2.ctx = c) && !e.2.deleting).foldl
    (fun (s : State) (e : Nat × Table) => beginDelete e.1 s) s
  let s := updUpd (fun u => { u with
    programs := u.programs.filter fun e => decide (e.2.ctx ≠ c), loading := u.loading.filter fun e => e.2.all fun x => decide (x.ctx ≠ c)
    maps := u.maps.filter fun m => decide (m.ctx ≠ c) }) s
  let s := updChain (fun x => { x with maps := x.maps.filter fun e => decide (e.2.ctx ≠ c) }) s
  let s := updCtx c (fun x => { x with codeSlots := [], destroying := true }) s
  { s with
    windows := s.windows.filter fun e => decide (e.2.ctx ≠ c)
    ranges := s.ranges.map fun e => if e.2.ctx = c then (e.1, { e.2 with unmapping := true }) else e }

/-- CTX_DESTROY. -/
def execCtxDestroy (m : MbxCall) : State → Host.Outcome State Fault Refusal :=
  mbxRow (mailbox 0x11 true false false m.args (fun s =>
    let c := bits m.args 0 8
    if !zeroFields m.args [(8, 2040)] then .refuse .badReserved
    else if !ctxOk s m c then .refuse .badContext
    else
      let qs := (s.queues.filter fun e => decide (e.2.ctx = c)).map Prod.fst
      let s := qs.foldl (fun (s : State) (q : Nat) => destroyQueue q s) (dropCtxParts c s)
      if s.queues.any (fun e => decide (e.2.ctx = c)) || s.work.tbl.tables.any (fun e => decide (e.2.ctx = c)) ||
          s.ranges.any (fun e => decide (e.2.ctx = c)) then .waits s (.ctxDestroy c)
      else .reply { s with ctxs := Tab.del s.ctxs c } .ok 0) m)

/-! ### Queues (R362, R367) -/

/-- A ring meets R362. -/
def ringOk (s : State) (ctx a n : Nat) (right : Right) : Bool := decide (a % 4096 = 0) && areaOk s ctx a n right .stackOrPinned

/-- QUEUE_CREATE (R362). -/
def execQueueCreate (m : MbxCall) : State → Host.Outcome State Fault Refusal :=
  mbxRow (mailbox 0x12 false false false m.args (fun s =>
    let f := bits m.args
    let n := f 24 4
    if !zeroFields m.args [(10, 6), (28, 4), (42, 6), (55, 1), (120, 8), (184, 1864)] || decide (n < 4) || decide (f 32 10 < 4) ||
        decide (f 48 7 = 0) || decide (64 < f 48 7) then .refuse .badReserved
    else if !ctxOk s m (f 16 8) then .refuse .badContext
    else if Tab.has s.queues (f 0 10) || ((t4Of s).attached && decide ((t4Of s).page = f 0 10)) then .refuse .queueExists
    else if !ringOk s (f 16 8) (f 64 56) (64 * 2 ^ n) .r || !ringOk s (f 16 8) (f 128 56) (128 * 2 ^ n) .w then .refuse .badAddress
    else
      let q : Queue := { ctx := f 16 8, slotsLog2 := n, vector := f 32 10, maxActive := f 48 7, holdoffUs := f 56 8, sqAddr := f 64 56
                         cqAddr := f 128 56 }
      .reply { s with queues := Tab.put s.queues (f 0 10) q } .ok 0) m)

/-- Reserved and unused fields of the block of R367. -/
def queueUnused (seq rings : Bool) : List (Nat × Nat) :=
  [(10, 6), (24, 8), (120, 8), (184, 1864)] ++ (if seq then [] else [(32, 32)]) ++ (if rings then [] else [(64, 56), (128, 56)])

/-- The queue that a command names (R367). -/
def namedQueue (s : State) (a : BitVec 2048) : Option Queue :=
  (Tab.get? s.queues (bits a 0 10)).bind fun q => if q.ctx = bits a 16 8 then some q else none

/-- QUEUE_DESTROY (R367). -/
def execQueueDestroy (m : MbxCall) : State → Host.Outcome State Fault Refusal :=
  mbxRow (mailbox 0x13 true false false m.args (fun s =>
    let n := bits m.args 0 10
    if !zeroFields m.args (queueUnused false false) then .refuse .badReserved
    else if !ctxOk s m (bits m.args 16 8) then .refuse .badContext
    else match namedQueue s m.args with
      | none => .refuse .noQueue
      | some q =>
        if q.state = .destroying then .refuse .noQueue
        else
          let gone := if q.ringLost then q.held.length + ((queueTasks s n).filter fun t => !t.posted).length else 0
          let s := destroyQueue n s
          if Tab.has s.queues n then .waits s (.queueDestroy n) else .reply s .ok gone) m)

/-- Held records are posted in posting order (R367, R397). -/
def postHeld (qn : Nat) (s : State) : State :=
  match Tab.get? s.queues qn with
  | none => s
  | some q =>
    q.held.foldl (fun (s : State) (n : Nat) => match task? s qn n with
      | some t => postRecord t s
      | none => s) (updQueue qn (fun q => { q with held := [] }) s)

/-- QUEUE_RESUME (R367). -/
def execQueueResume (m : MbxCall) : State → Host.Outcome State Fault Refusal :=
  mbxRow (mailbox 0x14 false false false m.args (fun s =>
    let f := bits m.args
    if !zeroFields m.args (queueUnused false true) then .refuse .badReserved
    else if !ctxOk s m (f 16 8) then .refuse .badContext
    else match namedQueue s m.args with
      | none => .refuse .noQueue
      | some q =>
        if q.state = .destroying then .refuse .noQueue
        else if (f 64 56 ≠ 0 ∧ !ringOk s q.ctx (f 64 56) (64 * 2 ^ q.slotsLog2) .r) ∨
            (f 128 56 ≠ 0 ∧ !ringOk s q.ctx (f 128 56) (128 * 2 ^ q.slotsLog2) .w) then .refuse .badAddress
        else
          let s := updQueue (f 0 10) (fun q => { q with
            badDoorbell := false, rereads := 0, ringLost := false
            sqAddr := if f 64 56 = 0 then q.sqAddr else f 64 56
            cqAddr := if f 128 56 = 0 then q.cqAddr else f 128 56
            cqHead := if f 128 56 = 0 then q.cqHead else q.posted
            state := .running }) s
          .reply (postHeld (f 0 10) s) .ok 0) m)

/-- TASK_ABORT (R375). -/
def execTaskAbort (m : MbxCall) : State → Host.Outcome State Fault Refusal :=
  mbxRow (mailbox 0x15 false false false m.args (fun s =>
    let qn := bits m.args 0 10
    let n := bits m.args 32 32
    if !zeroFields m.args (queueUnused true false) then .refuse .badReserved
    else if !ctxOk s m (bits m.args 16 8) then .refuse .badContext
    else match namedQueue s m.args with
      | none => .refuse .noQueue
      | some q => match task? s qn n with
        | none => .refuse .taskUnknown
        | some t =>
          if seqDist 32 n q.nextSeq.toNat = 0 ∨ 65536 ≤ seqDist 32 n q.nextSeq.toNat then .refuse .taskUnknown
          else if t.state.final then .reply s .alreadyComplete t.state.code
          else .reply (endTask qn n .aborted .abortedByHost {} s) .ok TaskState.aborted.code) m)

end Sys2Proof.Machine
end

