-- ==== Sys2Proof/Machine/Readback.lean ====
section
/-! DEFINITION. What the device shows of itself: the identity registers, telemetry, the records of STATE_READ and of the debug window
(R3, R161, R254, R255, R261, R326, R342, R353, R354, R363, R386 to R391, R398, R424, R484, R485, R489, R522, R523). -/

namespace Sys2Proof.Machine

/-! ### Identity registers -/

/-- Populated stacks, as ENG_CAPS0 gives them once start-up has set them. -/
def stacksField (s : State) : Nat := if s.sys.cfg.valid then s.sys.cfg.stackCount else 0

/-- ENG_ID (R353). -/
def engId (s : State) : Nat := packFields [(0, 16, 0x8400), (32, 32, bits s.fuses.lowerId 16 32)]

/-- ENG_VERSION (R3). -/
def engVersion (s : State) : Nat :=
  packFields [(0, 32, 0x00020100), (32, 8, bits s.fuses.lowerId 2 8), (40, 8, bits s.fuses.upperId 2 8), (48, 8, s.sys.protocol)]

/-- ENG_CAPS0 (R353). -/
def engCaps0 (s : State) : Nat :=
  packFields [(0, 8, if coldCompress s then 0xFF else 0xDF), (8, 1, b2n (s.sys.cfg.valid && s.sys.cfg.orchardProtect)), (16, 4, stacksField s),
    (20, 3, ((portGroups s.sys.cfg.roleTable 2).length)), (23, 4, (s.links.peers.filter fun e => decide (0 < e.2.lanes)).length)]

/-- ENG_STATE (R354). -/
def engStateWord (s : State) : Nat :=
  packFields [(0, 4, s.sys.engState.code), (4, 1, b2n s.sys.lowerUp), (5, 1, b2n s.sys.upperUp), (6, 1, b2n s.sys.hostAttached),
    (7, 1, b2n (!s.journal.ranges.isEmpty || !s.journal.markers.isEmpty)), (8, 8, s.sys.safeCause.code), (16, 8, s.sys.bootStep),
    (24, 1, b2n s.sys.debugUnlocked), (32, 32, s.sys.attachEpoch.toNat)]

/-- ENG_CHAIN_ADDR (R261). -/
def engChainAddr (s : State) : Nat :=
  let c := s.work.chain
  packFields [(0, 4, c.addr), (4, 1, b2n c.valid), (5, 1, b2n s.sys.chainRoot), (6, 5, if c.valid then c.size else 0),
    (16, 8, c.enumStatus), (32, 32, c.epoch.toNat)]

/-! ### Telemetry (R489) -/

/-- The highest number of a list of integers, or 0 for an empty one. -/
def maxInt : List Int → Int
  | [] => 0
  | x :: xs => xs.foldl max x

/-- The pairs with a cluster in service whose Lull state is `k`; none before the arrays are up. -/
def pairsIn (s : State) (k : Nat) : Nat :=
  if s.sys.bootStep < 10 then 0
  else ((List.range 256).filter fun p => decide ((lullOf s p).state = k) &&
    !(s.faults.retiredClusters.contains p && s.faults.retiredClusters.contains (p + 256))).length

/-- The cluster of the highest reading, the lowest of equals. -/
def hottestCluster (s : State) : Nat × Int :=
  match serviceClusters s with
  | [] => (0, 0)
  | c :: cs => cs.foldl (fun (b : Nat × Int) (x : Nat) => if b.2 < (island s x).temp then (x, (island s x).temp) else b) (c, (island s c).temp)

/-- The telemetry block. -/
def telemetry (s : State) : Nat :=
  let hot := hottestCluster s
  let ports := (List.range 8).filter (populated s)
  let b (t : Int) : Nat := unsignedOf t 8
  packFields [(0, 16, if managerRuns s then s.power.meanWatts else 0), (16, 16, limitInForce s),
    (32, 10, if s.sys.lowerUp || s.sys.upperUp then budgetPermille s else 0), (48, 8, b hot.2),
    (56, 8, b (maxInt (ports.map fun p => (stackPort s p).temp))), (64, 9, hot.1),
    (73, 3, maxNat ((List.range 512).map fun c => (island s c).level)),
    (76, 3, maxNat (ports.map fun p => (stackPort s p).level)), (80, 8, b s.power.lowerDomain), (88, 8, b s.power.upperDomain),
    (96, 9, pairsIn s 0), (105, 9, pairsIn s 1), (114, 9, pairsIn s 2), (123, 9, pairsIn s 3)]

/-! ### Records -/

/-- A record: its fixed part, and the items of a list that follow it. -/
structure ReadRecord where
  head : List Byte := []
  items : List (List Byte) := []
  deriving DecidableEq, Repr

/-- The bytes of a whole record. -/
def ReadRecord.bytes (r : ReadRecord) : List Byte := r.head ++ r.items.flatten

/-- The items of a list that an area holds whole, in order. -/
def fitItems (room : Nat) : List (List Byte) → List Byte
  | [] => []
  | x :: xs => if x.length ≤ room then x ++ fitItems (room - x.length) xs else []

/-- A record as an area of `room` bytes takes it. -/
def ReadRecord.fit (r : ReadRecord) (room : Nat) : List Byte :=
  if r.head.length ≤ room then r.head ++ fitItems (room - r.head.length) r.items else r.head.take room

/-- Bytes of T1 or T2 that software has mapped (R212). -/
def mappedBytes (s : State) (k : RangeKind) : Nat := sumNat ((s.ranges.filter fun e => decide (e.2.kind = k)).map fun e => e.2.len)

/-- The record of ENG_INFO and of the DEVICE selector (R391). -/
def deviceRecord (s : State) : Nat :=
  packFields
    [(0, 16, (serviceClusters s).length), (16, 16, 1024 - s.queues.length),
     (32, 32, (serviceClusters s).length * 2048 * rowSpace s / 1024),
     (64, 64, poolBytes s 1 - mappedBytes s .stack - metadataBytes s), (128, 64, poolBytes s 2 - mappedBytes s .expander),
     (192, 64, poolBytes s 3), (256, 48, if (t4Of s).attached then (t4Of s).capacity else 0), (304, 16, s.work.tbl.tables.length),
     (320, 24, packFields ((List.range 12).map fun g => (2 * g, 2, roleOf s.sys.cfg.roleTable g)))]

/-- A doorbell page's first 32 bytes (R363). -/
def doorbellPage (s : State) (qn : Nat) (q : Queue) : Nat :=
  packFields [(64, 32, q.cqHead.toNat), (128, 3, q.state.code), (131, 1, b2n q.badDoorbell), (160, 32, q.nextSeq.toNat),
    (192, 7, activeCount s qn), (224, 32, q.posted.toNat)]

/-- The QUEUE record: the block of R362 as it stands, then the doorbell page. -/
def queueRecord (s : State) (qn : Nat) (q : Queue) : List Byte :=
  toBytes 256 (packFields
    [(0, 10, qn), (16, 8, q.ctx), (24, 4, q.slotsLog2), (32, 10, q.vector), (48, 7, q.maxActive), (56, 8, q.holdoffUs),
     (64, 56, q.sqAddr), (128, 56, q.cqAddr)]) ++ toBytes 32 (doorbellPage s qn q)

/-- The TASK record (R523). -/
def taskRecord (s : State) (q : Queue) (t : Task) : List Byte :=
  let word := toBytes 8 (packFields [(0, 3, t.state.code), (8, 8, t.typeCode), (16, 10, t.queue), (32, 32, t.seq)])
  if t.state.final then
    let t' : Task := if t.posted then t else { t with record := partRecord s t }
    word ++ completionBytes t' q.slotsLog2 (if t.posted then t.postIndex else q.posted.toNat)
  else word

/-- Working state of a table (R390). -/
def workingState (t : Table) : Nat :=
  if t.deleting then 5 else if t.replaces.any (fun r => r.started) then 1 else 0

/-- The GENERATIONS items (R389, R390). -/
def generationItems (s : State) (h : Nat) (t : Table) : List (List Byte) :=
  t.gens.map fun g => toBytes 16 (packFields [(0, 48, g.1), (48, 3, if g.2.released then 3 else 2), (64, 32, readers s h g.1)])

/-- The device that holds a row's backing location, by its chain address: the one to which it has moved, the owner of its index in
the shard map (R270), or this one. -/
def holderOf (s : State) (t : Table) (key : Nat) : Nat :=
  let r := rowOf s key
  if r.chain ≠ 0 then r.chain - 1
  else if tdSharded t.desc then ownerIn (Tab.getD s.work.chain.maps (tdShardMap t.desc) {}) (keyIndex key)
  else s.work.chain.addr

/-- The fields of the ROW_PLACEMENT record that only the holder of a row knows (R254). -/
def placedFields (s : State) (t : Table) (key : Nat) : List (Nat × Nat × Nat) :=
  let r := rowOf s key
  let page := r.place.page.bind fun k => Tab.get? s.work.tbl.cold (mkKey (keyHandle key) k)
  let slot := (page.bind ColdPage.coded).map Prod.fst
  [(0, 3, r.place.tier), (3, 1, b2n r.t0.isSome), (4, 1, b2n (r.t0.any fun c => c.dirty)),
   (5, 1, b2n (r.t0.any (fun c => c.pinned) || isPinned t (keyIndex key))), (6, 1, b2n r.migrating), (7, 1, b2n r.fenced),
   (8, 9, (r.t0.map T0Copy.cluster).getD 0), (21, 1, b2n slot.isSome), (22, 1, b2n (page.any fun p => p.encrypted)),
   (23, 2, slot.getD 0), (32, 16, loadOf s key), (64, 56, r.place.addr)]

/-- The same fields of a row that another device holds: the spec states none of them here, and they are free (log entry 27). -/
def freeFields (s : State) : List (Nat × Nat × Nat) :=
  let w := (Config.freeWord s.freeCtr).toNat
  let v := (Config.freeWord (s.freeCtr + 1)).toNat
  [(0, 3, bitsOf v 56 2 + 1), (3, 14, bitsOf w 0 14), (21, 4, bitsOf w 14 4), (32, 16, bitsOf w 32 16), (64, 56, bitsOf v 0 56)]

/-- The ROW_PLACEMENT record (R254). -/
def placementRecord (s : State) (t : Table) (key : Nat) : Nat :=
  let d := holderOf s t key
  packFields ((17, 4, d) :: (if d = s.work.chain.addr then placedFields s t key else freeFields s))

/-- Lines of a partition in use, and those that are dirty. -/
def lineCounts (s : State) (h : Nat) : Nat × Nat :=
  let ls := ((tableRows s h).filterMap fun e => e.2.t0).filter fun c => !c.pinned
  (ls.length, (ls.filter fun c => c.dirty).length)

/-- The PARTITION record (R255). -/
def partitionRecord (s : State) (h : Nat) (t : Table) : List Byte :=
  let cache := decide (tdMode t.desc = 0)
  let n := if cache then lineCounts s h else (0, 0)
  toBytes 32 (packFields
    [(0, 32, if cache then t.part.nsets else 0), (32, 5, tdWays t.desc), (37, 5, t.part.waysOn), (48, 12, t.part.run),
     (60, 1, b2n t.part.bypassing), (64, 48, n.1), (128, 48, n.2),
     (192, 9, packFields ((List.range 9).map fun i => (i, 1, b2n (Tab.getD t.part.overflow i false))))]) ++
    (List.range 9).flatMap fun i => toBytes 8 (Tab.getD t.part.counters i 0)

/-- The FEED_CHANNEL record. -/
def feedRecord (s : State) (c : Nat) : List Byte := toBytes 4 (feedStatus (chan s c)) ++ toBytes 8 (chan s c).discarded

/-- One range as RANGES returns it (R523). -/
def rangeBlock (e : Nat × Range) : List Byte :=
  let g := e.2
  toBytes 64 (packFields
    [(0, 4, 1), (4, 3, g.kind.code), (7, 1, b2n g.unmapping), (8, 8, g.ctx), (16, 1, b2n g.r), (17, 1, b2n g.w), (18, 1, b2n g.a),
     (19, 1, b2n g.pinned), (20, 1, b2n g.tierPool), (21, 1, b2n g.migratable), (22, 1, b2n g.pasidValid), (24, 20, g.pasid),
     (44, 4, g.chainAddr), (48, 12, g.windowId), (64, 56, e.1), (128, 48, g.len),
     (192, 64, if g.kind = .flash then 0 else g.hostStart)])

/-- The STACK_PORT record (R326). -/
def stackRecord (s : State) (p : Nat) : List Byte :=
  let x := stackPort s p
  let pop := populated s p
  toBytes 32 (packFields
    [(0, 3, p), (3, 1, b2n pop), (4, 3, x.level), (8, 8, unsignedOf x.temp 8), (64, 64, if pop then x.capacity else 0),
     (128, 7, packFields ((List.range 7).map fun i => (i, 1, b2n (Tab.getD x.overflow i false))))]) ++
    (List.range 7).flatMap fun i => toBytes 8 (Tab.getD x.counters i 0)

/-- A journal entry (R398). -/
def journalBytes (e : JournalEntry) : List Byte :=
  toBytes 32 (packFields
    [(0, 8, e.ctx), (8, 10, e.queue), (18, 1, b2n e.allRanges), (32, 32, e.seq), (64, 56, e.first), (128, 56, e.last), (192, 32, e.epoch)])

/-- A retained-map record (R161). -/
def retainedBytes (m : RetainedMap) : List Byte :=
  toBytes 32 (packFields
    [(0, 32, m.seq), (32, 8, m.ctx), (40, 4, m.poolMode), (44, 1, b2n m.releasing), (48, 9, m.handles.length), (64, 56, m.addr),
     (128, 24, m.bags - 1), (152, 13, m.elems - 1), (192, 56, m.winnerAddr)]) ++ pad16 (m.handles.flatMap fun h => toBytes 2 h)

/-- The chain table (R386). -/
def chainTable (s : State) : List Byte :=
  let c := s.work.chain
  toBytes 16 (packFields [(0, 5, if c.valid then c.size else 0), (8, 8, c.links.length), (32, 32, c.epoch.toNat)]) ++
    c.links.flatMap fun w => toBytes 4 w.toNat

/-- The statistics counters of a group, in order (R484). -/
def groupCounters (g : Nat) : List Nat :=
  match g with
  | 0 => deviceCtrs.map Ctr.index
  | 1 => (List.range 25).map fun i => 0x100 + i
  | 2 => linkCtrs.map Ctr.index
  | 3 => powerCtrs.map Ctr.index
  | 4 => [Ctr.eventsOverwritten.index]
  | _ => []

/-- The 32 bytes of an event (R486). -/
def eventBytes (e : Event) : List Byte := toBytes 32 (packFields [(0, 8, e.code.code), (32, 32, e.seq.toNat), (64, 64, e.time), (128, 128, e.args)])

/-- The oldest EVENT_SEQ that the log holds. -/
def oldestEvent (s : State) : Word32 := match s.events.events with
  | e :: _ => e.seq
  | [] => s.events.nextSeq

/-- The event log from a sequence number on (R485). -/
def eventRecord (s : State) (start : Nat) : ReadRecord :=
  { head := toBytes 16 (packFields [(0, 32, (oldestEvent s).toNat), (32, 32, s.events.nextSeq.toNat),
      (64, 64, counterVal s Ctr.eventsOverwritten.index)])
    items := (s.events.events.filter fun e => !seqBefore 32 e.seq.toNat start).map eventBytes }

/-- A group of the COUNTERS selector (R484, R485). -/
def countersRecord (s : State) (index : Nat) : Option ReadRecord :=
  let g := index % 256
  let cs := groupCounters g
  let vals := cs.map (counterVal s) ++ (if g = 1 then [s.faults.fences.length] else [])
  let ovf := packFields (cs.zipIdx.map fun e => (e.2, 1, b2n (Tab.getD s.counters.overflow e.1 false)))
  let rec' : ReadRecord :=
    { head := toBytes 16 (packFields [(0, 8, g), (8, 8, vals.length), (64, 64, ovf)]) ++ (vals.flatMap fun v => toBytes 8 v) ++
        (if g = 3 then toBytes 32 (telemetry s) else []) }
  if g = 4 then some (eventRecord s (bitsOf index 32 32))
  else if cs.isEmpty then none else some rec'

/-- The statistics counters of a group and their overflow bits are zeroed (R484). -/
def clearGroup (g : Nat) (s : State) : State :=
  let cs := groupCounters g
  { s with counters :=
      { values := s.counters.values.filter fun e => !cs.contains e.1
        overflow := s.counters.overflow.filter fun e => !cs.contains e.1 } }

/-! ### Accumulator frames (R140, R389) -/

/-- A frame as ACCUMULATOR returns it: the header, then 20 or 8 bytes an element (log entry 25). -/
def frameRecord (b : Bucket) : List Byte :=
  toBytes 16 (packFields [(0, 40, b.terms), (40, 1, b2n b.saturated)]) ++
    (match b.body with
     | .binned es => es.flatMap fun e =>
        ([e.s0, e.s1, e.s2, e.s3].flatMap fun x => toBytes 4 (f32OfInt x).toNat) ++
          toBytes 4 (packFields [(0, 8, e.topBin), (8, 2, specialCode e.special)])
     | .plain es => es.flatMap fun e => toBytes 8 (packFields [(0, 32, (e.sum.getD f0).toNat), (32, 2, specialCode e.special)])
     | .ext _ es => es.flatMap fun e =>
        toBytes 8 (packFields [(0, 32, ((e.best.map Prod.fst).getD f0).toNat), (32, 16, (e.best.map Prod.snd).getD 0xFFFF)])
     | .ints es => es.flatMap fun e => toBytes 8 e.toNat)

/-- Frames of a cluster among those of a look-up, as they stand (R140). -/
def framesOf (mode elems c : Nat) (f : Frames) : List Bucket :=
  (f.1.filter fun e => decide (e.1 % 512 = c)).map fun e => closeFrame mode elems e.1 f

/-- Frames of a look-up in a cluster: partials, and the bags whose home it is with what has been merged there (R140). -/
def lookFrames (w : LookupWork) (c : Nat) : List Bucket :=
  let mode := poolGroup w.poolMode w.plain
  let homes := (w.homes.filter fun e => decide (e.2 = c) && !w.delivered.contains e.1).map Prod.fst
  framesOf mode w.elems c (w.frames.filter fun e => !homes.contains (e.1 / 512), w.engines) ++
    homes.map fun b => mergeBucket (mergeParts w b) (closeFrame mode w.elems (b * 512 + c) (w.frames, w.engines))

/-- The frames that a cluster holds: those of look-ups in ascending order of task and bag, bags that are open there among them, then those of
other devices' look-ups, then buckets of SCATTER tasks, whole ones before shards (R140, R171, R273; log entry 25). -/
def clusterFrames (s : State) (c : Nat) : List Bucket :=
  (s.work.idx.lookups.flatMap fun l => lookFrames l.2 c) ++
    (s.work.chain.remotes.flatMap fun x => framesOf (poolGroup x.2.poolMode x.2.plain) x.2.elems c (x.2.frames, x.2.engines)) ++
    s.work.upd.works.flatMap fun w =>
      ((w.2.homes.filter fun e => decide (e.2 = c)).filterMap fun e => Tab.get? w.2.whole e.1) ++
        (w.2.shardAt.filter fun e => decide (e.2 = c)).filterMap fun e => Tab.get? w.2.partials e.1

/-! ### Selectors (R389, R522) -/

/-- The selectors that name a context. -/
def scopedSelector (sel : Nat) : Bool := [4, 5, 6, 7, 9].contains sel

/-- Selectors that the debug window serves (R389, R401). -/
def windowSelector (s : State) (sel : Nat) : Bool :=
  [1, 2, 3, 8, 11, 12, 13, 15, 16].contains sel || (decide (sel = 17) && s.sys.debugUnlocked)

/-- The table of a context; one that is being deleted still answers (R390). -/
def ctxTable (s : State) (ctx h : Nat) : Option Table := (tbl? s h).bind fun t => if t.ctx = ctx then some t else none

/-- A record of one part. -/
def plainRecord (bs : List Byte) : Except Status ReadRecord := .ok { head := bs }

/-- A record that is a list from the item `i` on. -/
def listRecord (i : Nat) (xs : List (List Byte)) : Except Status ReadRecord := .ok { items := xs.drop i }

/-- The queue that QUEUE and TASK name: of the issuer through the mailbox, any through the window. -/
def readQueue (s : State) (ctx : Option Nat) (qn : Nat) : Option Queue :=
  (Tab.get? s.queues qn).bind fun q => if ctx.all fun c => decide (q.ctx = c) then some q else none

/-- The record of a selector, or the status with which it is refused (R389, R522). `ctx` is none through the debug window. -/
def readRecord (s : State) (sel : Nat) (ctx : Option Nat) (i : Nat) : Except Status ReadRecord :=
  let c := ctx.getD 0
  match sel with
  | 1 => plainRecord (toBytes 256 (deviceRecord s))
  | 2 => match readQueue s ctx i with
    | some q => plainRecord (queueRecord s i q)
    | none => .error .noQueue
  | 3 =>
    let n := i % 2 ^ 32
    match readQueue s ctx (bitsOf i 32 10), task? s (bitsOf i 32 10) n with
    | none, _ => .error .noQueue
    | some _, none => .error .taskUnknown
    | some q, some t =>
      if seqDist 32 n q.nextSeq.toNat = 0 ∨ 65536 ≤ seqDist 32 n q.nextSeq.toNat then .error .taskUnknown
      else plainRecord (taskRecord s q t)
  | 4 => match ctxTable s c i with
    | some t => plainRecord (toBytes 128 t.desc.toNat ++ toBytes 8 (packFields [(0, 48, t.highest), (48, 3, workingState t)]))
    | none => .error .noTable
  | 5 => match ctxTable s c i with
    | some t => .ok { items := generationItems s i t }
    | none => .error .noTable
  | 6 => match ctxTable s c (keyHandle i) with
    | some t => if tdRowLimit t.desc < keyIndex i then .error .badRange else plainRecord (toBytes 16 (placementRecord s t i))
    | none => .error .noTable
  | 7 => match ctxTable s c i with
    | some t => plainRecord (partitionRecord s i t)
    | none => .error .noTable
  | 8 => if i < 32 then plainRecord (feedRecord s i) else .error .badReserved
  | 9 =>
    if i < 4096 then plainRecord ((List.range (min 64 (4096 - i))).flatMap fun k => toBytes 4 (semVal s c (i + k)))
    else .error .badReserved
  | 10 => listRecord i (s.ranges.map rangeBlock)
  | 11 => listRecord i (s.ats.outFaults.map fun e => toBytes 32 (e.2.spec s e.1))
  | 12 => if i < 8 then plainRecord (stackRecord s i) else .error .badReserved
  | 13 => listRecord i ((s.journal.ranges ++ s.journal.markers).map journalBytes)
  | 14 => listRecord i ((s.work.upd.maps.filter fun m => m.retained).map retainedBytes)
  | 15 => plainRecord (chainTable s)
  | 16 => match countersRecord s i with
    | some r => .ok r
    | none => .error .badSelector
  | 17 =>
    -- the accumulator memory of the cluster in INDEX [8:0], at frame INDEX [31:16] (R389, R402)
    if 512 ≤ bitsOf i 0 9 + 512 * bitsOf i 9 7 then .error .badReserved
    else match (clusterFrames s (i % 512))[bitsOf i 16 16]? with
      | some b => plainRecord (frameRecord b)
      | none => .error .badReserved
  | _ => .error .badSelector

/-! ### STATE_READ (R388) -/

/-- The argument block with SELECTOR, and CLEAR of COUNTERS, as the row gives them. -/
def readArgs (sel : Nat) (clear : Bool) (m : MbxCall) : BitVec 2048 :=
  let a := setField m.args 0 16 sel
  if sel = 16 then setField a 72 1 (b2n clear) else a

/-- MBX_RESULT of a STATE_READ: the record's first 248 bytes, and its whole length in the last eight (R388; log entry 26). -/
def readResult (bs : List Byte) : Nat := ofBytes (sliceBytes bs 0 248) + bs.length * 2 ^ 1984

/-- A STATE_READ row. -/
def stateRead (sel : Nat) (clear : Bool) (m : MbxCall) : State → Host.Outcome State Fault Refusal :=
  let a := readArgs sel clear m
  mbxRow (mailbox 0x02 true true false a (fun s =>
    let ctx := bits a 16 8
    let out := bits a 128 56
    let room := bits a 192 32
    let issuer := m.issuer % 256
    if !zeroFields a [(24, 40), (184, 8), (224, 1824)] || (!scopedSelector sel && decide (ctx ≠ 0)) then .refuse .badReserved
    else if scopedSelector sel && !(decide (ctx = issuer) && Tab.has s.ctxs ctx) then .refuse .badContext
    else if out ≠ 0 && !areaOk s issuer out room .w .stackOrPinned then .refuse .badAddress
    else match readRecord s sel (some issuer) (bits a 64 64) with
      | .error st => .refuse st
      | .ok r =>
        let s := if sel = 16 && clear then clearGroup (bits a 64 8) s else s
        let bs := r.fit room
        let s := if out = 0 then s else clearFences out bs.length (devWrite out bs s)
        let s := if sel = 6 then { s with freeCtr := s.freeCtr + 2 } else s
        .reply s .ok (readResult r.bytes)) m)

/-- STATE_READ DEVICE. -/
def execStateReadDevice (m : MbxCall) : State → Host.Outcome State Fault Refusal := stateRead 1 false m
/-- STATE_READ QUEUE. -/
def execStateReadQueue (m : MbxCall) : State → Host.Outcome State Fault Refusal := stateRead 2 false m
/-- STATE_READ TASK. -/
def execStateReadTask (m : MbxCall) : State → Host.Outcome State Fault Refusal := stateRead 3 false m
/-- STATE_READ TABLE. -/
def execStateReadTable (m : MbxCall) : State → Host.Outcome State Fault Refusal := stateRead 4 false m
/-- STATE_READ GENERATIONS. -/
def execStateReadGenerations (m : MbxCall) : State → Host.Outcome State Fault Refusal := stateRead 5 false m
/-- STATE_READ ROW_PLACEMENT. -/
def execStateReadRowPlacement (m : MbxCall) : State → Host.Outcome State Fault Refusal := stateRead 6 false m
/-- STATE_READ PARTITION. -/
def execStateReadPartition (m : MbxCall) : State → Host.Outcome State Fault Refusal := stateRead 7 false m
/-- STATE_READ FEED_CHANNEL. -/
def execStateReadFeedChannel (m : MbxCall) : State → Host.Outcome State Fault Refusal := stateRead 8 false m
/-- STATE_READ SEMAPHORES. -/
def execStateReadSemaphores (m : MbxCall) : State → Host.Outcome State Fault Refusal := stateRead 9 false m
/-- STATE_READ RANGES. -/
def execStateReadRanges (m : MbxCall) : State → Host.Outcome State Fault Refusal := stateRead 10 false m
/-- STATE_READ OUTSTANDING_FAULTS. -/
def execStateReadOutstandingFaults (m : MbxCall) : State → Host.Outcome State Fault Refusal := stateRead 11 false m
/-- STATE_READ STACK_PORT. -/
def execStateReadStackPort (m : MbxCall) : State → Host.Outcome State Fault Refusal := stateRead 12 false m
/-- STATE_READ JOURNAL. -/
def execStateReadJournal (m : MbxCall) : State → Host.Outcome State Fault Refusal := stateRead 13 false m
/-- STATE_READ RETAINED_MAPS. -/
def execStateReadRetainedMaps (m : MbxCall) : State → Host.Outcome State Fault Refusal := stateRead 14 false m
/-- STATE_READ CHAIN_TOPOLOGY. -/
def execStateReadChainTopology (m : MbxCall) : State → Host.Outcome State Fault Refusal := stateRead 15 false m
/-- STATE_READ COUNTERS without CLEAR. -/
def execStateReadCounters (m : MbxCall) : State → Host.Outcome State Fault Refusal := stateRead 16 false m
/-- STATE_READ COUNTERS with CLEAR (R484). -/
def execCountersClear (m : MbxCall) : State → Host.Outcome State Fault Refusal := stateRead 16 true m

/-- ENG_INFO (R391). -/
def execEngInfo (m : MbxCall) : State → Host.Outcome State Fault Refusal :=
  mbxRow (mailbox 0x01 false true false m.args (fun s =>
    if !zeroFields m.args [(0, 2048)] then .refuse .badReserved else .reply s .ok (deviceRecord s)) m)

/-! ### The debug window (R401, R402) -/

/-- DBG_GO takes one snapshot of the record that the selector names (R402). -/
def takeSnapshot (s : State) : State :=
  let sel := s.dbg.selector.toNat
  let set (st : Status) (bs : List Byte) : State :=
    { s with dbg := { s.dbg with status := BitVec.ofNat 16 st.code, length := BitVec.ofNat 32 bs.length, snapshot := bs } }
  if s.sys.engState = .reset then s
  else if !windowSelector s sel || (decide (sel = 17) && !(s.sys.lowerUp || s.sys.upperUp)) then set .badSelector []
  else match readRecord s sel none s.dbg.index.toNat with
    | .ok r => set .ok r.bytes
    | .error st => set st []

/-- STATE_READ_ACCUMULATOR: the frame is read through the debug window only, and in debug mode only (R42, R389, R401). The row stands for
the selector and the index written to the window's registers, and DBG_GO (log entry 25). -/
def execStateReadAccumulator (index : BitVec 64) (s : State) : Host.Outcome State Fault Refusal :=
  .next (if s.sys.engState = .reset then s
    else takeSnapshot { s with dbg := { s.dbg with selector := 0x0011, index := index } })

/-- DEBUG_SNAPSHOT. -/
def execDebugSnapshot (s : State) : Host.Outcome State Fault Refusal := .next (takeSnapshot s)

end Sys2Proof.Machine
end

