-- ==== Sys2Proof/Machine/HostRegs.lean ====
section
/-! DEFINITION. The registers of the host interface, the fault queue, interrupts, tickets, the driver's attachment and CHAIN_ENUM
(R8, R264, R351, R352, R355 to R360, R386, R392 to R395, R398, R400, R401). -/

namespace Sys2Proof.Machine

/-! ### Tickets (R358) -/

/-- The mask of outstanding tickets. -/
def ticketMask (s : State) : Nat := packFields (s.mbx.tickets.map fun e => (e.1, 1, 1))

/-- What CMD_POLL answers for a ticket. Before the command's end the manual states no status (log entry 27). -/
def pollResult (s : State) (r : Running) : Nat :=
  let st := if r.reported then (r.status.getD .ok).code else (Config.freeWord s.freeCtr).toNat % 2 ^ 16
  packFields [(0, 16, st), (16, 1, b2n r.reported), (32, 16, r.opcode), (64, 32, r.tag.toNat)] +
    (if r.reported then bits r.result 0 1920 * 2 ^ 128 else 0)

/-- CMD_POLL (R358): a ticket whose command has ended is freed. -/
def execCmdPoll (m : MbxCall) : State → Host.Outcome State Fault Refusal :=
  mbxRow (mailbox 0x03 false true false m.args (fun s =>
    let t := bits m.args 0 6
    if !zeroFields m.args [(6, 2042)] then .refuse .badReserved
    else match Tab.get? s.mbx.tickets t with
      | none => .refuse .noTicket
      | some r =>
        if r.reported then .reply { s with mbx := { s.mbx with tickets := Tab.del s.mbx.tickets t } } .ok (pollResult s r)
        else .reply { s with freeCtr := s.freeCtr + 1 } .ok (pollResult s r)) m)

/-- DEFERRED_COMMAND_END: a deferred command whose outcome is decided ends; its TICKET_DONE bit and the cause are set (R358). -/
def execDeferredCommandEnd (ticket : Nat) (s : State) : Host.Outcome State Fault Refusal :=
  .next (match Tab.get? s.mbx.tickets ticket with
    | none => s
    | some r =>
      if r.status.isNone || r.reported then s
      else raiseCause .ticketDone { s with mbx := { s.mbx with
        tickets := Tab.put s.mbx.tickets ticket { r with reported := true }
        ticketDone := s.mbx.ticketDone ||| BitVec.ofNat 64 (2 ^ ticket) } })

/-! ### Commands outside the table (R356, R360) -/

/-- The opcodes of R360. -/
def opcodes : List Nat :=
  [0x01, 0x02, 0x03, 0x04, 0x05, 0x10, 0x11, 0x12, 0x13, 0x14, 0x15, 0x20, 0x21, 0x22, 0x23, 0x24, 0x25, 0x26, 0x27, 0x30, 0x31, 0x32,
   0x33, 0x40, 0x50, 0x51, 0x52, 0x53, 0x54, 0x55]

/-- What a command of the table with a reserved operation, or STATE_READ with a reserved selector, is refused with (R224, R308, R329,
R344, R384, R389, R477, R495, R498, R503, R504). -/
def reservedOp (opcode : Nat) (a : BitVec 2048) : Option Status :=
  let among (lo len : Nat) (valid : List Nat) (st : Status) : Option Status := if valid.contains (bits a lo len) then none else some st
  match opcode with
  | 0x02 => among 0 16 [1, 2, 3, 4, 5, 6, 7, 8, 9, 10, 11, 12, 13, 14, 15, 16] .badSelector
  | 0x25 => among 0 4 [1, 2, 3, 4] .badReserved
  | 0x26 => among 4 2 [0, 1] .badReserved
  | 0x30 => among 0 4 [1, 2, 3, 4, 5] .badReserved
  | 0x31 => among 0 4 [1, 2, 3] .badReserved
  | 0x33 => among 0 4 [1, 2] .badReserved
  | 0x50 => among 0 4 [1, 2, 3, 4] .badReserved
  | 0x51 => among 0 4 [1, 2] .badReserved
  | 0x52 => among 0 4 [1, 2] .badReserved
  | 0x53 => among 0 4 [1, 2, 3, 4, 5] .badReserved
  | 0x54 => among 0 4 [1, 2, 3] .badReserved
  | 0x55 => among 0 4 [1, 2, 3] .badReserved
  | _ => none

/-- MAILBOX_BAD_OPCODE: an opcode outside R360. The row also carries a command of the table whose operation is reserved, which no
other row spells. DESIGN CHOICE (log entry 66). -/
def execMailboxBadOpcode (m : MbxCall) (opcode : Nat) : State → Host.Outcome State Fault Refusal :=
  mbxRow (fun s =>
    let op := opcode % 2 ^ 16
    if opcodes.contains op then
      match reservedOp op m.args with
      | some st => mailbox op false (decide (op = 0x02)) (decide (op = 0x51)) m.args (fun _ => .refuse st) m s
      | none => s
    else mailbox opcode false false false m.args (fun _ => .refuse .badOpcode) m s)

/-- MAILBOX_COLLISION: a GO while BUSY is 1 is discarded (R356). -/
def execMailboxCollision (_m : MbxCall) (_opcode : Nat) : State → Host.Outcome State Fault Refusal :=
  mbxRow (fun s => if hostUp s && s.mbx.busy then { s with mbx := { s.mbx with collision := true } } else s)

/-! ### HOST_ATTACH and the journal (R398, R400) -/

/-- The result block of HOST_ATTACH, over the state before it. -/
def attachResult (s : State) : Nat :=
  packFields [(0, 64, s.attach.preservedAddr.toNat), (64, 64, s.attach.preservedBytes.toNat), (128, 64, s.attach.driverCookie.toNat),
    (192, 32, (s.sys.attachEpoch + 1).toNat), (224, 16, s.journal.ranges.length + s.journal.markers.length), (256, 64, ticketMask s)]

/-- HOST_ATTACH (R400). Without SET_PRESERVED its fields are unused. -/
def execHostAttach (m : MbxCall) : State → Host.Outcome State Fault Refusal :=
  mbxRow (mailbox 0x04 false false false m.args (fun s =>
    let a := m.args
    let set := bit a 0
    if !zeroFields a [(2, 62), (256, 1792)] || (!set && !zeroFields a [(64, 192)]) then .refuse .badReserved
    else
      let res := attachResult s
      let s := if s.attach.lossSinceAttach && !bit a 1 then loseTier 2 3 (fun _ => true) s else s
      let p (lo : Nat) : Word64 := BitVec.ofNat 64 (bits a lo 64)
      let att : Attach := if set then { s.attach with
          preservedAddr := p 64, preservedBytes := p 128, driverCookie := p 192, lossSinceAttach := false }
        else { s.attach with lossSinceAttach := false }
      .reply { s with attach := att, sys := { s.sys with hostAttached := true, attachEpoch := s.sys.attachEpoch + 1 } } .ok res) m)

/-- JOURNAL_CLEAR (R398). -/
def execJournalClear (m : MbxCall) : State → Host.Outcome State Fault Refusal :=
  mbxRow (mailbox 0x05 false false false m.args (fun s =>
    if !zeroFields m.args [(0, 2048)] then .refuse .badReserved else .reply { s with journal := {} } .ok 0) m)

/-! ### CHAIN_ENUM (R264, R386) -/

/-- The chain table is written at an address. -/
def writeTopology (a : Nat) (s : State) : State :=
  let bs := chainTable s
  clearFences a bs.length (devWrite a bs s)

/-- CHAIN_ENUM READ_TOPOLOGY (R386). -/
def execReadTopology (m : MbxCall) : State → Host.Outcome State Fault Refusal :=
  let a := setField m.args 0 1 0
  mbxRow (mailbox 0x40 true false false a (fun s =>
    let addr := bits a 64 56
    if !zeroFields a [(1, 63), (120, 1928)] then .refuse .badReserved
    else if !areaOk s (m.issuer % 256) addr 400 .w .stackOrPinned then .refuse .badAddress
    else .reply (writeTopology addr s) .ok 0) m)

/-- This device holds an ACTIVE REDUCE, a sharded table or an open window (R264). -/
def chainHeld (s : State) : Bool :=
  s.tasks.any (fun e => decide (e.2.ttype = .reduce) && decide (e.2.state = .active)) ||
    s.work.tbl.tables.any (fun e => tdSharded e.2.desc) || !s.windows.isEmpty

/-- CHAIN_ENUM REENUMERATE (R264): `busyElsewhere` says that another device of the chain holds one of these. -/
def execReenumerate (m : MbxCall) (busyElsewhere : Bool) : State → Host.Outcome State Fault Refusal :=
  let a := setField m.args 0 1 1
  mbxRow (mailbox 0x40 true false false a (fun s =>
    if !zeroFields a [(1, 2047)] then .refuse .badReserved
    else if !s.sys.chainRoot then .refuse .notRoot
    else if chainHeld s || busyElsewhere then .refuse .chainBusy
    else
      let s := enumStart s
      if s.work.chain.token then .waits s .reenumerate else .reply s .ok 0) m)

/-! ### The fault queue (R392, R393) -/

/-- Records of faults on which streams wait are written while there is room, in the order in which the faults arose, with the waiters they
then hold; then their page requests go out (R340, R393). Faults that nothing waits for any more are passed over. -/
def drainFaults : Nat → State → State
  | 0, s => s
  | n + 1, s =>
    if fqFull s.fq then s
    else match s.fq.waiting with
      | [] => s
      | r :: rest =>
        let s := { s with fq := { s.fq with waiting := rest } }
        match r.tag with
        | none => drainFaults n s
        | some k => match Tab.get? s.ats.outFaults k with
          | none => drainFaults n s
          | some e =>
            if e.recorded then drainFaults n s
            else
              let r' : FaultRecord := { r with deferred := true, spec := e.spec s k }
              drainFaults n (sendPageRequest k (updFault k (fun e => { e with recorded := true }) (fqWrite r' s)))

/-- LINK records of start-up are written while there is room (R515). -/
def drainKept : Nat → State → State
  | 0, s => s
  | n + 1, s =>
    if fqFull s.fq then s
    else match s.fq.kept with
      | [] => s
      | r :: rest => drainKept n (fqWrite r { s with fq := { s.fq with kept := rest } })

/-- Records that have waited are written. -/
def drainRecords (s : State) : State :=
  let s := drainKept s.fq.kept.length s
  drainFaults s.fq.waiting.length s

/-- FQ_ENABLE_WRITE (R392). -/
def execFqEnableWrite (enable : Bool) : State → Host.Outcome State Fault Refusal :=
  mbxRow (fun s =>
    if !hostUp s || s.fq.enable == enable then s
    else if enable then drainRecords { s with fq := { s.fq with enable := true, prod := 0, cons := 0 } }
    else fqEdge s.fq { s with fq := { s.fq with enable := false } })

/-- CLEAR_DROPPED (R392). -/
def execClearDropped : State → Host.Outcome State Fault Refusal :=
  mbxRow (fun s => if hostUp s then { s with fq := { s.fq with dropped := 0, droppedOvf := false, classDropped := [] } } else s)

/-- FQ_CONS_WRITE (R392, R393). -/
def execFqConsWrite (value : Word32) : State → Host.Outcome State Fault Refusal :=
  mbxRow (fun s =>
    if !hostUp s then s
    else
      let s' := { s with fq := { s.fq with cons := value } }
      drainRecords (fqEdge s.fq s'))

/-! ### Interrupts (R394, R395) -/

/-- A vector's entry is unmasked while MSI-X is enabled: its pending message goes out. -/
def unmaskVector (v : Nat) (s : State) : State :=
  let e := Tab.getD s.irq.msixTable v {}
  let s := { s with irq := { s.irq with msixTable := Tab.put s.irq.msixTable v { e with masked := false } } }
  if s.irq.msixEnable && s.irq.pending.contains v then
    send (.msix v e.addr e.data) { s with irq := { s.irq with pending := s.irq.pending.filter fun x => decide (x ≠ v) } }
  else s

/-- MSIX_UNMASK: the host has MSI-X enabled and the vector unmasked (R395). -/
def execMsixUnmask (vector : Nat) : State → Host.Outcome State Fault Refusal :=
  mbxRow (fun s =>
    if !hostUp s || decide (1024 ≤ vector) then s
    else unmaskVector vector { s with irq := { s.irq with msixEnable := true } })

/-- HOLDOFF_EXPIRE: the coalesced interrupt of a queue is sent (R395). -/
def execHoldoffExpire (queue : Nat) : State → Host.Outcome State Fault Refusal :=
  live fun s =>
    match Tab.get? s.queues queue with
    | none => s
    | some q => if q.holdoffPending then sendVector q.vector (updQueue queue (fun q => { q with holdoffPending := false }) s) else s

/-! ### Register writes (R8, R352) -/

/-- Bits of a register that are written 1 to clear. -/
def clearBits {w : Nat} (x : BitVec w) (v : Nat) : BitVec w := x &&& ~~~ (BitVec.ofNat w v)

/-- A 32-bit write in the mailbox block (R355). -/
def writeMbx (off v : Nat) (x : Mailbox) : Mailbox :=
  if off = 0x100 then { x with opcode := BitVec.ofNat 16 v, issuer := BitVec.ofNat 8 (v / 2 ^ 16) }
  else if off = 0x104 then { x with tag := BitVec.ofNat 32 v }
  else if off = 0x108 then { x with done := x.done && !v.testBit 1, collision := x.collision && !v.testBit 2 }
  else if off = 0x110 then { x with ticketDone := clearBits x.ticketDone v }
  else if off = 0x114 then { x with ticketDone := clearBits x.ticketDone (v * 2 ^ 32) }
  else if 0x180 ≤ off ∧ off < 0x280 then { x with args := setField x.args (8 * (off - 0x180)) 32 v }
  else x

/-- A 32-bit write in the debug window (R401). -/
def writeDbg (off v : Nat) (x : DebugWin) : DebugWin :=
  if off = 0x1000 then { x with selector := BitVec.ofNat 16 v, ctx := BitVec.ofNat 8 (v / 2 ^ 16) }
  else if off = 0x1004 then { x with offset := BitVec.ofNat 24 (v / 2 ^ 8) }
  else if off = 0x1008 then { x with index := setField x.index 0 32 v }
  else if off = 0x100C then { x with index := setField x.index 32 32 v }
  else x

/-- A 32-bit write of BAR0. -/
def writeBar0 (off v : Nat) (s : State) : State :=
  if 0x100 ≤ off ∧ off < 0x400 then { s with mbx := writeMbx off v s.mbx }
  else if off = 0x400 ∨ off = 0x404 then
    if s.fq.enable then s else { s with fq := { s.fq with base := setField s.fq.base (8 * (off - 0x400)) 32 v } }
  else if off = 0x800 then
    { s with irq := { s.irq with causes := clearBits s.irq.causes v, enables := BitVec.ofNat 7 (v / 2 ^ 16) } }
  else if 0x1000 ≤ off then { s with dbg := writeDbg off v s.dbg }
  else s

/-- A 32-bit write of an entry of the MSI-X table in BAR4 (R351). -/
def writeMsix (off v : Nat) (s : State) : State :=
  let k := off / 16
  let e := Tab.getD s.irq.msixTable k {}
  let put (e : MsixEntry) : State := { s with irq := { s.irq with msixTable := Tab.put s.irq.msixTable k e } }
  if 0x4000 ≤ off then s
  else match off % 16 with
    | 0 => put { e with addr := setField e.addr 0 32 v }
    | 4 => put { e with addr := setField e.addr 32 32 v }
    | 8 => put { e with data := BitVec.ofNat 32 v }
    | _ => if v.testBit 0 then put { e with masked := true } else unmaskVector k s

/-- A 32-bit write at an aligned offset. The doorbell pages of BAR2 have no field without behaviour of its own. -/
def writeReg (bar : Bar) (off v : Nat) (s : State) : State :=
  match bar with
  | .bar0 => writeBar0 off v s
  | .bar2 => s
  | .bar4 => writeMsix off v s

/-- REGISTER_WRITE: an aligned write of 32 or 64 bits; a 64-bit write acts as its two halves (R352). -/
def execRegisterWrite (bar : Bar) (offset : Nat) (wide : Bool) (value : Word64) : State → Host.Outcome State Fault Refusal :=
  mbxRow (fun s =>
    if !hostUp s || decide (offset % (if wide then 8 else 4) ≠ 0) then s
    else
      let s := writeReg bar offset (value.toNat % 2 ^ 32) s
      if wide then writeReg bar (offset + 4) (value.toNat / 2 ^ 32) s else s)

end Sys2Proof.Machine
end

