-- ==== Sys2Proof/Machine/Ports.lean ====
section
/-! DEFINITION. CXL and debug traffic over UCIe (R411, R412), expander links (R253, R423), peer links and their flits (R257 to R259, R417,
R423), and the packets of the chain that no other part handles (R257, R266, R269). -/

namespace Sys2Proof.Machine

/-! ### CXL over UCIe (R411) -/

/-- The context of CXL.mem requests on a module (R411, R512). -/
def cxlContext (s : State) (m : Nat) : Nat := bitsOf s.sys.cfg.cxlCtx (8 * m) 8

/-- Credits for a request are granted again (R409): a 16-byte header and its data. -/
def cxlCredit (m : Nat) (r : CxlReq) (s : State) : State :=
  sendControl m (creditMsg 1 0 (1 + (if r.write then unitsOfMsg r.data else 0))) s

/-- A failed check: MEM_ERROR and a TRANSLATION record (R411, R342). FAULT_KIND 3 to 5 are REASON 1 to 3. -/
def cxlRefuse (m tag kind acc ctx addr : Nat) (s : State) : State :=
  memError m tag (kind - 2) (faultRecord
    { cls := .translation, sev := .info, ctx := some ctx, spec := transSpec kind acc (faultPage s addr).1 ctx 0 addr (faultPage s addr).2 0 0 0 0xFFFF } s)

/-- A request that passes its check is served where its address lies: through a window, or in memory. A tier that cannot be reached
answers nothing. -/
def cxlServe (m : Nat) (r : CxlReq) (a n : Nat) (s : State) : State :=
  match rangeAt s a n with
  | none => s
  | some (base, g) =>
    if g.kind = .peer then
      let s := peerSend 9 g.chainAddr windowJob g.ctx 0 true
        (windowHead (if r.write then 3 else 1) 0 0 g.windowId (g.hostStart + (a - base)) n ++ (if r.write then r.data else [])) s
      updChain (fun c => { c with
        windowReqs := Tab.put c.windowReqs c.nextTag { transfer := 0, dst := g.chainAddr, cxl := some (m, r.tag) }, nextTag := c.nextTag + 1 }) s
    else if endUnreachable s a || (needsHost s a n && !hostUp s) then s
    else if r.write then send (.cxlDone m r.tag) (clearFences a n (devWrite a r.data s))
    else match areaFenced s a n with
      | some _ => memError m r.tag 4 s
      | none => send (.cxlData m r.tag (devRead s a n)) s

/-- CXL_MEM_REQUEST (R411): the address less the decoder's base, checked at memory as a request of the module's context. -/
def execCxlMemRequest (module : Nat) (r : CxlReq) : State → Host.Outcome State Fault Refusal :=
  live fun s =>
    let n := if r.write then r.data.length else r.len
    if !carries s module 1 || decide (n = 0) then s
    else
      let s := cxlCredit module r s
      let ctx := cxlContext s module
      let base := (ucieOf s module).hdmBase
      let right : Right := if r.write then .w else .r
      if r.addr < base then cxlRefuse module r.tag 3 right.bit ctx (r.addr + 2 ^ 56 - base) s
      else match accessFault s ctx right (r.addr - base) n with
        | some (kind, addr) => cxlRefuse module r.tag kind right.bit ctx addr s
        | none => cxlServe module r (r.addr - base) n s

/-- CXL_IO_TLP: configuration software sets the base of the module's HDM decoder (R411). -/
def execCxlIoTlp (module decoderBase : Nat) : State → Host.Outcome State Fault Refusal :=
  live fun s =>
    if carries s module 3 then
      sendControl module (creditMsg 3 0 2) (putUcie module { ucieOf s module with hdmBase := decoderBase } s)
    else s

/-! ### Debug access over UCIe (R401, R402, R412) -/

/-- The debug window's fields, without DBG_DATA (R401). -/
def windowFields (s : State) : Nat :=
  packFields [(0, 16, s.dbg.selector.toNat), (16, 8, s.dbg.ctx.toNat), (40, 24, s.dbg.offset.toNat), (64, 64, s.dbg.index.toNat),
    (144, 16, s.dbg.status.toNat), (160, 32, s.dbg.length.toNat)]

/-- Eight bytes of the debug window: fields, then 3,840 B of the record from DBG_OFFSET (R401, R402). -/
def windowRead (s : State) (off : Nat) : Nat :=
  if off < 256 then bitsOf (windowFields s) (8 * off) 64
  else ofBytes (sliceBytes s.dbg.snapshot (s.dbg.offset.toNat + (off - 256)) 8)

/-- A write of eight bytes of the debug window; DBG_GO takes the snapshot. -/
def windowStore (off : Nat) (value : Word64) (s : State) : State :=
  let s := writeBar0 (0x1004 + off) (value.toNat / 2 ^ 32) (writeBar0 (0x1000 + off) (value.toNat % 2 ^ 32) s)
  if off = 16 ∧ value.toNat.testBit 0 then takeSnapshot s else s

/-- UCIE_DEBUG_ACCESS (R412): DEBUG messages are accepted only where the boot configuration says so, and otherwise counted. -/
def execUcieDebugAccess (module offset : Nat) (write : Bool) (value : Word64) (s : State) : Host.Outcome State Fault Refusal :=
  .next (if !carries s module 5 then s
    else if !s.sys.cfg.ucieDebug then count .ucieDebugDiscarded 1 s
    else if offset % 8 ≠ 0 ∨ 4096 ≤ offset then s
    else
      let s := sendControl module (creditMsg 5 0 1) s
      if write then windowStore offset value s else send (.debugReply module offset (BitVec.ofNat 64 (windowRead s offset))) s)

/-! ### Expander links (R253, R423) -/

/-- The expander's link. -/
def expander (s : State) (e : Nat) : Link := Tab.getD s.links.expanders e {}

/-- An expander's link is put. -/
def putExpander (e : Nat) (l : Link) (s : State) : State := { s with links := { s.links with expanders := Tab.put s.links.expanders e l } }

/-- The expander port exists (R416). -/
def expanderPort (s : State) (e : Nat) : Bool := Tab.has s.links.expanders e

/-- Transfers in flight at a port end, and their tasks with TIER_UNAVAILABLE (R253). -/
def failPort (p : Nat) (s : State) : State :=
  (s.streams.transfers.filter fun e => e.2.issued && (transferPorts s e.2).contains p).foldl (fun (s : State) (e : Nat × Transfer) =>
    afterTransfer (failTask e.2.queue e.2.seq .tierUnavailable {} (breakTransfer e.1 e.2 s))) s

/-- EXPANDER_LINK_DOWN. -/
def execExpanderLinkDown (port : Nat) : State → Host.Outcome State Fault Refusal :=
  live fun s =>
    let l := expander s port
    if !l.up then s
    else
      let s := failPort (8 + port) (putExpander port { l with up := false, lanes := 0 } s)
      faultRecord (linkRecord 3 5 port l.lanes 0 0) (linkDegraded 5 port l.lanes 0 0 s)

/-- EXPANDER_LINK_UP: the link is back at its full width of eight lanes. -/
def execExpanderLinkUp (port : Nat) : State → Host.Outcome State Fault Refusal :=
  live fun s =>
    let l := expander s port
    if l.up || !expanderPort s port then s else putExpander port { l with up := true, lanes := 8 } s

/-- EXPANDER_LINK_DEGRADE: a change of width under CXL. -/
def execExpanderLinkDegrade (port lanes : Nat) : State → Host.Outcome State Fault Refusal :=
  live fun s =>
    let l := expander s port
    if !l.up || decide (lanes = 0) || decide (8 < lanes) || decide (lanes = l.lanes) then s
    else
      let s := linkDegraded 5 port l.lanes lanes 0 (putExpander port { l with lanes := lanes } s)
      whenS (decide (lanes < l.lanes)) (faultRecord (linkRecord 2 5 port l.lanes lanes 0)) s

/-! ### Peer links (R258, R417, R423) -/

/-- A peer link is put. -/
def putPeer (p : Nat) (l : Link) (s : State) : State := { s with links := { s.links with peers := Tab.put s.links.peers p l } }

/-- The key of a row that a look-up still needs from a device that cannot be reached (R253, R259). -/
def strandedKey (s : State) (w : LookupWork) : Option Nat :=
  (w.dir.find? fun (d : DirEntry) => w.far.contains d.key &&
    !reachable s (match tbl? s (keyHandle d.key) with
      | some t => ownerIn (Tab.getD s.work.chain.maps (tdShardMap t.desc) {}) (keyIndex d.key)
      | none => s.work.chain.addr) &&
    d.refs.any fun (r : Ref) => !Tab.has w.done r.bag).map DirEntry.key

/-- Look-ups that need rows of an unreachable device end with TIER_UNAVAILABLE (R253, R259). -/
def failStranded (s : State) : State :=
  s.work.idx.lookups.foldl (fun (s : State) (e : Nat × LookupWork) =>
    match strandedKey s e.2 with
    | some key => failTask (e.1 / 2 ^ 32) (e.1 % 2 ^ 32) .tierUnavailable (detKey key) s
    | none => s) s

/-- The token that was offered on a link that is down goes on without it (R262). -/
def passToken (port : Nat) (s : State) : State :=
  if s.work.chain.token ∧ s.work.chain.offered = some port then enumAdvance (updChain (fun c => { c with offered := none }) s) else s

/-- Routes have changed from those of `before`: flows are sent again, and what waits for a device that can no longer be reached ends (R253, R257 to
R259, R271, R283). -/
def routesChanged (before s : State) : State := installsLost (lateUnreachable (failStranded (resendFlows before s)))

/-- A link of this device has changed: the other devices are told, and routes are computed again (R258). -/
def linkChanged (before : State) (port lanes : Nat) (up : Bool) (l : Link) (s : State) : State :=
  let s := markLink port lanes up (putPeer port l s)
  let s := routesChanged before s
  if s.work.chain.valid then sendLinks (portLinks port lanes up s) s else s

/-- CHAIN_TABLE: the device receives the chain table, and its address becomes valid; later, entries of links between other devices that have
changed, and routes are computed again (R258, R260, R261). -/
def execChainTable (port : Nat) (hdr : Word128) (payload : List Byte) : State → Host.Outcome State Fault Refusal :=
  let p : PeerPkt := { port := port, hdr := hdr, payload := payload }
  live fun s =>
    if awaitsTable s p then takeTable p s
    else onControl .chainTable p (fun bs s' =>
      if bitsOf (ctlHead bs) 32 32 = s.work.chain.epoch.toNat then
        routesChanged s (updChain (fun c => { c with links := newLinks (linksOf bs) c.links }) s')
      else s') s

/-- PEER_LINK_DOWN: routes change, and the flows that they carried are sent again (R257 to R259, R423). -/
def execPeerLinkDown (port : Nat) : State → Host.Outcome State Fault Refusal :=
  live fun s =>
    let l := peerLink s port
    if !l.up then s
    else
      let s := passToken port (linkChanged s port 0 false { l with up := false, lanes := 0 } s)
      faultRecord (linkRecord 3 3 port l.lanes 0 0) (linkDegraded 3 port l.lanes 0 0 s)

/-- PEER_LINK_UP: routes are computed again, and flows that had none are sent again (R258, R259). -/
def execPeerLinkUp (port lanes : Nat) : State → Host.Outcome State Fault Refusal :=
  live fun s =>
    let l := peerLink s port
    if l.up || decide (roleOf s.sys.cfg.roleTable port ≠ 3) || !([4, 8, 16].contains lanes) || decide (s.sys.bootStep < 11) then s
    else linkChanged s port lanes true { l with up := true, lanes := lanes } s

/-- PEER_LINK_DEGRADE: x16 to x8 to x4 (R423). -/
def execPeerLinkDegrade (port lanes : Nat) : State → Host.Outcome State Fault Refusal :=
  live fun s =>
    let l := peerLink s port
    if !l.up || !([4, 8].contains lanes) || decide (l.lanes ≤ lanes) then s
    else
      faultRecord (linkRecord 2 3 port l.lanes lanes 0) (linkDegraded 3 port l.lanes lanes 0
        (linkChanged s port lanes true { l with lanes := lanes } s))

/-- Words of a flit that decode with a correction, by position. -/
def correctedIn (ws : List CodeWord) : List (Nat × Nat) :=
  ws.zipIdx.filterMap fun e => match decodeWord e.1 with
    | .corrected j _ => some (e.2, j)
    | _ => none

/-- Positions of the words of a flit that cannot be corrected. -/
def lostIn (ws : List CodeWord) : List Nat :=
  ws.zipIdx.filterMap fun e => match decodeWord e.1 with
    | .uncorrectable => some e.2
    | _ => none

/-- PEER_FLIT_RECEIVE: sixteen words; one that cannot be corrected has the flit sent again (R417, R440). -/
def execPeerFlitReceive (port : Nat) (words : List CodeWord) : State → Host.Outcome State Fault Refusal :=
  live fun s =>
    if !(peerLink s port).up || decide (words.length ≠ 16) then s
    else if (lostIn words).isEmpty then countCorrected .peer (correctedIn words).length s
    else send (.peerResend port) s

/-! ### Packets -/

/-- CODE_NOTICE: which slot of a context is ACTIVE at the sender, and the CRC-32C of its image (R269). -/
def execCodeNotice (p : PeerPkt) : State → Host.Outcome State Fault Refusal :=
  live fun s => onControl .codeNotice p (fun bs s =>
    let h := ctlHead bs
    let k := pktSrc p * 256 + pktCtx p
    updChain (fun c => { c with
      notices := if bitsOf h 8 8 = 1 then Tab.put c.notices k (bitsOf h 16 16, bitsOf h 32 32) else Tab.del c.notices k }) s) s

/-- Slots whose release may now be complete, as packets that named them are acknowledged (R246). -/
def codesFreed (ps : List SentPkt) (s : State) : State :=
  (ps.filter fun p => bit p.hdr 40).foldl (fun s p => codeReleaseCheck (bits p.hdr 32 8) (bits p.hdr 41 2) s) s

/-- ACK: the packets of the flow up to AUX are released (R257). -/
def execAck (p : PeerPkt) : State → Host.Outcome State Fault Refusal :=
  live fun s =>
    if !peerUp s p.port || !s.work.chain.valid || decide (pktType p ≠ 11) || pktBad p then s
    else if pktDst p ≠ s.work.chain.addr then forwardPkt p s
    else
      let k := flowKey (pktSrc p) (pktJob p)
      let f := Tab.getD s.work.chain.flows k {}
      let old (x : SentPkt) : Bool := !seqBefore 32 (pktAux p) x.seq
      let f' : Flow := { f with unacked := f.unacked.filter fun x => !old x }
      if Tab.has s.work.chain.flows k then
        codesFreed (f.unacked.filter old) (updChain (fun c => { c with flows := Tab.put c.flows k f' }) s)
      else s

/-- A window packet whose sub-header has a reserved operation or a reserved field that is not zero. -/
def windowPktBad (p : PeerPkt) : Bool :=
  let h := ctlHead p.payload
  decide (pktType p = 9) && (windowBad h || decide (bitsOf h 0 4 = 0) || decide (5 < bitsOf h 0 4))

/-- PEER_BAD_PACKET: discarded, counted and acknowledged (R266). -/
def execPeerBadPacket (p : PeerPkt) : State → Host.Outcome State Fault Refusal :=
  live fun s =>
    if !peerUp s p.port || !s.work.chain.valid || !(pktBad p || windowPktBad p || groupPktBad s p) then s
    else if pktDst p ≠ s.work.chain.addr then forwardPkt p s
    else if pktOld s p then count .peerBadPackets 1 (ackAgain (pktSrc p) (pktJob p) s)
    else if pktAhead s p then s
    else count .peerBadPackets 1 (pktAccept p s)

/-- UNCODED_RESEND_REQUEST: the packet that the destination could not decode goes again raw, and those after it in its flow follow (R257, R269). -/
def execUncodedResendRequest (p : PeerPkt) : State → Host.Outcome State Fault Refusal :=
  live fun s => onControl .uncoded p (fun bs s =>
    let h := ctlHead bs
    let k := flowKey (pktSrc p) (bitsOf h 16 16)
    match (Tab.getD s.work.chain.flows k {}).unacked.find? fun x => decide (x.seq = bitsOf h 32 32) with
    | none => s
    | some x =>
      let hdr := peerHeader (bits x.hdr 0 4) (bits x.hdr 4 4) (bits x.hdr 8 4) (bits x.hdr 16 12) (bits x.hdr 32 8) 0 x.seq
        (x.raw.length / 16) (bit x.hdr 43) none
      let x' : SentPkt := { x with hdr := hdr, payload := x.raw }
      let s := updChain (fun c => { c with flows := Tab.upd c.flows k fun f =>
        { f with unacked := f.unacked.map fun y => if y.seq = x.seq then x' else y } }) s
      codesFreed [x] (resendFlow k { unacked := ((Tab.getD s.work.chain.flows k {}).unacked.dropWhile fun y => decide (y.seq ≠ x.seq)) } s)) s

end Sys2Proof.Machine
end

