-- ==== Sys2Proof/Machine/Clusters.lean ====
section
/-! DEFINITION. Sparing (R451 to R454): cores are replaced, and clusters leave service (R158, R184, R185, R241, R294). -/

namespace Sys2Proof.Machine

/-- A SPARING record (R458, R521). -/
def sparingRecord (action new left unit : Nat) (sev : Severity) (s : State) : State :=
  faultRecord
    { cls := .sparing, sev := sev, location := unit
      spec := packFields [(0, 4, action), (16, 12, new), (32, 16, left), (64, 64, unit)] } s

/-- The location code names a word of a core's bank (R459). -/
def inBank (core loc : Nat) : Bool := decide (loc % 16 = 1) && decide (bitsOf loc 4 20 = core)

/-- CORE_REPLACE_DONE (R453): the map entry switches to the spare, and the work held for the core goes on. The rows of the bank keep
their bytes. -/
def execCoreReplaceDone (core : Nat) : State → Host.Outcome State Fault Refusal :=
  live fun s =>
    match Tab.get? s.faults.replacing core with
    | none => s
    | some p =>
      let c := core / 2048
      let old := physicalOf s c (core % 2048)
      let m := Tab.getD s.faults.coreMaps c {}
      let m := { m with replaced := Tab.put m.replaced (core % 2048) p, worn := insertBy id old m.worn }
      let s := { s with faults := { s.faults with
        replacing := Tab.del s.faults.replacing core
        coreMaps := Tab.put s.faults.coreMaps c m
        marks := s.faults.marks.filter fun e => !inBank core e.1
        hard := s.faults.hard.filter fun l => !inBank core l
        fences := s.faults.fences.filter fun e => !inBank core e.1
        recent := s.faults.recent.filter fun e => decide (e.1 ≠ core)
        programRecent := s.faults.programRecent.filter fun e => decide (e.1 ≠ core) } }
      logRepair 1 (c + old * 512) (locBank core 0)
        (sparingRecord 1 p (spareCores s c) (locBank core 0) .degraded s)

/-- ISLAND_CLOCK_LOCK_LOSS (R454). -/
def execIslandClockLockLoss (c : Nat) : State → Host.Outcome State Fault Refusal := live (mustLeave c)

/-! ### What a cluster held -/

/-- The bags of a look-up that are undone when a cluster leaves: those not sent that have a frame or their home there (R158). -/
def bagsUndone (c : Nat) (w : LookupWork) : List Nat :=
  let here := (w.homes.filter fun e => decide (e.2 = c)).map Prod.fst
  let parts := (w.frames.filter fun e => decide (e.1 % 512 = c)).map fun (e : Nat × Bucket) => e.1 / 512
  (here ++ parts).eraseDups.filter fun b => !w.sent.contains b

/-- References of a run that belong to the bags, by the bags' numbers. -/
def runBags (w : LookupWork) (key off : Nat) (bags : List Nat) : List Nat :=
  match w.dir.find? fun e => decide (e.key = key) with
  | some e => ((((e.refs.drop off).take 64).map Ref.bag).eraseDups).filter fun b => bags.contains b
  | none => []

/-- A look-up without the cluster (R158): every partial and frame held there is discarded, its rows there are let go, and every bag that had
one there, or its home, opens again and is pooled again from its rows. Partials that other devices have sent are kept for the bag
(log entry 50). -/
def lookLeaves (here c : Nat) (w : LookupWork) : LookupWork :=
  let bags := bagsUndone c w
  let again := w.runs.filterMap fun r => match runBags w r.1 r.2.1 bags with
    | [] => none
    | bs => some (r.1, r.2.1, bs)
  let wider := w.redo.map fun x => (x.1, x.2.1, (x.2.2 ++ runBags w x.1 x.2.1 bags).eraseDups)
  let other := w.parts.filter fun e => bags.contains (e.1 / 8192) && decide (e.1 / 512 % 16 ≠ here)
  { w with
    frames := w.frames.filter fun e => !bags.contains (e.1 / 512)
    engines := w.engines.filter fun e => !bags.contains (e.1 / 2048 / 512)
    parts := w.parts.filter fun e => !bags.contains (e.1 / 8192)
    early := other.foldl (fun t e => Tab.put t e.1 e.2) w.early
    homes := w.homes.filter fun e => !bags.contains e.1
    done := w.done.filter fun e => !bags.contains e.1
    rows := w.rows.filter fun e => decide (e.2.cluster ≠ c)
    runs := w.runs.filter fun r => (runBags w r.1 r.2.1 bags).isEmpty
    redo := wider ++ again }

/-- An update without the cluster (R184): the buckets held there are discarded, and combined again from the map and the gradient area. -/
def updLeaves (c : Nat) (w : UpdateWork) : UpdateWork :=
  let here := (w.homes.filter fun e => decide (e.2 = c)).map Prod.fst
  let shards := (w.shardAt.filter fun e => decide (e.2 = c)).map fun (e : Nat × Nat) => e.1 / 2 ^ 24
  let ks := (here ++ shards).eraseDups
  { w with
    homes := w.homes.filter fun e => !ks.contains e.1
    whole := w.whole.filter fun e => !ks.contains e.1
    partials := w.partials.filter fun e => !ks.contains (e.1 / 2 ^ 24)
    shardAt := w.shardAt.filter fun e => !ks.contains (e.1 / 2 ^ 24)
    runs := w.runs.filter fun r => !ks.contains r.1 }

/-- Another device's look-up without the cluster: the bags that had a frame there are pooled again from their rows (R158, R273). -/
def remoteLeaves (c : Nat) (x : RemoteTask) : RemoteTask :=
  let bags := ((x.frames.filter fun e => decide (e.1 % 512 = c)).map fun e => e.1 / 512).eraseDups
  let part (keep : Bool) : List (Nat × List Ref) :=
    (x.pooled.map fun e => (e.1, e.2.filter fun r => bags.contains r.bag == keep)).filter fun e => !e.2.isEmpty
  if bags.isEmpty then x
  else { x with
    frames := x.frames.filter fun e => !bags.contains (e.1 / 512)
    engines := x.engines.filter fun e => !bags.contains (e.1 / 2048 / 512)
    pooled := part false
    held := (false, (part true).flatMap fun e => probeEntry (decide (x.poolMode = 2)) e.1 e.2) :: x.held }

/-- The work of every task without the cluster. -/
def worksLeave (c : Nat) (s : State) : State :=
  let s := updIdx (fun i => { i with lookups := i.lookups.map fun e => (e.1, lookLeaves (me s) c e.2) }) s
  let s := updUpd (fun u => { u with works := u.works.map fun e => (e.1, updLeaves c e.2) }) s
  releaseHeld (updChain (fun x => { x with remotes := x.remotes.map fun e => (e.1, remoteLeaves c e.2) }) s)

/-- A run that had not reached its commit point starts again at the row's new home: its gradient waits for a core (R184). -/
def requeueRun (core : Nat) (r : RowRun) (s : State) : State :=
  let s := updUpd (fun u => { u with runs := Tab.del u.runs core }) (t4Drop (.commit core) s)
  let s := updWork r.queue r.seq (fun w => { w with ready := w.ready ++ [r.grad] }) s
  releaseHeld (maintCommitted r.grad.key (updRow r.grad.key (fun x => { x with committing := false }) s))

/-- The runs on the cluster's cores start again elsewhere. -/
def runsLeave (c : Nat) (s : State) : State :=
  (s.work.upd.runs.filter fun e => decide (e.1 / 2048 = c)).foldl (fun s e => requeueRun e.1 e.2 s) s

/-- A dirty copy or delta version whose shadow entry lay in a cluster that leaves gets a substitute, or, where no shadow has room, is cleaned
(R241). -/
def shadowLeaves (c key : Nat) (s : State) : State :=
  let sub (home n : Nat) : Option Nat := shadowHome s home n
  let s := match (rowOf s key).t0 with
    | some x =>
      if x.shadow ≠ some c then s
      else
        let s' := updRow key (fun r => { r with t0 := some { x with shadow := sub x.cluster x.bytes.length } }) s
        if shadowRoom s x.cluster x.bytes.length 0 then s' else (cleanCopy key s').2
    | none => s
  let mend (d : Delta) : Delta :=
    if d.shadow = some c then { d with shadow := sub (d.place.addr / 2048) ((d.data.map List.length).getD 16) } else d
  updRow key (fun r => { r with deltas := r.deltas.map mend }) s

/-- A T0 copy that lay in the cluster (R185, R241): a dirty one is rebuilt from its shadow entry, and a clean one is dropped, to be read again
where it is pinned. With the bond channel lost its own bank can still be read. -/
def copyLeaves (bond : Bool) (key : Nat) (x : T0Copy) (s : State) : State :=
  if bond || (x.dirty && x.shadow.isSome) then s
  else if x.dirty then dropCopy key (loseRow 1 key s)
  else dropCopy key s

/-- A T0 delta version that lay in the cluster is rebuilt in another bank, or written to a lower tier; without a shadow entry it is lost (R185,
R230, R241). -/
def deltasLeave (bond : Bool) (c key : Nat) (s : State) : State :=
  let here (p : Place) : Bool := decide (p.tier = 0) && decide (p.addr / 2048 = c)
  if !(rowOf s key).deltas.any fun d => here d.place then s
  else
    let kept (d : Delta) : Bool := bond || d.shadow.isSome
    let s := if (rowOf s key).deltas.any fun d => here d.place && !kept d && d.data.isSome then
        rowLostRecord 1 key (fenceDeltas key (fun d => here d.place && !kept d) (fun d => placeLoc d.place) s)
      else s
    (List.range (rowOf s key).deltas.length).foldl (fun s i =>
      match (rowOf s key).deltas[i]?, tbl? s (keyHandle key) with
      | some d, some t =>
        if !here d.place then s
        else
          let n := deltaSize (dataBytes (shapeOf t.desc)) d
          let set (d : Delta) (s : State) : State := updRow key (fun r => { r with deltas := r.deltas.set i d }) s
          (match deltaCore s (keyHandle key) t n with
           | some core => set { d with place := { tier := 0, addr := core }, shadow := shadowOf s (core / 2048) n } s
           | none => spillNow s (key, {}))
      | _, _ => s) s

/-- The row's move ends where it goes to or from the cluster (R239, R241). -/
def moveLeaves (c key : Nat) (s : State) : State :=
  let r := rowOf s key
  match r.move with
  | some { dest := .cluster d _ _, switched := sw, .. } =>
    if decide (d = c) || r.t0.any fun x => decide (x.cluster = c) then
      if sw then updRow key (fun r => { r with move := none }) s else abandonMove key s
    else s
  | _ => s

/-- One row as the cluster leaves (R237, R241). -/
def rowLeaves (bond : Bool) (c : Nat) (s : State) (e : Nat × Row) : State :=
  let s := moveLeaves c e.1 s
  let s := match (rowOf s e.1).t0 with
    | some x => if x.cluster = c then copyLeaves bond e.1 x s else s
    | none => s
  shadowLeaves c e.1 (deltasLeave bond c e.1 s)

/-- The rows as the cluster leaves. -/
def rowsLeave (bond : Bool) (c : Nat) (s : State) : State := s.work.tbl.rows.foldl (rowLeaves bond c) s

/-! ### Space (R219, R241) -/

/-- The highest-indexed pinned rows of a table are unpinned, down to `n` rows: they are cleaned, and have no T0 copy any more
(R216, R241). -/
def unpin (h n : Nat) (t : Table) (s : State) : State :=
  let s := updTbl h (fun t => { t with pinBelow := n }) s
  let s := ((tableRows s h).filter fun e => decide (n ≤ keyIndex e.1)).foldl (seatRow h false) s
  let part := ((partOf s h t.desc n t.part).getD { t.part with seats := [], remaps := [], homes := [] })
  let s := updTbl h (fun t => { t with part := part }) s
  event .pinLost (packFields [(0, 16, h), (16, 8, t.ctx), (64, 32, t.pinBelow - n)]) s

/-- A partition is halved, or, with one set, given up, to make room (R219). -/
def shrinkCache (h : Nat) (t : Table) (s : State) : State :=
  let none' : Partition := { t.part with nsets := 0, seats := [], remaps := [], homes := [] }
  if t.part.nsets ≤ 1 then
    let s := ((tableRows s h).filter fun e => e.2.t0.isSome).foldl (fun s e => (evictRow e.1 s).2) s
    updTbl h (fun t => { t with part := none' }) s
  else resizeTo h (t.part.nsets / 2) ((partOf s h t.desc (t.part.nsets / 2) t.part).getD none') s

/-- Every unit gets a home in service: caches shrink first, the largest first, and then the table with the most pinned rows is unpinned
(R219, R241). -/
def fitBanks : Nat → State → State
  | 0, s => s
  | fuel + 1, s =>
    match s.work.tbl.tables.find? fun e => homeless s e.2 with
    | none => s
    | some (h, t) =>
      match mendPart s h t with
      | some p => fitBanks fuel (updTbl h (fun t => { t with part := p }) s)
      | none =>
        let caches := s.work.tbl.tables.filter fun e => decide (tdMode e.2.desc = 0) && decide (0 < e.2.part.nsets)
        let pins := s.work.tbl.tables.filter fun e => decide (tdMode e.2.desc = 1) && decide (0 < e.2.pinBelow)
        match (sortBy (fun e : Nat × Table => 2 ^ 64 - e.2.part.nsets * tdWays e.2.desc * footprint (shapeOf e.2.desc)) caches).head?,
            (sortBy (fun e : Nat × Table => 2 ^ 48 - e.2.pinBelow) pins).head? with
        | some (k, x), _ => fitBanks fuel (shrinkCache k x s)
        | none, some (k, x) => fitBanks fuel (unpin k (x.pinBelow - (serviceClusters s).length) x s)
        | none, none => s

/-- Copies of a cluster that has left take their new homes at once, the others move to theirs, and pinned rows are read again (R241). -/
def settleCopies (cs : List Nat) (s : State) : State :=
  let lost (r : Row) : Bool := r.t0.any fun x => cs.contains x.cluster
  let s := (s.work.tbl.rows.filter fun e => lost e.2).foldl (fun s e => seatRow (keyHandle e.1) true s e) s
  (s.work.tbl.tables.map Prod.fst).foldl (fun s h => pinWritten h (reseat h false s)) s

/-! ### Reductions (R294) -/

/-- A bucket loses the slots that the cluster held, and each rank is asked to send it again (R294). -/
def bucketLost (id key : Nat) (b : JobBucket) (s : State) : State :=
  let filled := (b.slots.filter fun e => decide (e.2.state = .filled)).map Prod.fst
  let held := (b.backups.filterMap fun e => ((job? s id).map fun j => j.backups.getD e.1 none).getD none).eraseDups
  let s := updJob id (fun j => { j with buckets := Tab.upd j.buckets key fun b => { b with
    slots := b.slots.map fun e => if e.2.state = .filled then (e.1, { state := .opened, data := none }) else e
    backups := [], asked := (filled ++ held).foldl (fun l d => insertNew d l) b.asked } }) s
  (filled ++ held).eraseDups.foldl (fun s r =>
    if r = me s then resendBucket id key s
    else ctlSend .resend r id (((job? s id).map Job.ctx).getD 0) 0 id 0 key [] s) s

/-- The buckets that the leaving cluster combined. `before` is the state in which it was in service. -/
def bucketsLeave (before : State) (c : Nat) (s : State) : State :=
  (s.work.chain.jobs.filter fun e => !e.2.aborted).foldl (fun (s : State) e =>
    (e.2.buckets.filter fun b => decide (bucketCluster before b.1 = c)).foldl (fun s b => bucketLost e.1 b.1 b.2 s) s) s

/-! ### CLUSTER_LEAVE_SERVICE -/

/-- One cluster leaves: what it held is re-homed, and the repair is recorded (R241, R452, R458). -/
def clusterOut (before : State) (bond : Bool) (c : Nat) (s : State) : State :=
  let s := rowsLeave bond c (runsLeave c (worksLeave c (bucketsLeave before c s)))
  logRepair 2 c (locAccum c 0) (sparingRecord 2 0 (spareCores s c) (locAccum c 0) .degraded s)

/-- CLUSTER_LEAVE_SERVICE (R241): a cluster that must leave service does, with its mirror where their bond channel is lost (R422,
R454). A device without a cluster in service is SAFE. -/
def execClusterLeaveService (c : Nat) : State → Host.Outcome State Fault Refusal :=
  live fun s =>
    if !s.faults.leaving.contains c then s
    else
      let bond := (bondOf s (c % 256)).lost
      let cs := if bond && (serviceClusters s).contains (mirror c) then [c, mirror c] else [c]
      let s' := { s with faults := { s.faults with
        retiredClusters := cs.foldl (fun l x => insertBy id x l) s.faults.retiredClusters
        leaving := s.faults.leaving.filter fun x => !cs.contains x
        replacing := s.faults.replacing.filter fun e => !cs.contains (e.1 / 2048) } }
      if (serviceClusters s').isEmpty then enterSafe .recoveryFailed true s'
      else continueJobs (wakeShadow (cleanMarks (settleCopies cs (fitBanks 8192 (fitBudget (cs.foldl (fun s' x => clusterOut s bond x s') s'))))))

end Sys2Proof.Machine
end

