-- ==== Sys2Proof/Machine/Mp.lean ====
section
/-! DEFINITION. Management processors and recovery sequencers (R461 to R464), and the steps of an ACTIVATE (R499). -/

namespace Sys2Proof.Machine

/-- The management processor of a half: 0 lower, 1 upper. -/
def mpOf (s : State) (half : Nat) : MpState := if half = 0 then s.mpLower else s.mpUpper

/-- The management processor of a half is put. -/
def putMp (half : Nat) (m : MpState) (s : State) : State :=
  if half = 0 then { s with mpLower := m } else { s with mpUpper := m }

/-- LOWER_MP_UP or UPPER_MP_UP (R354). -/
def mpUp (s : State) (half : Nat) : Bool := if half = 0 then s.sys.lowerUp else s.sys.upperUp

/-- LOWER_MP_UP or UPPER_MP_UP is set. -/
def setMpUp (half : Nat) (b : Bool) (s : State) : State :=
  { s with sys := if half = 0 then { s.sys with lowerUp := b } else { s.sys with upperUp := b } }

/-- A RECOVERY record (R458, R521): EVENT, HALF and DOWN_US. -/
def recoveryRecord (ev half downUs : Nat) : FaultRecord :=
  let sev := if ev = 1 ∨ ev = 4 then Severity.interrupted else if ev = 2 then .info else .degraded
  { cls := .recovery, sev := sev, location := locMp half
    spec := packFields [(0, 4, ev), (4, 1, half), (32, 32, sat32 downUs)] }

/-- Both processors have failed (R463): transfers stop, engines halt, the state is frozen, and the device enters SAFE.
EFPEL_PROTOCOL returns to 0 (R3). -/
def bothMpFailed (half : Nat) (s : State) : State :=
  let s := faultRecord (recoveryRecord 5 half 0) s
  enterSafe .recoveryFailed true { s with sys := { s.sys with protocol := 0 } }

/-- A processor has failed (R461, R462): it is down, and its failure is recorded; when the other is down too, R463 applies. -/
def mpFail (half : Nat) (s : State) : State :=
  let m := mpOf s half
  let s := setMpUp half false (putMp half { m with failed := true, failedAt := s.clock, handedOver := false, restarts := 0 } s)
  let s := faultRecord (recoveryRecord 1 half 0) s
  if mpUp s (1 - half) then s else bothMpFailed half s

/-- MP_HEARTBEAT (R461). -/
def execMpHeartbeat (half : Nat) : State → Host.Outcome State Fault Refusal :=
  live fun s => if half < 2 ∧ mpUp s half then putMp half { mpOf s half with lastBeat := s.clock } s else s

/-- MP_FATAL_TRAP: the processor has failed (R461). -/
def execMpFatalTrap (half : Nat) : State → Host.Outcome State Fault Refusal :=
  live fun s => if half < 2 ∧ mpUp s half then mpFail half s else s

/-- MP_FAILURE_DECLARED: three heartbeats have been missed (R461, R462). -/
def execMpFailureDeclared (half : Nat) : State → Host.Outcome State Fault Refusal :=
  live fun s => if half < 2 ∧ mpUp s half then mpFail half s else s

/-- MP_HANDOVER_DONE: the survivor holds every duty, and the failed processor restarts from ROM (R462). -/
def execMpHandoverDone (half : Nat) : State → Host.Outcome State Fault Refusal :=
  live fun s =>
    let m := mpOf s half
    if half < 2 ∧ m.failed ∧ ¬ m.handedOver ∧ mpUp s (1 - half) then
      putMp half { m with handedOver := true, restarting := true } s
    else s

/-- The slot that staging writes: the slot not booted (R498; log entry 14). -/
def stagedSlot (s : State) : Nat :=
  match s.sys.bootedImage with
  | some (.slot n) => 1 - n
  | _ => 1 - (directory s).fwSlot

/-- An ACTIVATE begins where both processors may run: the upper one, which may be down, restarts into the staged image (R499; log entry 14). -/
def startActivate (s : State) : State :=
  if s.fw.activating ∧ s.fw.activateStep = 0 ∧ s.sys.lowerUp then
    setMpUp 1 false (putMp 1 { s.mpUpper with restarting := true, failedAt := s.clock, failed := false, gaveUp := false } s)
  else s

/-- A processor runs the staged image: the upper first, then the lower (R499). -/
def activateStarted (half : Nat) (s : State) : State :=
  let s := setMpUp half true (putMp half { mpOf s half with restarting := false } s)
  if half = 1 then
    setMpUp 0 false (putMp 0 { s.mpLower with restarting := true }
      { s with fw := { s.fw with activateStep := 1, activateFails := 0 } })
  else { s with fw := { s.fw with activateStep := 2, activateFails := 0 } }

/-- A start of the staged image has failed; after three both processors return to the previous image and the command ends
BAD_IMAGE (R499). -/
def activateFailed (half : Nat) (s : State) : State :=
  if s.fw.activateFails < 2 then { s with fw := { s.fw with activateFails := s.fw.activateFails + 1 } }
  else
    let s := setMpUp half true (putMp half { mpOf s half with restarting := false } s)
    let s := { s with fw := { s.fw with activating := false, activateStep := 0, activateFails := 0 } }
    jobEnd .fwActivate .badImage 0 (setEngState .ready s)

/-- A restarted processor has verified firmware and takes its duties back (R462). -/
def mpRejoin (half : Nat) (s : State) : State :=
  let m := mpOf s half
  let down := (s.clock - m.failedAt) / 100
  let s := setMpUp half true
    (putMp half { m with failed := false, restarting := false, handedOver := false, restarts := 0 } s)
  let s := faultRecord (recoveryRecord 2 half down) s
  if half = 0 then startActivate s else s

/-- A restart has failed; after three the half runs without its processor (R462). -/
def mpRestartFail (half : Nat) (s : State) : State :=
  let m := mpOf s half
  if m.restarts < 2 then putMp half { m with restarts := m.restarts + 1 } s
  else faultRecord (recoveryRecord 3 half 0)
    (putMp half { m with restarts := m.restarts + 1, restarting := false, gaveUp := true } s)

/-- MP_RESTART_DONE: a restart from ROM, or a start of the staged image while an ACTIVATE runs, has ended (R462, R499). -/
def execMpRestartDone (half : Nat) (ok : Bool) : State → Host.Outcome State Fault Refusal :=
  live fun s =>
    let m := mpOf s half
    if half < 2 ∧ m.restarting then
      if s.fw.activating ∧ ¬ m.failed then (if ok then activateStarted half s else activateFailed half s)
      else if ok then mpRejoin half s else mpRestartFail half s
    else s

/-- SEQUENCER_MISMATCH: the sequencer of the other half takes over (R464). -/
def execSequencerMismatch (half : Nat) : State → Host.Outcome State Fault Refusal :=
  live fun s =>
    if half < 2 ∧ ¬ (mpOf s half).sequencerOut ∧ s.sys.engState ≠ .reset then
      faultRecord (recoveryRecord 4 half 0) (putMp half { mpOf s half with sequencerOut := true } s)
    else s

/-- WATCHDOG_SAFE: neither sequencer can act, and the watchdog of each half stops transfers and holds SAFE (R464). -/
def execWatchdogSafe : State → Host.Outcome State Fault Refusal :=
  live fun s =>
    if s.mpLower.sequencerOut ∧ s.mpUpper.sequencerOut then enterSafe .recoveryFailed true s else s

end Sys2Proof.Machine
end

