-- ==== Sys2Proof/Machine/Firmware.lean ====
section
/-! DEFINITION. Calibration commands (R495), FW_UPDATE (R498, R499) and DEBUG_UNLOCK (R504, R505). -/

namespace Sys2Proof.Machine

/-! ### CAL_READ and CAL_WRITE -/

/-- The argument block with OP set by the row. -/
def opArgs (op : Nat) (m : MbxCall) : BitVec 2048 := setField m.args 0 4 op

/-- Reserved fields of the CAL_READ and CAL_WRITE block (R495). -/
def calReserved : List (Nat × Nat) := [(4, 60), (120, 8), (160, 1888)]

/-- CAL_READ: the set is written to the area, up to BYTES, and its full length returned (R495). -/
def calRead (op : Nat) (image : State → List Byte) (m : MbxCall) (s : State) : MbxRes :=
  let a := opArgs op m
  let addr := bits a 64 56
  let n := bits a 128 32
  if !zeroFields a calReserved then .refuse .badReserved
  else if !areaOk s m.issuer addr n .w .stackOrPinned then .refuse .badAddress
  else .reply (devWrite addr ((image s).take n) s) .ok (image s).length

/-- CAL_READ STORED (R495). -/
def execCalReadStored (m : MbxCall) : State → Host.Outcome State Fault Refusal :=
  mbxRow (mailbox 0x51 true false true (opArgs 1 m) (calRead 1 calStored m) m)

/-- The values in use as a set (R495); without a set, every unit has its built-in defaults, which the manual does not give,
and the set names no unit (log entry 15). -/
def calUsed (s : State) : List Byte := if s.sys.calInUse.isEmpty then calImage s 0 [] else s.sys.calInUse

/-- CAL_READ IN_USE (R495). -/
def execCalReadInUse (m : MbxCall) : State → Host.Outcome State Fault Refusal :=
  mbxRow (mailbox 0x51 true false true (opArgs 2 m) (calRead 2 calUsed m) m)

/-- An image is staged or activating (R495). -/
def updateBusy (s : State) : Bool := s.fw.stagedFw || s.fw.stagedCfg || s.fw.activating

/-- The set with ORIGIN USER (R495). -/
def withOrigin (origin : Nat) (bs : List Byte) : List Byte :=
  toBytes 32 (putBits (ofBytes (bs.take 32)) 48 2 origin) ++ bs.drop 32

/-- CAL_WRITE WRITE_SET (R495). -/
def execWriteSet (m : MbxCall) : State → Host.Outcome State Fault Refusal :=
  mbxRow (mailbox 0x52 true false false (opArgs 1 m) (fun s =>
    let a := opArgs 1 m
    let addr := bits a 64 56
    let n := bits a 128 32
    if !zeroFields a calReserved then .refuse .badReserved
    else if !areaOk s m.issuer addr n .r .stackOrPinned then .refuse .badAddress
    else if updateBusy s then .refuse .updateBusy
    else if (areaFenced s addr n).isSome then .refuse .dataLost
    else
      let img := devRead s addr n
      if n < 32 || decide (n < calLength img) || decide (131072 < calLength img) || !calOk s (img.take (calLength img)) then
        .refuse .calInvalid
      else .reply (storeCal (withOrigin 2 (img.take (calLength img))) s) .ok 0) m)

/-- CAL_WRITE RECALIBRATE: a new directory record with RECALIBRATE set (R495, R511). It names no area. -/
def execRecalibrate (m : MbxCall) : State → Host.Outcome State Fault Refusal :=
  mbxRow (mailbox 0x52 true false false (opArgs 2 m) (fun s =>
    if !zeroFields (opArgs 2 m) [(4, 2044)] then .refuse .badReserved
    else if updateBusy s then .refuse .updateBusy
    else .reply (writeDir (fun d => { d with recal := true }) s) .ok 0) m)

/-! ### FW_UPDATE -/

/-- Flash address and length of what STAGE writes: the staged slot, or the boot configuration copy not committed (R498). -/
def stageArea (s : State) (target : Nat) : Nat × Nat :=
  if target = 0 then (imageAddr (.slot (stagedSlot s)), 0x1000000)
  else (cfgAddr (1 - (directory s).cfgCopy), 0x10000)

/-- Reserved fields of the FW_UPDATE block for an operation: ADVANCE_SVN belongs to COMMIT, the area to STAGE (R356, R498). -/
def fwReserved (op : Nat) : List (Nat × Nat) :=
  [(6, 58), (120, 8), (192, 1856)] ++ (if op = 4 then [] else [(4, 1)]) ++
    (if op = 1 then [] else [(64, 56), (128, 64)])

/-- TARGET of R498. -/
def fwTarget (m : MbxCall) : Nat := bits m.args 5 1

/-- FW_UPDATE STAGE (R498): the first STAGE after a COMMIT or ABORT erases the area. -/
def execFwStage (m : MbxCall) : State → Host.Outcome State Fault Refusal :=
  mbxRow (mailbox 0x53 true false true (opArgs 1 m) (fun s =>
    let a := opArgs 1 m
    let t := fwTarget m
    let src := bits a 64 56
    let off := bits a 128 32
    let n := bits a 160 32
    let area := stageArea s t
    if !zeroFields a (fwReserved 1) || decide (off % 4096 ≠ 0) || decide (0x1000000 < n) || decide (area.2 < off + n) then
      .refuse .badReserved
    else if !areaOk s m.issuer src n .r .any then .refuse .badAddress
    else if s.fw.activating then .refuse .updateBusy
    else if (areaFenced s src n).isSome then .refuse .dataLost
    else
      let fresh := if t = 0 then !s.fw.stagedFw else !s.fw.stagedCfg
      let s := if fresh then flashErase area.1 area.2 s else s
      let s := flashWrite (area.1 + off) (devRead s src n) s
      .reply { s with fw := if t = 0 then { s.fw with stagedFw := true, verifiedFw := false }
                            else { s.fw with stagedCfg := true, verifiedCfg := false } } .ok 0) m)

/-- The outcome of VERIFY (R497, R498, R513). -/
def fwCheck (t : Nat) (sigOk : Bool) (s : State) : ImageCheck :=
  if t = 0 then checkHeader s (imageHeader s (.slot (stagedSlot s))) sigOk
  else if (parseCfg (flashRead s (stageArea s 1).1 512)).valid then .ok else .badImage

/-- The status of an image check (R498). -/
def checkStatus : ImageCheck → Status
  | .ok => .ok | .badImage => .badImage | .badSignature => .badSignature | .rollback => .rollbackRefused

/-- Something is staged for VERIFY to check: an image that no ABORT has discarded, committed or not (R498; log entry 14). -/
def fwPresent (s : State) (t : Nat) : Bool := if t = 0 then s.fw.stagedFw || s.fw.verifiedFw else s.fw.stagedCfg

/-- FW_UPDATE VERIFY (R498). -/
def execFwVerify (m : MbxCall) (sigOk : Bool) : State → Host.Outcome State Fault Refusal :=
  mbxRow (mailbox 0x53 true false true (opArgs 2 m) (fun s =>
    let t := fwTarget m
    if !zeroFields (opArgs 2 m) (fwReserved 2) then .refuse .badReserved
    else if s.fw.activating then .refuse .updateBusy
    else if !fwPresent s t then .refuse .noStagedImage
    else if fwCheck t sigOk s = .ok then
      .reply { s with fw := if t = 0 then { s.fw with verifiedFw := true } else { s.fw with verifiedCfg := true } } .ok 0
    else .refuse (checkStatus (fwCheck t sigOk s))) m)

/-- FW_UPDATE ACTIVATE (R498, R499), once a VERIFY has passed since the last STAGE, committed or not: STATE becomes UPDATING and the upper processor restarts into the staged image. -/
def execFwActivate (m : MbxCall) : State → Host.Outcome State Fault Refusal :=
  mbxRow (mailbox 0x53 true false false (opArgs 3 m) (fun s =>
    if !zeroFields (opArgs 3 m) (fwReserved 3) || decide (fwTarget m = 1) then .refuse .badReserved
    else if s.fw.activating then .refuse .updateBusy
    else if !s.fw.verifiedFw then .refuse .noStagedImage
    else if bitsOf (imageHeader s (.slot (stagedSlot s))) 48 8 ≠ s.sys.protocol then .refuse .protocolChange
    else
      let s := { s with fw := { s.fw with activating := true, activateStep := 0, activateFails := 0 } }
      .waits (setEngState .updating (startActivate s)) .fwActivate) m)

/-- FW_ACTIVATED: both processors run the staged image (R499). -/
def execFwActivated : State → Host.Outcome State Fault Refusal :=
  live fun s =>
    if s.fw.activating ∧ s.fw.activateStep = 2 then
      let slot := stagedSlot s
      let h := imageHeader s (.slot slot)
      let s := { s with fw := { s.fw with activating := false, activateStep := 0 }
                        sys := { s.sys with runningImage := some (.slot slot), runningSvn := bitsOf h 96 16 } }
      let s := setEngState .ready s
      jobEnd .fwActivate .ok 0 (event .fwActivated (bitsOf h 96 16) s)
    else s

/-- FW_UPDATE COMMIT (R498): the staged slot or configuration is the one booted next; ADVANCE_SVN blows MIN_SVN. -/
def execFwCommit (m : MbxCall) : State → Host.Outcome State Fault Refusal :=
  mbxRow (mailbox 0x53 true false true (opArgs 4 m) (fun s =>
    let a := opArgs 4 m
    let t := fwTarget m
    if !zeroFields a (fwReserved 4) then .refuse .badReserved
    else if s.fw.activating then .refuse .updateBusy
    else if !(if t = 0 then s.fw.stagedFw else s.fw.stagedCfg) then .refuse .noStagedImage
    else if t = 0 then
      let slot := stagedSlot s
      let svn := bitsOf (imageHeader s (.slot slot)) 96 16
      let s := writeDir (fun d => { d with fwSlot := slot }) s
      let s := { s with fw := { s.fw with stagedFw := false } }
      .reply (if bit a 4 then { s with fuses := { s.fuses with minSvn := max s.fuses.minSvn (min svn 64) } } else s) .ok 0
    else
      let s := writeDir (fun d => { d with cfgCopy := 1 - d.cfgCopy }) s
      .reply { s with fw := { s.fw with stagedCfg := false, verifiedCfg := false } } .ok 0) m)

/-- FW_UPDATE ABORT: the staged image is discarded (R498). -/
def execFwAbort (m : MbxCall) : State → Host.Outcome State Fault Refusal :=
  mbxRow (mailbox 0x53 true false true (opArgs 5 m) (fun s =>
    if !zeroFields (opArgs 5 m) (fwReserved 5) then .refuse .badReserved
    else if s.fw.activating then .refuse .updateBusy
    else .reply { s with fw := if fwTarget m = 0 then { s.fw with stagedFw := false, verifiedFw := false }
                               else { s.fw with stagedCfg := false, verifiedCfg := false } } .ok 0) m)

/-! ### DEBUG_UNLOCK -/

/-- GET_CHALLENGE: a fresh nonce and SERIAL (R504). -/
def execGetChallenge (m : MbxCall) : State → Host.Outcome State Fault Refusal :=
  mbxRow (mailbox 0x55 true false false (opArgs 1 m) (fun s =>
    if !zeroFields (opArgs 1 m) [(4, 2044)] then .refuse .badReserved
    else
      let n := Config.nonce s.freeCtr
      .reply { s with freeCtr := s.freeCtr + 1, fw := { s.fw with nonce := some n, nonceAt := s.clock } } .ok
        (n.toNat + serial s * 2 ^ 256)) m)

/-- The fused debug key hash of a key selector (R496, R504). -/
def debugKeyHash (s : State) (sel : Nat) : BitVec 384 :=
  if sel = 0 then s.fuses.vendorDebugKeyHash else s.fuses.licenseeDebugKeyHash

/-- The first status of R505 that applies to an UNLOCK. `keyOk` and `sigOk` are the verdicts on the key hash and the
signature, which the operands and the fuses decide (log entry 8). -/
def unlockStatus (sel : Nat) (keyOk sigOk : Bool) (s : State) : Status :=
  if !s.ctxs.isEmpty then .contextsExist
  else if 8 ≤ s.fw.unlockRefusals then .unlockLockedOut
  else if s.fw.nonce.isNone then .challengeStale
  else if 1 < sel || debugKeyHash s sel == 0 || !keyOk || !sigOk then .unlockRefused
  else .ok

/-- The event DEBUG_STATE (R486). -/
def debugEvent (unlocked : Bool) (sel : Nat) (s : State) : State :=
  event .debugState (packFields [(0, 1, b2n unlocked), (1, 2, sel)]) s

/-- DEBUG_UNLOCK UNLOCK (R504, R505). -/
def execDebugUnlock (m : MbxCall) (keyOk sigOk : Bool) : State → Host.Outcome State Fault Refusal :=
  mbxRow (mailbox 0x55 true false false (opArgs 2 m) (fun s =>
    let a := opArgs 2 m
    let sel := bits a 4 2
    if !zeroFields a [(6, 58), (1608, 440)] then .refuse .badReserved
    else
      let st := unlockStatus sel keyOk sigOk s
      if st = .ok then
        let s := { s with sys := { s.sys with debugUnlocked := true, debugKeySel := sel }, fw := { s.fw with nonce := none } }
        .reply (debugEvent true sel s) .ok 0
      else
        let nonce := if st = .unlockRefused then none else s.fw.nonce
        .reply { s with fw := { s.fw with unlockRefusals := s.fw.unlockRefusals + 1, nonce := nonce } } st 0) m)

/-- DEBUG_UNLOCK LOCK (R504, R505). -/
def execDebugLock (m : MbxCall) : State → Host.Outcome State Fault Refusal :=
  mbxRow (mailbox 0x55 true false false (opArgs 3 m) (fun s =>
    if !zeroFields (opArgs 3 m) [(4, 2044)] then .refuse .badReserved
    else .reply (debugEvent false s.sys.debugKeySel { s with sys := { s.sys with debugUnlocked := false } }) .ok 0) m)

/-- NONCE_EXPIRE: the nonce expires 60 s after it was issued (R505). -/
def execNonceExpire : State → Host.Outcome State Fault Refusal :=
  live fun s => { s with fw := { s.fw with nonce := none } }

end Sys2Proof.Machine
end

