-- ==== Sys2Proof/Machine/HostLoss.lean ====
section
/-! DEFINITION. Host link events and the host-write journal (R253, R396 to R399, R501, R519). -/

namespace Sys2Proof.Machine

/-! ### What needs the host (R397) -/

/-- The first page of a list of areas that is reached over the host port. -/
def firstHost (s : State) (areas : List (Nat × Nat)) : Option Nat :=
  areas.findSome? fun a => (pagePieces a.1 a.2).findSome? fun p => if portOf s p.1 = some 12 then some p.1 else none

/-- What is left of the block list of a COPY, and of the areas that its entries name (R298, R299). -/
def copyAreas (s : State) (x : Stream) : List (Nat × Nat) :=
  let left := x.entries - x.nextEntry
  let entryAreas (i : Nat) : List (Nat × Nat) :=
    let e := devNat s (x.listAddr + 32 * (x.nextEntry + i)) 32
    if (entryFault e).isSome then []
    else (beSrc e, beLen e) :: (List.range (beReplicas e)).map fun j => (beReplica e j, beLen e)
  (x.listAddr + 32 * x.nextEntry, 32 * left) ::
    (if endKind s x.listAddr = .peer then [] else (List.range left).flatMap entryAreas)

/-- What a LOOKUP has still to read and to write. -/
def lookupAreas (w : LookupWork) : List (Nat × Nat) :=
  let left := (List.range w.bags).filter fun b => !w.delivered.contains b
  let rec' := if w.ingest.fromMemory && !w.ingest.done then [(w.recordAddr + w.ingest.areaPos, w.recordBytes - w.ingest.areaPos)] else []
  rec' ++ (if w.toMemory then left.map fun b => (w.outAddr + b * w.stride, w.stride) else []) ++
    (if w.withStatus then left.map fun b => (w.statusAddr + 16 * b, 16) else []) ++
    (if w.winners && decide (w.winnerAddr ≠ 0) then left.map fun b => (w.winnerAddr + b * roundup16 (2 * w.elems), 2 * w.elems) else [])

/-- What a SCATTER or FLUSH has still to read and to write. -/
def updateAreas (t : Task) (w : UpdateWork) : List (Nat × Nat) :=
  (if w.fromMemory && !updateApplied w then [(w.gradAddr, w.stride * w.bags)] else []) ++
    (if w.mapMode ≠ 0 ∧ !w.mapWritten then [(w.commitMap, roundup16 ((w.dir.length + 7) / 8))] else []) ++
    (if w.flush && !w.sent then [(partBits t 64 56, partBits t 128 64)] else [])

/-- What an open job has still to read and to write on this device. -/
def jobAreas (s : State) (id : Nat) (j : Job) : List (Nat × Nat) :=
  if reduceDone s id j then []
  else (j.residAddr, j.residBytes) ::
    (if j.array then
      (if j.doneSent then [] else [(j.inAddr, j.count * (if j.format = 1 then 2 else 4))]) ++ [(j.outAddr, 4 * j.count)] else [])

/-- What a GATHER_SAMPLES has still to read and to write. -/
def gatherAreas (s : State) (g : GatherWork) : List (Nat × Nat) :=
  (List.range (g.count - g.sent)).flatMap (fun i =>
    let x := sampleAt s g (g.sent + i)
    (if g.fromMemory then [(g.permAddr + 8 * (g.sent + i), 8)] else []) ++ [(g.indexAddr + 16 * x.number, 16), (x.addr, x.len)]) ++
    (if g.toMemory ∧ g.sent < g.count then [(g.outAddr + g.written, 1)] else [])

/-- The areas that a task has still to read or to write. -/
def leftAreas (s : State) (t : Task) : List (Nat × Nat) :=
  let k := tid t.queue t.seq
  match t.ttype with
  | .copy => ((stream? s t.queue t.seq).map (copyAreas s)).getD []
  | .lookup => ((look? s t.queue t.seq).map lookupAreas).getD []
  | .scatter | .flush => ((work? s t.queue t.seq).map (updateAreas t)).getD []
  | .reduce => ((jobFor s t).map fun e => jobAreas s e.1 e.2).getD []
  | .sort | .shuffle => if Tab.has s.work.idx.sorts k then [] else (addrFields t).map fun f => (f.addr, f.len)
  | .gatherSamples => ((gather? s t.queue t.seq).map (gatherAreas s)).getD []
  | .publish | .fence | .semSignal | .semWait => []

/-- Transfers of a task that have not ended: source and destination. -/
def transferAreas (s : State) (q n : Nat) : List (Nat × Nat) :=
  (s.streams.transfers.filter fun e => decide (e.2.queue = q) && decide (e.2.seq = n) &&
      !(e.2.gate.isSome && e.2.data.isSome)).flatMap fun e =>
    if e.2.gate.isSome ∨ e.2.chain.isSome then [(e.2.dst, e.2.len)] else [(e.2.src, e.2.len), (e.2.dst, e.2.len)]

/-- The first host-directed address that an ACTIVE task has in flight or still needs. A FENCE needs the port for its flushing read. -/
def hostNeed (s : State) (t : Task) : Option Nat :=
  if t.state ≠ .active then none
  else if t.ttype = .fence then (if t.effected then none else some Config.flushAddr)
  else firstHost s (transferAreas s t.queue t.seq ++ leftAreas s t)

/-! ### Transfers in flight -/

/-- A transfer in flight that reads or writes over the host port. -/
def onHostPort (s : State) (tr : Transfer) : Bool :=
  tr.issued && ((tr.chain.isNone && needsHost s tr.src tr.len) || needsHost s tr.dst tr.len)

/-- Each byte of a write in flight holds its old or its new value (R398; log entry 28). -/
def landSome (num i a : Nat) : List Byte → State → State
  | [], s => s
  | b :: bs, s => landSome num (i + 1) (a + 1) bs (if Config.landed num i then devSet a b s else s)

/-- A host-directed write ends at the loss. -/
def cutWrite (id : Nat) (tr : Transfer) (s : State) : State :=
  if tr.gate.isSome || endKind s tr.dst != .host || !needsHost s tr.dst tr.len then s
  else match sourceBytes s id tr with
    | none => s
    | some bs =>
      noteWrite tr.queue tr.seq tr.dst tr.len (landSome s.freeCtr 0 tr.dst bs { s with freeCtr := s.freeCtr + 1 })

/-- Every transfer on the host port ends. -/
def cutTransfers (s : State) : State :=
  (s.streams.transfers.filter fun e => onHostPort s e.2).foldl (fun (s : State) (e : Nat × Transfer) =>
    breakTransfer e.1 e.2 (cutWrite e.1 e.2 s)) s

/-! ### The journal (R398) -/

/-- One torn range of a task is entered: in a range entry, or, when those are full, in the marker of its context. -/
def addJournal (t : Task) (s : State) (w : Nat × Nat × Nat) : State :=
  let e : JournalEntry :=
    { ctx := t.ctx, queue := t.queue, seq := t.seq, allRanges := false, first := w.2.1, last := w.2.2, epoch := s.sys.attachEpoch.toNat }
  if s.journal.markers.any fun m => decide (m.ctx = t.ctx) then s
  else if s.journal.ranges.length < 4096 then { s with journal := { s.journal with ranges := s.journal.ranges ++ [e] } }
  else
    let m : JournalEntry := { e with allRanges := true }
    { s with journal := { s.journal with markers := s.journal.markers ++ [m] } }

/-- The torn ranges of a task that the loss ended are entered, and its record says so (R376, R398). -/
def journalTask (s : State) (q n : Nat) : State :=
  match task? s q n with
  | none => s
  | some t =>
    if t.hostWrites.isEmpty then s
    else t.hostWrites.foldl (addJournal t) (updTask q n (fun t => { t with journaled := true }) s)

/-! ### Host loss (R397) -/

/-- The rings of a queue that lie in HOST ranges. -/
def hostRing (s : State) (a : Nat) : Bool := match rangeAt s a 1 with
  | some (_, g) => decide (g.kind = .host)
  | none => false

/-- A queue with a ring in a HOST range is held. -/
def holdQueue (s : State) (q : Queue) : Queue :=
  let lost := q.ringLost || hostRing s q.cqAddr
  if !(hostRing s q.sqAddr || hostRing s q.cqAddr) then q
  else if q.state = .destroying then { q with ringLost := lost }
  else { q with state := .hostHold, ringLost := lost }

/-- The T4 attachment is lost with the host: requests that are outstanding, or wait for the ring, fail as after their timeout (R252, R253, R400). -/
def loseT4 (s : State) : State :=
  let outs := ((t4Of s).outstanding.map fun e => (e.2.1, e.2.2.2.2.isEmpty)) ++ (t4Of s).waiting.map fun e => (e.1, decide (e.2.1 = 1))
  let s := updT4 (fun t => { t with outstanding := [], waiting := [], arrived := [], attached := false }) s
  outs.foldl (fun (s : State) (w : T4Who × Bool) => t4Failed w.1 w.2 true 0 s) s

/-- The fault queue and the function's MSI-X and page-request state are cleared; causes stay (R397). -/
def clearFunction (s : State) : State :=
  fqEdge s.fq { s with
    fq := { s.fq with enable := false, waiting := [] }
    irq := { s.irq with msixEnable := false, msixTable := [], pending := [] }
    ats := {} }

/-- The tasks that the loss ends, with the address that each names. -/
def hostVictims (s : State) : List (Nat × Nat × Nat) :=
  s.tasks.filterMap fun e => (hostNeed s e.2).map fun a => (e.2.queue, e.2.seq, a)

/-- The device after a loss of the host. -/
def hostLost (s : State) : State :=
  let vs := hostVictims s
  let s := cutTransfers s
  let s := vs.foldl (fun (s : State) (v : Nat × Nat × Nat) => failTask v.1 v.2.1 .hostLost (detAddr v.2.2) s) s
  let s := clearFunction (loseT4 s)
  let s := { s with
    queues := s.queues.map fun e => (e.1, holdQueue s e.2)
    attach := { s.attach with lost := true, lossSinceAttach := true }
    sys := { s.sys with hostAttached := false }
    spdm := { s.spdm with sessions := [] } }
  let before := s.journal
  let s := vs.foldl (fun (s : State) (v : Nat × Nat × Nat) => journalTask s v.1 v.2.1) s
  afterTransfer (whenS (decide (s.journal ≠ before)) (raiseCause .hostJournal) s)

/-- HOST_LOSS: link down, hot reset, PERST# or a function-level reset (R397). A function-level reset leaves the link up. -/
def execHostLoss (k : LossKind) : State → Host.Outcome State Fault Refusal :=
  live fun s =>
    if !hostUp s then s
    else
      let lanes := s.links.host.lanes
      let s := hostLost s
      if k = .flr then s
      else
        let s := { s with links := { s.links with host := { s.links.host with up := false, lanes := 0 } } }
        faultRecord (linkRecord 3 4 0 lanes 0 0) (linkDegraded 4 0 lanes 0 0 s)

/-- HOST_LINK_RETRAIN: transfers pause and none is lost; a change of width is reported (R396, R423). -/
def execHostLinkRetrain (lanes : Nat) : State → Host.Outcome State Fault Refusal :=
  live fun s =>
    let old := s.links.host.lanes
    if !hostUp s || decide (lanes = 0) || decide (lanes = old) then s
    else
      let s := linkDegraded 4 0 old lanes 0 { s with links := { s.links with host := { s.links.host with lanes := lanes } } }
      whenS (decide (lanes < old)) (faultRecord (linkRecord 2 4 0 old lanes 0)) s

/-- HOST_LINK_UP: the link has trained and the port answers (R519), for the first time or after a loss. -/
def execHostLinkUp (lanes : Nat) : State → Host.Outcome State Fault Refusal :=
  live fun s =>
    if hostUp s || decide (lanes = 0) || decide (s.sys.bootStep < 7) then s
    else { s with
      links := { s.links with host := { s.links.host with up := true, lanes := lanes } }
      attach := { s.attach with lost := false } }

end Sys2Proof.Machine
end

