-- ==== Sys2Proof/Machine/Keys.lean ====
section
/-! DEFINITION. Context keys (R503): LOAD, REKEY and CLEAR. -/

namespace Sys2Proof.Machine

/-- The argument block of CTX_KEY_LOAD with OP as the row gives it. -/
def ckArgs (op : Nat) (m : MbxCall) : BitVec 2048 := setField m.args 0 4 op

/-- Fields that the command does not use (R356, R503). -/
def ckUnused (op : Nat) : List (Nat × Nat) :=
  [(4, 4), (48, 16), (640, 1408)] ++ (if op = 3 then [(16, 32), (64, 576)] else [])

/-- An open SPDM session has the identifier. -/
def sessionOpen (s : State) (id : Nat) : Bool := s.spdm.sessions.any fun x => decide (x.id = id) && x.established

/-- The checks of CTX_KEY_LOAD in the order of R503. `unwrapped` is what the unwrap gives, none where its integrity check fails. -/
def ckFault (op : Nat) (a : BitVec 2048) (m : MbxCall) (unwrapped : Option (BitVec 512)) (s : State) : Option Status :=
  let ctx := bits a 8 8
  let c := ctxD s ctx
  let inUse := match op with
    | 1 => c.key.isSome
    | 2 => c.oldKey.isSome
    | _ => !(ctxPages s ctx ColdPage.encrypted).isEmpty
  if !zeroFields a (ckUnused op) then some .badReserved
  else if !ctxOk s m ctx then some .badContext
  else if op ≠ 3 ∧ sessionOpen s (bits a 16 32) = false then some .noSession
  else if op ≠ 3 ∧ unwrapped.isNone then some .keyUnwrapFailed
  else if inUse then some .keyInUse
  else if op ≠ 1 ∧ c.key.isNone then some .noKey
  else none

/-- CTX_KEY_LOAD with LOAD (R503). -/
def execCtxKeyLoad (m : MbxCall) (unwrapped : Option (BitVec 512)) : State → Host.Outcome State Fault Refusal :=
  let a := ckArgs 1 m
  mbxRow (mailbox 0x54 true false false a (fun s =>
    match ckFault 1 a m unwrapped s with
    | some st => .refuse st
    | none => .reply (updCtx (bits a 8 8) (fun c => { c with key := unwrapped }) s) .ok 0) m)

/-- CTX_KEY_LOAD with REKEY (R503): every encrypted page of the context is under the old key until it has been encrypted again. -/
def execCtxKeyRekey (m : MbxCall) (unwrapped : Option (BitVec 512)) : State → Host.Outcome State Fault Refusal :=
  let a := ckArgs 2 m
  let ctx := bits a 8 8
  mbxRow (mailbox 0x54 true false false a (fun s =>
    match ckFault 2 a m unwrapped s with
    | some st => .refuse st
    | none =>
      let pages := ctxPages s ctx ColdPage.encrypted
      if pages.isEmpty then .reply (updCtx ctx (fun c => { c with key := unwrapped }) s) .ok 0
      else
        let s := updTables (fun w => { w with cold := pages.foldl (fun t p => Tab.upd t p fun x => { x with oldKey := true }) w.cold }) s
        .waits (updCtx ctx (fun c => { c with key := unwrapped, oldKey := c.key }) s) (.rekey ctx)) m)

/-- CTX_KEY_LOAD with CLEAR (R503). -/
def execCtxKeyClear (m : MbxCall) : State → Host.Outcome State Fault Refusal :=
  let a := ckArgs 3 m
  mbxRow (mailbox 0x54 true false false a (fun s =>
    match ckFault 3 a m none s with
    | some st => .refuse st
    | none => .reply (updCtx (bits a 8 8) (fun c => { c with key := none }) s) .ok 0) m)

end Sys2Proof.Machine
end

