-- ==== Sys2Proof/Machine/Lull.lean ====
section
/-! DEFINITION. Lull states of cluster pairs (R478 to R481). Times of entry and wake are not modelled: each row is commanded when its time
has come (log entry 11). -/

namespace Sys2Proof.Machine

/-- The Lull state of a pair is put. -/
def putLull (p : Nat) (l : Lull) (s : State) : State := { s with power := { s.power with lull := Tab.put s.power.lull p l } }

/-- A pair with a cluster in service, on a device whose arrays are up. -/
def pairServes (s : State) (p : Nat) : Bool :=
  decide (p < 256) && decide (10 ≤ s.sys.bootStep) &&
    !(s.faults.retiredClusters.contains p && s.faults.retiredClusters.contains (p + 256))

/-- The cluster belongs to the pair. -/
def ofPair (p c : Nat) : Bool := decide (c % 256 = p)

/-- A look-up holds a frame, an open bag or a row in transit in the pair (R478). -/
def lookUses (p : Nat) (w : LookupWork) : Bool :=
  (w.frames.any fun e => ofPair p (e.1 % 512)) || (w.homes.any fun e => ofPair p e.2 && !w.delivered.contains e.1) ||
    w.rows.any fun e => ofPair p e.2.cluster

/-- A move goes to or from the pair. -/
def moveUses (p : Nat) (r : Row) : Bool :=
  match r.move with
  | some m => (match m.dest with
    | .cluster c _ _ => ofPair p c
    | _ => false) || (match r.t0 with
    | some c => ofPair p c.cluster
    | none => false)
  | none => false

/-- Neither cluster of the pair holds a frame, runs an engine, lends a transit bank in use or serves traffic (R478). -/
def pairIdle (s : State) (p : Nat) : Bool :=
  !(s.work.idx.lookups.any fun e => lookUses p e.2) &&
  !(s.work.upd.works.any fun e => (e.2.homes.any fun x => ofPair p x.2) || e.2.shardAt.any fun x => ofPair p x.2) &&
  !(s.work.chain.remotes.any fun e => e.2.frames.any fun x => ofPair p (x.1 % 512)) &&
  !(s.work.upd.runs.any fun e => ofPair p (e.1 / 2048)) &&
  !(s.work.tbl.rows.any fun e => moveUses p e.2) &&
  !(s.faults.replacing.any fun e => ofPair p (e.1 / 2048))

/-- The pair holds a pinned row (R479). -/
def pairPinned (s : State) (p : Nat) : Bool :=
  s.work.tbl.rows.any fun e => match e.2.t0 with
    | some c => c.pinned && ofPair p c.cluster
    | none => false

/-- The task can progress now, as far as hints tell: it is ACTIVE, or may be admitted, and has no hint that still runs (R479). -/
def canProgress (s : State) (t : Task) : Bool :=
  let hinted := decide (t.waitHintUs ≠ 0) && (decide (t.state = .queued) || decide (s.clock < t.admittedAt + 100 * t.waitHintUs))
  !hinted && ((decide (t.state = .active) && !(decide (t.ttype = .semWait) && !t.effected)) ||
    (decide (t.state = .queued) && (admissible s t.queue t.seq).isSome))

/-- T_next in 10 ns units, none where it is unknown (R479). -/
def tNext (s : State) : Option Nat :=
  let hint := match s.power.nextEventAt with
    | some t => if s.clock < t then [t - s.clock] else []
    | none => []
  let waits := s.tasks.filterMap fun e =>
    let t := e.2
    if t.waitHintUs = 0 then none
    else if t.state = .queued then some (100 * t.waitHintUs)
    else if t.state = .active then some (t.admittedAt + 100 * t.waitHintUs - s.clock) else none
  if s.tasks.any fun e => canProgress s e.2 then some 0 else (sortBy id (hint ++ waits)).head?

/-- The deepest state that T_next, LULL_FLOOR and pinned rows permit (R478, R479). -/
def deepest (s : State) (p : Nat) : Nat :=
  match tNext s with
  | none => 1
  | some t =>
    if 10000000 ≤ t ∧ 3 ≤ s.power.lullFloor ∧ pairPinned s p = false then 3
    else if 40000 ≤ t ∧ 2 ≤ s.power.lullFloor then 2 else 1

/-- LULL_L1_ENTRY (R479): the idle pair's island clocks stop. -/
def execLullL1Entry (p : Nat) : State → Host.Outcome State Fault Refusal :=
  live fun s =>
    let l := lullOf s p
    if pairServes s p && decide (l.state = 0) && decide (1 ≤ s.power.lullFloor) && pairIdle s p then
      count .l1Entries 1 (putLull p { l with state := 1 } s)
    else s

/-- LULL_ENTRY (R479): the idle pair begins to enter the deepest state permitted. -/
def execLullEntry (p : Nat) : State → Host.Outcome State Fault Refusal :=
  live fun s =>
    let l := lullOf s p
    let k := deepest s p
    if pairServes s p && !l.waking && l.entering.isNone && decide (l.state < k) && decide (2 ≤ k) && pairIdle s p then
      putLull p { l with entering := some k } s
    else s

/-- A dirty copy of the pair is cleaned, and its T0 delta versions are written to lower tiers. The flag tells that the row has none left
(R481). -/
def emptyRow (p : Nat) (acc : Bool × State) (key : Nat) : Bool × State :=
  let inT0 (d : Delta) : Bool := decide (d.place.tier = 0) && ofPair p (d.place.addr / 2048)
  let r := rowOf acc.2 key
  let a := if r.t0.any fun c => c.dirty && ofPair p c.cluster then cleanCopy key acc.2 else (true, acc.2)
  let b := if r.deltas.any inT0 then match spillDeltas key a.2 with
      | some s' => throughT4 (.deltas key) (keyHandle key) a.2 s'
      | none => (false, a.2)
    else (true, a.2)
  (acc.1 && a.1 && b.1, b.2)

/-- Entry into L3 cleans every dirty copy and every T0 delta version of both clusters, and then drops every T0 copy (R481). The flag tells that
it has. -/
def emptyPair (p : Nat) (s : State) : Bool × State :=
  let inPair (r : Row) : Bool := r.t0.any fun c => ofPair p c.cluster
  match (s.work.tbl.rows.map Prod.fst).foldl (emptyRow p) (true, s) with
  | (true, s) =>
    let s := updTables (fun w => { w with rows := w.rows.map fun e => if inPair e.2 then (e.1, { e.2 with t0 := none }) else e }) s
    (true, wakeShadow (cleanMarks s))
  | r => r

/-- LULL_ENTRY_DONE (R478, R481): the pair reaches the state it was entering, L3 once everything is clean. A pair that is no longer idle, or
that has come to hold a pinned row, does not. -/
def execLullEntryDone (p : Nat) : State → Host.Outcome State Fault Refusal :=
  live fun s =>
    let l := lullOf s p
    match l.entering with
    | none => s
    | some k =>
      if !pairIdle s p || (decide (k = 3) && pairPinned s p) then putLull p { l with entering := none } s
      else match (if k = 3 then emptyPair p s else (true, s)) with
        | (true, s) => count (if k = 3 then .l3Entries else .l2Entries) 1 (putLull p { state := k } s)
        | (false, s) => s

/-- The pair begins to wake. -/
def wakePair (p : Nat) (s : State) : State := putLull p { lullOf s p with waking := true, entering := none } s

/-- LULL_SCHEDULED_WAKE (R479): T_next less the wake time has come. -/
def execLullScheduledWake (p : Nat) : State → Host.Outcome State Fault Refusal :=
  live fun s => if 1 ≤ (lullOf s p).state ∧ (tNext s).isSome = true then wakePair p s else s

/-- LULL_REQUEST_WAKE (R480): a request for a pair in L1 or L2. -/
def execLullRequestWake (p : Nat) : State → Host.Outcome State Fault Refusal :=
  live fun s =>
    let l := lullOf s p
    if l.state = 1 ∨ l.state = 2 then wakePair p s
    else if l.state = 0 ∧ l.entering.isSome = true then putLull p { l with entering := none } s else s

/-- Core-cycles that the pairs in L0 give in 100 µs: 3,125 for each step of an island's clock and core (R430, R480). -/
def awakeCapacity (s : State) : Nat :=
  sumNat (((serviceClusters s).filter fun c => clusterAwake s c).map fun c => 2048 * 3125 * (island s c).k)

/-- LULL_DEMAND_CHECK (R480): pairs in L3 wake when the demand of the last 100 µs, in core-cycles, exceeds half the capacity of the pairs
in L0. -/
def execLullDemandCheck (demand : Nat) : State → Host.Outcome State Fault Refusal :=
  live fun s =>
    if awakeCapacity s < 2 * demand then
      let ps := ((s.power.lull.filter fun e => decide ((lullOf s e.1).state = 3)).map Prod.fst).eraseDups
      count .demandWakes ps.length (ps.foldl (fun s p => wakePair p s) s)
    else s

/-- LULL_WAKE_DONE (R478): the pair reaches L0, and requests that waited on it proceed. -/
def execLullWakeDone (p : Nat) : State → Host.Outcome State Fault Refusal :=
  live fun s => if (lullOf s p).waking then { s with power := { s.power with lull := Tab.del s.power.lull p } } else s

end Sys2Proof.Machine
end

