-- ==== Sys2Proof/Machine/Scrub.lean ====
section
/-! DEFINITION. Scrubbing, uncorrectable words, stack repair and bond flits (R420 to R423, R442 to R449, R453, R455, R460). -/

namespace Sys2Proof.Machine

/-- The fault state changes. -/
def updFaults (f : Faults → Faults) (s : State) : State := { s with faults := f s.faults }

/-! ### Rebuilds (R446, R447) -/

/-- A word is being rebuilt, or computed again. -/
def startRebuild (x : Rebuild) (s : State) : State :=
  updFaults (fun f => { f with rebuilds := Tab.put f.rebuilds f.nextRebuild x, nextRebuild := f.nextRebuild + 1 }) s

/-- REBUILD_DONE (R446): the read that met the word is served again, and the record has RECOVERED = 1. -/
def execRebuildDone (id : Nat) : State → Host.Outcome State Fault Refusal :=
  live fun s =>
    match Tab.get? s.faults.rebuilds id with
    | none => s
    | some x =>
      let ctx := match x.task with
        | some (q, n) => (task? s q n).map Task.ctx
        | none => x.key.bind fun k => (tbl? s (keyHandle k)).map Table.ctx
      uncorrRecord x.path x.loc false false true x.key none ctx x.task
        (updFaults (fun f => { f with rebuilds := Tab.del f.rebuilds id }) s)

/-! ### Hard faults (R445) -/

/-- Patrol corrects a word: the flag says that it did so in the same symbol on the pass before, which is a hard fault (R445). -/
def markWord (loc symbol : Nat) (s : State) : Bool × State :=
  if Tab.get? s.faults.marks loc = some symbol then
    (true, updFaults (fun f => { f with hard := if f.hard.contains loc then f.hard else f.hard ++ [loc] }) s)
  else (false, updFaults (fun f => { f with marks := Tab.put f.marks loc symbol }) s)

/-- Patrol finds a word good. -/
def clearMark (loc : Nat) (s : State) : State := updFaults (fun f => { f with marks := Tab.del f.marks loc }) s

/-- A bank has given an uncorrectable word that was rebuilt: the second within 24 hours has the core replaced (R453). -/
def bankRebuilt (core : Nat) (s : State) : State :=
  let old := s.faults.recent.filter fun e => decide (s.clock < e.2 + dayTicks)
  let s := updFaults (fun f => { f with recent := old ++ [(core, s.clock)] }) s
  if old.any fun e => decide (e.1 = core) then startReplace core s else s

/-! ### Banks (R443, R447) -/

/-- The words of a bank that hold rows: all, or those below the shadow region (R228). -/
def homeWord (s : State) (word : Nat) : Bool := decide (word < rowSpace s / 16)

/-- What lies in `n` bytes of the banks from core `first`, with its shadow entry in the cluster named, holds the word: in its home bank, or in the
shadow region of that cluster (R215, R228). -/
def spanHolds (s : State) (core word first n : Nat) (shadow : Option Nat) : Bool :=
  if homeWord s word then decide (first ≤ core) && decide (core < first + max 1 (spanOf s n)) && decide (core / 2048 = first / 2048)
  else decide (shadow = some (core / 2048))

/-- The row's T0 copy holds the word. -/
def copyHolds (s : State) (core word : Nat) (c : T0Copy) : Bool :=
  spanHolds s core word (c.cluster * 2048 + c.core) c.bytes.length c.shadow

/-- The delta version lies in T0 and holds the word (R230). -/
def deltaHolds (s : State) (core word : Nat) (d : Delta) : Bool :=
  decide (d.place.tier = 0) && spanHolds s core word d.place.addr ((d.data.map List.length).getD 16) d.shadow

/-- The row named holds the word: in its T0 copy, or in a delta version of T0. -/
def wordHolds (s : State) (core word key : Nat) : Bool :=
  (rowOf s key).t0.any (copyHolds s core word) || (rowOf s key).deltas.any (deltaHolds s core word)

/-- An uncorrectable word of a bank (R447, R448, R453): a version with a good shadow entry, a shadow entry or a clean copy is rebuilt; a version with
no other copy is fenced; a word that holds nothing is fenced as it stands. -/
def bankLost (core word : Nat) (key : Option Nat) (s : State) : State :=
  let loc := locBank core word
  match key with
  | none => startReplace core (loseWord 2 loc none none s)
  | some k =>
    let rebuilt := bankRebuilt core (startRebuild { loc := loc, path := 2, key := some k } s)
    let sound (dirty : Bool) (shadow : Option Nat) : Bool := !homeWord s word || !dirty || shadow.isSome
    match (rowOf s k).t0.filter (copyHolds s core word), firstDelta s k (deltaHolds s core word) with
    | some c, _ => if sound c.dirty c.shadow then rebuilt else startReplace core (loseRowWord 2 loc k none s)
    | none, some d => if sound true d.shadow then rebuilt
      else startReplace core (loseDeltaWord 2 loc k (fun x => deltaHolds s core word x && decide (x.lo = d.lo)) none s)
    | none, none => rebuilt

/-- PATROL_SCRUB_BANK (R443, R445): one word of a bank, while its island is not in L2 or L3. The operand names the row whose copy or
shadow entry the word holds. -/
def execPatrolScrubBank (core word : Nat) (key : Option Nat) (read : CodeWord) : State → Host.Outcome State Fault Refusal :=
  live fun s =>
    let c := core / 2048
    let named := match key with
      | some k => wordHolds s core word k
      | none => true
    if decide (s.sys.bootStep < 10) || !(serviceClusters s).contains c || decide (384 ≤ word) || !named ||
        decide (2 ≤ (lullOf s (c % 256)).state) then s
    else
      let loc := locBank core word
      match decodeWord read with
      | .good => clearMark loc s
      | .corrected j _ =>
        let (_, s) := markWord loc j (countCorrected .bank 1 s)
        if 8 ≤ (s.faults.hard.filter fun l => inBank core l).length then startReplace core s else s
      | .uncorrectable => bankLost core word key (clearMark loc s)

/-! ### Stacks (R444, R455) -/

/-- The row whose backing location in T1 covers an address. -/
def rowAt (s : State) (a : Nat) : Option Nat :=
  (s.work.tbl.rows.find? fun e => decide (e.2.place.tier = 1) && decide (e.2.chain = 0) && decide (e.2.place.addr ≤ a) &&
    decide (a < e.2.place.addr + placedOf s e.1)).map Prod.fst

/-- Sixteen bytes of the backing location are rewritten from the T0 copy (R447). -/
def patchBacking (off : Nat) (r : Row) : Row :=
  match r.t0 with
  | some c => { r with backing := (r.backing.take off ++ (c.bytes.drop off).take 16 ++ r.backing.drop (off + 16)).take r.backing.length }
  | none => r

/-- The row, and the delta version of it, whose place in T1 covers an address (R87). -/
def deltaAt (s : State) (a : Nat) : Option (Nat × Delta) :=
  s.work.tbl.rows.findSome? fun e => match tbl? s (keyHandle e.1) with
    | none => none
    | some t => (e.2.deltas.find? fun d => decide (d.place.tier = 1) && decide (d.place.addr ≤ a) &&
        decide (a < d.place.addr + d.placed (dataBytes (shapeOf t.desc)))).map fun d => (e.1, d)

/-- An uncorrectable word of a stack (R447, R448, R449). -/
def hbmLost (a : Nat) (s : State) : State :=
  let loc := locDev a
  match rowAt s a with
  | some k =>
    let r := rowOf s k
    if r.t0.isSome then startRebuild { loc := loc, path := 2, key := some k } (updRow k (patchBacking (a - r.place.addr)) s)
    else if r.fenced then s
    else loseRowWord 2 loc k none s
  | none => match deltaAt s a with
    | some (k, d) => if d.fenced then s
      else loseDeltaWord 2 loc k (fun x => decide (x.place.tier = 1) && decide (x.place.addr = d.place.addr)) none s
    | none => loseWord 2 loc (((rangeAt s a 16).map Prod.snd).map Range.ctx) none s

/-- One word that a stack port scrubs. -/
def scrubWord (s : State) (x : CodeWord × Nat) : State :=
  let loc := locDev x.2
  match decodeWord x.1 with
  | .good => clearMark loc s
  | .corrected j _ =>
    let (hard, s) := markWord loc j (countCorrected .hbm 1 s)
    if hard && !s.faults.repairing.contains x.2 then updFaults (fun f => { f with repairing := f.repairing ++ [x.2] }) s else s
  | .uncorrectable => hbmLost x.2 (clearMark loc s)

/-- PATROL_SCRUB_HBM (R444, R445): 64 B of a stack. -/
def execPatrolScrubHbm (addr : Nat) (read : List CodeWord) : State → Host.Outcome State Fault Refusal :=
  live fun s =>
    if decide (addr % 64 ≠ 0) || decide (read.length ≠ 4) || !inStack s addr 64 || decide (s.sys.bootStep < 10) then s
    else (read.zip ((List.range 4).map fun i => addr + 16 * i)).foldl scrubWord s

/-- The location code that names a channel: that of the first word of its first block. -/
def locChannel (p ch : Nat) : Nat := locDev (p * 2 ^ 36 + ch * 4096)

/-- The retirement of a channel begins, waits for a STACK range, or is refused where the stack has retired one (R455). -/
def startRetire (p ch : Nat) (s : State) : State :=
  let x := stackPort s p
  let left := if x.retiredChannel.isSome || x.retireBlocked.isSome || s.faults.retiring.any (fun e => decide (e / 32 = p)) then true else false
  if left then
    if x.retiredChannel = some ch ∨ x.retireBlocked = some ch ∨ s.faults.retiring.contains (p * 32 + ch) then s
    else event .stackDegraded p s
  else match sliceRange s p with
    | some (base, g) =>
      let s := { s with stackTab := Tab.upd s.stackTab p fun x => { x with retireBlocked := some ch } }
      sparingRecord 5 0 0 (locChannel p ch) .info
        (event .channelRetireBlocked (packFields [(0, 3, p), (8, 8, g.ctx), (64, 56, base)]) s)
    | none => updFaults (fun f => { f with retiring := f.retiring ++ [p * 32 + ch] }) s

/-- ROW_REPAIR_DONE (R455): the DRAM row is repaired, with the repairs that the stack reports left in the bank; none where it had no
resource for this one, and the channel is retired. -/
def execRowRepairDone (addr : Nat) (left : Option Nat) : State → Host.Outcome State Fault Refusal :=
  live fun s =>
    if !s.faults.repairing.contains addr then s
    else
      let p := stackOf addr
      let ch := channelOf addr
      let s := updFaults (fun f => { f with repairing := f.repairing.filter fun a => decide (a ≠ addr) }) s
      match left with
      | none => startRetire p ch s
      | some n =>
        let loc := locDev addr
        let s := updFaults (fun f => { f with hard := f.hard.filter fun l => decide (l ≠ loc), marks := Tab.del f.marks loc }) s
        let k := Tab.getD (stackPort s p).rowRepairs ch 0 + 1
        let s := { s with stackTab := Tab.upd s.stackTab p fun x => { x with rowRepairs := Tab.put x.rowRepairs ch k } }
        let s := logRepair 3 addr loc (sparingRecord 3 0 n loc .corrected s)
        if 32 ≤ k then startRetire p ch s else s

/-- CHANNEL_RETIRE_DONE (R455): the slice is empty and leaves the pool, and the channel's blocks are redirected into it. Every address
outside the slice reaches the same bytes. What lies in the slice moves out first. -/
def execChannelRetireDone (p ch : Nat) : State → Host.Outcome State Fault Refusal :=
  live fun s =>
    if !s.faults.retiring.contains (p * 32 + ch) then s
    else match emptyArea 1 (sliceOf s p).1 (sliceOf s p).2 s with
      | (.gone, s) =>
        let mine (l : Nat) : Bool := decide (l % 16 = 4) && decide (stackOf (l / 16 * 16) = p) && decide (channelOf (l / 16 * 16) = ch)
        let s := { s with stackTab := Tab.upd s.stackTab p fun x => { x with retiredChannel := some ch } }
        let s := updFaults (fun f => { f with
          retiring := f.retiring.filter fun e => decide (e ≠ p * 32 + ch)
          hard := f.hard.filter fun l => !mine l
          marks := f.marks.filter fun e => !mine e.1
          repairing := f.repairing.filter fun a => !mine (locDev a) }) s
        logRepair 4 (p + ch * 8) (locChannel p ch) (sparingRecord 4 0 0 (locChannel p ch) .degraded s)
      | (_, s) => s

/-- STACK_LOST (R458, R460): the rows backed in the stack are fenced, and each is named. -/
def execStackLost (p : Nat) : State → Host.Outcome State Fault Refusal :=
  live fun s =>
    if !populated s p || (stackPort s p).lost then s
    else loseTier 3 1 (fun x => decide (stackOf x.addr = p))
      { s with stackTab := Tab.upd s.stackTab p fun x => { x with lost := true } }

/-- CORRECTED_SUMMARY (R442): at most one a second for a kind, when its count has risen. -/
def execCorrectedSummary (kind : Nat) : State → Host.Outcome State Fault Refusal :=
  live fun s =>
    let n := Tab.getD s.faults.sinceSummary kind 0
    let due := match Tab.get? s.faults.lastSummary kind with
      | some t => decide (t + 100000000 ≤ s.clock)
      | none => true
    if n = 0 ∨ due = false then s
    else faultRecord { cls := .corrected, sev := .corrected, spec := packFields [(0, 4, kind), (32, 32, n)] }
      (updFaults (fun f => { f with
        sinceSummary := Tab.del f.sinceSummary kind, lastSummary := Tab.put f.lastSummary kind s.clock }) s)

/-! ### Bond flits (R419 to R422) -/

/-- The wire on which a symbol came: the data wire, or the spare that stands for it (R421). -/
def wireOf (b : Bond) (dir word symbol : Nat) : Nat :=
  let ws := if dir = 0 then b.failed0 else b.failed1
  let sub := if dir = 0 then b.sub0 else b.sub1
  let d := if b.half then sub * 256 + Config.bondWire word symbol % 256 else Config.bondWire word symbol % 512
  if ws.contains d then
    let before := (ws.filter fun w => decide (w < d) && (!b.half || decide (w / 256 = sub))).length
    (((List.range 16).map fun i => 512 + i).filter fun w => !ws.contains w).getD before d
  else d

/-- What a channel reports as it settles after a wire has failed: repair, degrade or loss (R421 to R423, R458). -/
def bondReport (ch : Nat) (old new : Bond) (s : State) : State :=
  let w0 := bondWidth old
  let w1 := bondWidth new
  let left := worseSpares new
  if new.lost then
    mustLeave (ch + 256) (mustLeave ch (faultRecord (linkRecord 3 1 ch w0 0 left) (linkDegraded 1 ch w0 0 left s)))
  else if w0 ≠ w1 ∨ old.sub0 ≠ new.sub0 ∨ old.sub1 ≠ new.sub1 then
    faultRecord (linkRecord 2 1 ch w0 w1 left) (linkDegraded 1 ch w0 w1 left s)
  else faultRecord (linkRecord 1 1 ch w0 w1 left) s

/-- A flit has a corrected symbol on a wire: the sixteenth within 1 ms fails the wire (R421). -/
def wireHit (ch dir : Nat) (s : State) (wire : Nat) : State :=
  let k := ch * 2048 + dir * 1024 + wire
  let ts := (Tab.getD s.faults.wireHits k []).filter fun t => decide (s.clock < t + 100000)
  let b := bondOf s ch
  if b.lost then s
  else if ts.length < 15 then updFaults (fun f => { f with wireHits := Tab.put f.wireHits k (ts ++ [s.clock]) }) s
  else
    let b' := bondSettle (failWire dir wire b)
    bondReport ch b b' (putBond ch b' (updFaults (fun f => { f with wireHits := Tab.del f.wireHits k }) s))

/-- A bond flit could not be corrected when it was sent again (R420, R447): what it feeds is computed again, once for each task; a second
loss ends the task. A flit that feeds no task is a shadow write or another copy, which the device sends from its source again. -/
def flitLost (ch dir : Nat) (task : Option (Nat × Nat)) (s : State) : State :=
  let loc := locBond ch dir 0
  match task with
  | none => startRebuild { loc := loc, path := 3 } s
  | some (q, n) =>
    match task? s q n with
    | none => s
    | some t =>
      if t.state ≠ .active then s
      else if t.recomputed then
        failTask q n .dataLost (detLoc loc s.fq.recordSeq)
          (uncorrRecord 3 loc false false false none none (some t.ctx) (some (q, n)) s)
      else startRebuild { loc := loc, path := 3, task := some (q, n) } (updTask q n (fun t => { t with recomputed := true }) s)

/-- BOND_FLIT_RECEIVE (R420): 64 words; corrected symbols count against their wires, and a flit with a word that cannot be corrected is
sent once more. The operand names the task that the flit's words feed, if any. -/
def execBondFlitReceive (ch dir : Nat) (words : List CodeWord) (resent : Bool) (task : Option (Nat × Nat)) :
    State → Host.Outcome State Fault Refusal :=
  live fun s =>
    let b := bondOf s ch
    if decide (256 ≤ ch) || decide (2 ≤ dir) || decide (words.length ≠ 64) || b.lost || decide (s.sys.bootStep < 10) then s
    else
      let hits := correctedIn words
      let wires := (hits.map fun h => wireOf b dir h.1 h.2).eraseDups
      let s := wires.foldl (wireHit ch dir) (countCorrected .bond hits.length s)
      if (lostIn words).isEmpty then s
      else if !resent then send (.bondResend ch dir) s
      else flitLost ch dir task s

end Sys2Proof.Machine
end

