-- ==== Sys2Proof/Machine/Sideband.lean ====
section
/-! DEFINITION. The I3C target (R433, R487 to R491), the test access port (R403, R424, R435) and the SPDM responder (R501, R502). -/

namespace Sys2Proof.Machine

/-! ### The I3C register map (R488) -/

/-- Image control (R491): IMG_OFFSET, IMG_DONE reads zero, IMG_BUSY, IMG_STATUS. -/
def imgControl (s : State) : Nat :=
  packFields [(0, 32, s.sys.imgOffset.toNat), (33, 1, b2n s.sys.imgBusy), (40, 8, s.sys.imgStatus)]

/-- One byte of the map (R488). Image data is write-only and reads zero. -/
def i3cByte (s : State) (off : Nat) : Byte :=
  let at' (base x : Nat) : Byte := BitVec.ofNat 8 (bitsOf x (8 * (off - base)) 8)
  if off < 0x8 then at' 0 (engId s)
  else if off < 0x10 then at' 0x8 (engVersion s)
  else if 0x20 ≤ off ∧ off < 0x28 then at' 0x20 (engStateWord s)
  else if 0x28 ≤ off ∧ off < 0x30 then at' 0x28 (engChainAddr s)
  else if 0x40 ≤ off ∧ off < 0x50 then at' 0x40 s.fuses.lowerId.toNat
  else if 0x50 ≤ off ∧ off < 0x60 then at' 0x50 s.fuses.upperId.toNat
  else if 0x100 ≤ off ∧ off < 0x120 then at' 0x100 (telemetry s)
  else if 0x400 ≤ off ∧ off < 0x408 then at' 0x400 (imgControl s)
  else if 0x1000 ≤ off ∧ off < 0x2000 then BitVec.ofNat 8 (windowRead s (off - 0x1000))
  else 0

/-- Bytes of a write that land in `[base, base + n)`, as offset in it and value. -/
def landing (base n off : Nat) (data : List Byte) : List (Nat × Byte) :=
  ((data.zipIdx).filter fun e => decide (base ≤ off + e.2) && decide (off + e.2 < base + n)).map fun e => (off + e.2 - base, e.1)

/-- A number with some of its bytes replaced. -/
def patchNat (x : Nat) (bs : List (Nat × Byte)) : Nat := bs.foldl (fun x b => putBits x (8 * b.1) 8 b.2.toNat) x

/-- IMG_OFFSET takes a write, while start-up waits for an image (R491). -/
def writeImgOffset (bs : List (Nat × Byte)) (s : State) : State :=
  if bs.isEmpty || !imgWaits s then s
  else { s with sys := { s.sys with imgOffset := BitVec.ofNat 32 (patchNat s.sys.imgOffset.toNat bs) } }

/-- A field block of the debug window takes a write (R401, R488). -/
def writeWindow (off : Nat) (data : List Byte) (s : State) (k : Nat) : State :=
  let bs := landing (0x1000 + k) 8 off data
  if bs.isEmpty then s else windowStore k (BitVec.ofNat 64 (patchNat (bitsOf (windowFields s) (8 * k) 64) bs)) s

/-- The target answers its address: COLD_RESET_N is deasserted and it holds a dynamic address (R433, R487). -/
def i3cAnswers (s : State) : Bool := decide (s.sys.engState ≠ .reset) && s.i3c.dynAddr.isSome

/-- I3C_PRIVATE_WRITE (R488): a register offset, then data from that offset upward. IMG_DONE has a row of its own, with the verdict on
the image's signature. -/
def execI3cPrivateWrite (bytes : List Byte) (s : State) : Host.Outcome State Fault Refusal :=
  .next (if !i3cAnswers s || decide (bytes.length < 2) then s
    else
      let bytes := bytes.take s.i3c.mwl
      let off := ofBytes (bytes.take 2)
      let data := bytes.drop 2
      let s := { s with i3c := { s.i3c with offset := off } }
      let s := writeImgOffset (landing 0x400 4 off data) s
      let img := (landing 0x500 256 off data).map Prod.snd
      let s := if img.isEmpty || !imgWaits s then s else imgWrite img s
      [0, 8, 16].foldl (writeWindow off data) s)

/-- I3C_PRIVATE_READ (R488): bytes from the offset of the last write, which advances; at most the maximum read length. -/
def execI3cPrivateRead (n : Nat) (s : State) : Host.Outcome State Fault Refusal :=
  .next (if !i3cAnswers s then s
    else
      let n := min n s.i3c.mrl
      send (.i3c ((List.range n).map fun i => i3cByte s (s.i3c.offset + i)))
        { s with i3c := { s.i3c with offset := (s.i3c.offset + n) % 65536 } })

/-! ### Common command codes (R487) -/

/-- The provisioned identifier (R433). -/
def i3cPid (s : State) : Nat := packFields [(0, 32, bits s.fuses.lowerId 16 32), (33, 15, bits s.fuses.lowerId 59 15)]

/-- The most significant byte first, as the bus carries it. -/
def busBytes (n x : Nat) : List Byte := (toBytes n x).reverse

/-- A code addressed to the target. -/
def i3cRow (f : State → State) (s : State) : Host.Outcome State Fault Refusal := .next (if i3cAnswers s then f s else s)

/-- ENTDAA (R433, R487): a target without an address gives its identifier, BCR and DCR, and takes the address. -/
def execEntdaa (addr : Nat) (s : State) : Host.Outcome State Fault Refusal :=
  .next (if decide (s.sys.engState = .reset) || s.i3c.dynAddr.isSome || decide (128 ≤ addr) then s
    else send (.i3c (busBytes 6 (i3cPid s) ++ [0x06, 0x00])) { s with i3c := { s.i3c with dynAddr := some addr } })

/-- RSTDAA (R487). -/
def execRstdaa (s : State) : Host.Outcome State Fault Refusal :=
  i3cRow (fun s => { s with i3c := { s.i3c with dynAddr := none } }) s

/-- SETNEWDA (R487). -/
def execSetnewda (addr : Nat) (s : State) : Host.Outcome State Fault Refusal :=
  i3cRow (fun s => if 128 ≤ addr then s else { s with i3c := { s.i3c with dynAddr := some addr } }) s

/-- GETPID (R433). -/
def execGetpid (s : State) : Host.Outcome State Fault Refusal := i3cRow (fun s => send (.i3c (busBytes 6 (i3cPid s))) s) s

/-- GETBCR (R487). -/
def execGetbcr (s : State) : Host.Outcome State Fault Refusal := i3cRow (send (.i3c [0x06])) s

/-- GETDCR (R487). -/
def execGetdcr (s : State) : Host.Outcome State Fault Refusal := i3cRow (send (.i3c [0x00])) s

/-- GETSTATUS (R487): two bytes, whose contents the manual does not give. -/
def execGetstatus (s : State) : Host.Outcome State Fault Refusal :=
  i3cRow (fun s => send (.i3c (toBytes 2 (Config.freeWord s.freeCtr).toNat)) { s with freeCtr := s.freeCtr + 1 }) s

/-- ENEC with ENINT: pending in-band interrupts are raised (R490). -/
def execEnec (b : Byte) (s : State) : Host.Outcome State Fault Refusal :=
  i3cRow (fun s =>
    if bit b 0 then
      s.i3c.pending.foldl (fun s k => send (.ibi k) s) { s with i3c := { s.i3c with ibiEnabled := true, pending := [] } }
    else s) s

/-- DISEC with DISINT (R487, R490). -/
def execDisec (b : Byte) (s : State) : Host.Outcome State Fault Refusal :=
  i3cRow (fun s => if bit b 0 then { s with i3c := { s.i3c with ibiEnabled := false } } else s) s

/-- SETMWL (R487). -/
def execSetmwl (n : Nat) (s : State) : Host.Outcome State Fault Refusal :=
  i3cRow (fun s => { s with i3c := { s.i3c with mwl := n % 65536 } }) s

/-- GETMWL (R487): 258 until SETMWL. -/
def execGetmwl (s : State) : Host.Outcome State Fault Refusal := i3cRow (fun s => send (.i3c (busBytes 2 s.i3c.mwl)) s) s

/-- SETMRL (R487). -/
def execSetmrl (n : Nat) (s : State) : Host.Outcome State Fault Refusal :=
  i3cRow (fun s => { s with i3c := { s.i3c with mrl := n % 65536 } }) s

/-- GETMRL (R487): 256 until SETMRL. -/
def execGetmrl (s : State) : Host.Outcome State Fault Refusal := i3cRow (fun s => send (.i3c (busBytes 2 s.i3c.mrl)) s) s

/-- RSTACT (R487): the action of the next target reset is kept. -/
def execRstact (a : Byte) (s : State) : Host.Outcome State Fault Refusal :=
  i3cRow (fun s => { s with i3c := { s.i3c with rstAction := a.toNat } }) s

/-! ### The test access port (R403, R435) -/

/-- The instruction in force. -/
def tapInstr (i : TapInstr) (s : State) : State := { s with tap := { s.tap with instr := i } }

/-- Bits shifted out, the lowest first. -/
def tapBits (n x : Nat) : List Bool := (List.range n).map fun i => x.testBit i

/-- IDCODE's register (R435). -/
def idcodeWord (s : State) : Nat :=
  packFields [(0, 1, 1), (1, 11, bits s.fuses.lowerId 48 11), (12, 16, 0x8400), (28, 4, bits s.fuses.lowerId 2 4)]

/-- BYPASS: one bit, which captures zero (R403). -/
def execBypass (s : State) : Host.Outcome State Fault Refusal := .next (send (.tap [false]) (tapInstr .bypass s))

/-- IDCODE (R435). -/
def execIdcode (s : State) : Host.Outcome State Fault Refusal := .next (send (.tap (tapBits 32 (idcodeWord s))) (tapInstr .idcode s))

/-- SAMPLE: the boundary register captures the pins, whose values are not part of this model (R403). -/
def execSample (s : State) : Host.Outcome State Fault Refusal := .next (tapInstr .sample s)

/-- PRELOAD: the boundary register is loaded (R403). -/
def execPreload (cells : List Bool) (s : State) : Host.Outcome State Fault Refusal :=
  .next { s with tap := { instr := .preload, cells := cells } }

/-- EXTEST: the boundary register drives the pins (R403). -/
def execExtest (s : State) : Host.Outcome State Fault Refusal := .next (tapInstr .extest s)

/-- CLAMP: the boundary register drives the pins and the bypass register is selected (R403). -/
def execClamp (s : State) : Host.Outcome State Fault Refusal := .next (tapInstr .clamp s)

/-- HIGHZ: the pins float (R403). -/
def execHighz (s : State) : Host.Outcome State Fault Refusal := .next (tapInstr .highz s)

/-- FUSE_READ: both identity words, the lower half's first (R424, R435). -/
def execFuseRead (s : State) : Host.Outcome State Fault Refusal :=
  .next (send (.tap (tapBits 128 s.fuses.lowerId.toNat ++ tapBits 128 s.fuses.upperId.toNat)) (tapInstr .fuseRead s))

/-! ### SPDM (R501, R502; log entry 7) -/

/-- The responder answers: firmware runs and the host port carries traffic. -/
def spdmRow (f : State → State) (s : State) : Host.Outcome State Fault Refusal :=
  .next (if (s.sys.lowerUp || s.sys.upperUp) && hostUp s && !s.sys.frozen then f s else s)

/-- A response: its code and body. -/
def spdmSend (code : Nat) (body : List Byte) (s : State) : State := send (.spdm code body) s

/-- An ERROR response. -/
def spdmError (e : Nat) (s : State) : State := spdmSend 0x7F [BitVec.ofNat 8 e] s

/-- Words that only the device's keys and hashes determine. -/
def spdmWords (kind n what : Nat) : List Byte := (List.range n).flatMap fun i => toBytes 8 (Config.spdmBody (64 * kind + i) what).toNat

/-- A word of a response that is fresh: a signature or a key over what the session has seen. -/
def spdmFresh (kind n : Nat) (s : State) : List Byte × State := (spdmWords kind n s.freeCtr, { s with freeCtr := s.freeCtr + 1 })

/-- What a measurement is computed over (R502). -/
def measured (s : State) (i : Nat) : Nat :=
  match i with
  | 2 => (match s.sys.runningImage with
    | some im => imageHeader s im
    | none => 0)
  | 3 => s.sys.cfg.roleTable + s.sys.cfg.pciIds * 2 ^ 64 + s.sys.cfg.stackCount * 2 ^ 192 + b2n s.sys.cfg.orchardProtect * 2 ^ 200 +
      b2n s.sys.cfg.ucieDebug * 2 ^ 201 + b2n s.sys.cfg.stackRate * 2 ^ 202 + b2n s.sys.cfg.hostClocking * 2 ^ 203 +
      s.sys.cfg.ucieModules * 2 ^ 1536 + s.sys.cfg.ucieVectorModule * 2 ^ 1544 + s.sys.cfg.powerLimit * 2 ^ 208 + s.sys.cfg.cxlCtx * 2 ^ 256 + s.sys.cfg.ucieVectorMask * 2 ^ 512
  | 4 => ofBytes s.sys.calInUse
  | 5 => packFields [(0, 8, bits s.fuses.lowerId 2 8), (8, 8, bits s.fuses.upperId 2 8), (16, 8, s.fuses.minSvn)] +
      s.fuses.vendorKeyHash.toNat * 2 ^ 64 + s.fuses.vendorDebugKeyHash.toNat * 2 ^ 448 + s.fuses.licenseeDebugKeyHash.toNat * 2 ^ 832
  | 6 => if s.sys.debugUnlocked then 1 + s.sys.debugKeySel else 0
  | _ => 0

/-- A measurement: a 48-byte digest. -/
def measurement (s : State) (i : Nat) : List Byte := spdmWords i 6 (measured s i)

/-- GET_VERSION (R501): SPDM 1.3; negotiation starts again. -/
def execGetVersion : State → Host.Outcome State Fault Refusal :=
  spdmRow fun s => spdmSend 0x04 [0x13] { s with spdm := { versionDone := true } }

/-- GET_CAPABILITIES (R501). -/
def execGetCapabilities : State → Host.Outcome State Fault Refusal :=
  spdmRow fun s =>
    if s.spdm.versionDone then
      let (body, s) := spdmFresh 8 1 s
      spdmSend 0x61 body { s with spdm := { s.spdm with capsDone := true } }
    else spdmError 4 s

/-- NEGOTIATE_ALGORITHMS (R501). -/
def execNegotiateAlgorithms : State → Host.Outcome State Fault Refusal :=
  spdmRow fun s =>
    if s.spdm.capsDone then
      let (body, s) := spdmFresh 9 1 s
      spdmSend 0x63 body { s with spdm := { s.spdm with algDone := true } }
    else spdmError 4 s

/-- A request that comes after negotiation. -/
def spdmLater (f : State → State) : State → Host.Outcome State Fault Refusal :=
  spdmRow fun s => if s.spdm.algDone then f s else spdmError 4 s

/-- GET_DIGESTS (R501): the digest of slot 0, the only slot populated. -/
def execGetDigests : State → Host.Outcome State Fault Refusal :=
  spdmLater fun s => spdmSend 0x01 (spdmWords 10 6 s.fuses.lowerId.toNat) s

/-- GET_CERTIFICATE (R501). -/
def execGetCertificate (slot : Nat) : State → Host.Outcome State Fault Refusal :=
  spdmLater fun s => if slot = 0 then spdmSend 0x02 (spdmWords 11 6 s.fuses.lowerId.toNat) s else spdmError 1 s

/-- CHALLENGE (R501). -/
def execChallenge : State → Host.Outcome State Fault Refusal :=
  spdmLater fun s =>
    let (sig, s) := spdmFresh 12 12 s
    spdmSend 0x03 sig s

/-- GET_MEASUREMENTS (R502): the count for index 0, one block, or all of them for index 0xFF. -/
def execGetMeasurements (i : Nat) : State → Host.Outcome State Fault Refusal :=
  spdmLater fun s =>
    if i = 0 then spdmSend 0x60 [6] s
    else if i ≤ 6 then spdmSend 0x60 (measurement s i) s
    else if i = 0xFF then spdmSend 0x60 ([1, 2, 3, 4, 5, 6].flatMap (measurement s)) s
    else spdmError 1 s

/-- Sessions change. -/
def updSessions (f : List SpdmSession → List SpdmSession) (s : State) : State :=
  { s with spdm := { s.spdm with sessions := f s.spdm.sessions } }

/-- KEY_EXCHANGE (R501): at most four sessions are open. -/
def execKeyExchange (id : Word32) : State → Host.Outcome State Fault Refusal :=
  spdmLater fun s =>
    if 4 ≤ s.spdm.sessions.length then spdmError 0x0A s
    else if s.spdm.sessions.any fun x => decide (x.id = id.toNat) then spdmError 1 s
    else
      let (body, s) := spdmFresh 13 24 s
      spdmSend 0x64 (toBytes 4 id.toNat ++ body) (updSessions (fun l => l ++ [{ id := id.toNat, established := false }]) s)

/-- A request in a session; `ready` asks that it is established. -/
def inSession (id : Nat) (ready : Bool) (f : State → State) (s : State) : State :=
  if s.spdm.sessions.any fun x => decide (x.id = id) && x.established == ready then f s else spdmError 2 s

/-- The session is gone. -/
def dropSession (id : Nat) (s : State) : State := updSessions (fun l => l.filter fun x => decide (x.id ≠ id)) s

/-- FINISH (R501): the session is established where the check of its secret passes. -/
def execFinish (id : Word32) (ok : Bool) : State → Host.Outcome State Fault Refusal :=
  spdmRow (inSession id.toNat false fun s =>
    if ok then
      spdmSend 0x65 [] (updSessions (fun l => l.map fun x => if x.id = id.toNat then { x with established := true } else x) s)
    else spdmError 6 (dropSession id.toNat s))

/-- HEARTBEAT (R501). -/
def execHeartbeat (id : Word32) : State → Host.Outcome State Fault Refusal :=
  spdmRow (inSession id.toNat true (spdmSend 0x68 []))

/-- KEY_UPDATE (R501): the session's keys advance. -/
def execKeyUpdate (id : Word32) : State → Host.Outcome State Fault Refusal :=
  spdmRow (inSession id.toNat true fun s =>
    spdmSend 0x69 [] (updSessions (fun l => l.map fun x => if x.id = id.toNat then { x with keyGen := x.keyGen + 1 } else x) s))

/-- END_SESSION (R501). -/
def execEndSession (id : Word32) : State → Host.Outcome State Fault Refusal :=
  spdmRow (inSession id.toNat true fun s => spdmSend 0x6C [] (dropSession id.toNat s))

end Sys2Proof.Machine
end

