-- ==== Sys2Proof/Machine/Dispatch.lean ====
section
/-! DEFINITION. The meaning of each command: one arm for each constructor of `Instr`. -/

namespace Sys2Proof.Machine

open Sys2Proof

/-- The effect of a command on everything but the queue of waiting commands. -/
def exec (i : Instr) (s : State) : Host.Outcome State Fault Refusal :=
  match i with
  | .coldResetAssert => Sys2Proof.Machine.execColdResetAssert s
  | .coldResetRelease st => Sys2Proof.Machine.execColdResetRelease st s
  | .warmReset => Sys2Proof.Machine.execWarmReset s
  | .bootStepDone o => Sys2Proof.Machine.execBootStepDone o s
  | .imgDataWrite data => Sys2Proof.Machine.execImgDataWrite data s
  | .imgDone sigOk => Sys2Proof.Machine.execImgDone sigOk s
  | .islandClockLockLoss cluster => Sys2Proof.Machine.execIslandClockLockLoss cluster s
  | .clusterSensorRead clusters lowerDomain upperDomain => Sys2Proof.Machine.execClusterSensorRead clusters lowerDomain upperDomain s
  | .islandLevelFall cluster => Sys2Proof.Machine.execIslandLevelFall cluster s
  | .stackTempRead port reading => Sys2Proof.Machine.execStackTempRead port reading s
  | .stackLevelFall port => Sys2Proof.Machine.execStackLevelFall port s
  | .stackLevel2IslandCap half => Sys2Proof.Machine.execStackLevel2IslandCap half s
  | .creditRefill worked => Sys2Proof.Machine.execCreditRefill worked s
  | .budgetDivide demands => Sys2Proof.Machine.execBudgetDivide demands s
  | .powerLimitCheck meanWatts => Sys2Proof.Machine.execPowerLimitCheck meanWatts s
  | .islandClockChange cluster => Sys2Proof.Machine.execIslandClockChange cluster s
  | .lullL1Entry pair => Sys2Proof.Machine.execLullL1Entry pair s
  | .lullEntry pair => Sys2Proof.Machine.execLullEntry pair s
  | .lullScheduledWake pair => Sys2Proof.Machine.execLullScheduledWake pair s
  | .lullRequestWake pair => Sys2Proof.Machine.execLullRequestWake pair s
  | .lullDemandCheck demand => Sys2Proof.Machine.execLullDemandCheck demand s
  | .lullWakeDone pair => Sys2Proof.Machine.execLullWakeDone pair s
  | .lullEntryDone pair => Sys2Proof.Machine.execLullEntryDone pair s
  | .mpHeartbeat half => Sys2Proof.Machine.execMpHeartbeat half s
  | .mpFatalTrap half => Sys2Proof.Machine.execMpFatalTrap half s
  | .mpFailureDeclared half => Sys2Proof.Machine.execMpFailureDeclared half s
  | .mpHandoverDone half => Sys2Proof.Machine.execMpHandoverDone half s
  | .mpRestartDone half ok => Sys2Proof.Machine.execMpRestartDone half ok s
  | .sequencerMismatch half => Sys2Proof.Machine.execSequencerMismatch half s
  | .watchdogSafe => Sys2Proof.Machine.execWatchdogSafe s
  | .engInfo m => Sys2Proof.Machine.execEngInfo m s
  | .stateReadDevice m => Sys2Proof.Machine.execStateReadDevice m s
  | .stateReadQueue m => Sys2Proof.Machine.execStateReadQueue m s
  | .stateReadTask m => Sys2Proof.Machine.execStateReadTask m s
  | .stateReadTable m => Sys2Proof.Machine.execStateReadTable m s
  | .stateReadGenerations m => Sys2Proof.Machine.execStateReadGenerations m s
  | .stateReadRowPlacement m => Sys2Proof.Machine.execStateReadRowPlacement m s
  | .stateReadPartition m => Sys2Proof.Machine.execStateReadPartition m s
  | .stateReadFeedChannel m => Sys2Proof.Machine.execStateReadFeedChannel m s
  | .stateReadSemaphores m => Sys2Proof.Machine.execStateReadSemaphores m s
  | .stateReadRanges m => Sys2Proof.Machine.execStateReadRanges m s
  | .stateReadOutstandingFaults m => Sys2Proof.Machine.execStateReadOutstandingFaults m s
  | .stateReadStackPort m => Sys2Proof.Machine.execStateReadStackPort m s
  | .stateReadJournal m => Sys2Proof.Machine.execStateReadJournal m s
  | .stateReadRetainedMaps m => Sys2Proof.Machine.execStateReadRetainedMaps m s
  | .stateReadChainTopology m => Sys2Proof.Machine.execStateReadChainTopology m s
  | .stateReadCounters m => Sys2Proof.Machine.execStateReadCounters m s
  | .countersClear m => Sys2Proof.Machine.execCountersClear m s
  | .stateReadAccumulator index => Sys2Proof.Machine.execStateReadAccumulator index s
  | .cmdPoll m => Sys2Proof.Machine.execCmdPoll m s
  | .hostAttach m => Sys2Proof.Machine.execHostAttach m s
  | .journalClear m => Sys2Proof.Machine.execJournalClear m s
  | .ctxCreate m => Sys2Proof.Machine.execCtxCreate m s
  | .ctxDestroy m => Sys2Proof.Machine.execCtxDestroy m s
  | .queueCreate m => Sys2Proof.Machine.execQueueCreate m s
  | .queueDestroy m => Sys2Proof.Machine.execQueueDestroy m s
  | .queueResume m => Sys2Proof.Machine.execQueueResume m s
  | .taskAbort m => Sys2Proof.Machine.execTaskAbort m s
  | .tableCreate m => Sys2Proof.Machine.execTableCreate m s
  | .tableCreateModify m => Sys2Proof.Machine.execTableCreateModify m s
  | .tableLoadMerge m => Sys2Proof.Machine.execTableLoadMerge m s
  | .tableLoadReplace m => Sys2Proof.Machine.execTableLoadReplace m s
  | .loadReplaceStart handle => Sys2Proof.Machine.execLoadReplaceStart handle s
  | .loadReplaceEnd handle => Sys2Proof.Machine.execLoadReplaceEnd handle s
  | .tablePublish m => Sys2Proof.Machine.execTablePublish m s
  | .tablePublishCutNow m => Sys2Proof.Machine.execTablePublishCutNow m s
  | .publishCut publishId => Sys2Proof.Machine.execPublishCut publishId s
  | .tableRetire m => Sys2Proof.Machine.execTableRetire m s
  | .tableDelete m => Sys2Proof.Machine.execTableDelete m s
  | .tableDeleteFree handle => Sys2Proof.Machine.execTableDeleteFree handle s
  | .generationRetire handle gen => Sys2Proof.Machine.execGenerationRetire handle gen s
  | .programLoad m => Sys2Proof.Machine.execProgramLoad m s
  | .programEmpty m => Sys2Proof.Machine.execProgramEmpty m s
  | .programSlotWrite slot => Sys2Proof.Machine.execProgramSlotWrite slot s
  | .orchardClean m => Sys2Proof.Machine.execOrchardClean m s
  | .orchardInvalidate m => Sys2Proof.Machine.execOrchardInvalidate m s
  | .orchardCleanInvalidate m => Sys2Proof.Machine.execOrchardCleanInvalidate m s
  | .waysOn m => Sys2Proof.Machine.execWaysOn m s
  | .codeTableLoad m => Sys2Proof.Machine.execCodeTableLoad m s
  | .codeTableRelease m => Sys2Proof.Machine.execCodeTableRelease m s
  | .shardMapLoad m => Sys2Proof.Machine.execShardMapLoad m s
  | .rangeMap m remoteOk => Sys2Proof.Machine.execRangeMap m remoteOk s
  | .rangeUnmap m => Sys2Proof.Machine.execRangeUnmap m s
  | .unmapDrainDone devBase => Sys2Proof.Machine.execUnmapDrainDone devBase s
  | .rangeProtect m => Sys2Proof.Machine.execRangeProtect m s
  | .windowOpen m => Sys2Proof.Machine.execWindowOpen m s
  | .windowClose m => Sys2Proof.Machine.execWindowClose m s
  | .migrateIn m => Sys2Proof.Machine.execMigrateIn m s
  | .pageResolveFail m => Sys2Proof.Machine.execPageResolveFail m s
  | .migrateOut m => Sys2Proof.Machine.execMigrateOut m s
  | .t4Attach m => Sys2Proof.Machine.execT4Attach m s
  | .streamPolicyPartition m => Sys2Proof.Machine.execStreamPolicyPartition m s
  | .portArb m => Sys2Proof.Machine.execPortArb m s
  | .readTopology m => Sys2Proof.Machine.execReadTopology m s
  | .reenumerate m busyElsewhere => Sys2Proof.Machine.execReenumerate m busyElsewhere s
  | .nextEvent m => Sys2Proof.Machine.execNextEvent m s
  | .powerHintLimit m => Sys2Proof.Machine.execPowerHintLimit m s
  | .clockCap m => Sys2Proof.Machine.execClockCap m s
  | .lullFloor m => Sys2Proof.Machine.execLullFloor m s
  | .calReadStored m => Sys2Proof.Machine.execCalReadStored m s
  | .calReadInUse m => Sys2Proof.Machine.execCalReadInUse m s
  | .writeSet m => Sys2Proof.Machine.execWriteSet m s
  | .recalibrate m => Sys2Proof.Machine.execRecalibrate m s
  | .fwStage m => Sys2Proof.Machine.execFwStage m s
  | .fwVerify m sigOk => Sys2Proof.Machine.execFwVerify m sigOk s
  | .fwActivate m => Sys2Proof.Machine.execFwActivate m s
  | .fwActivated => Sys2Proof.Machine.execFwActivated s
  | .fwCommit m => Sys2Proof.Machine.execFwCommit m s
  | .fwAbort m => Sys2Proof.Machine.execFwAbort m s
  | .ctxKeyLoad m unwrapped => Sys2Proof.Machine.execCtxKeyLoad m unwrapped s
  | .ctxKeyRekey m unwrapped => Sys2Proof.Machine.execCtxKeyRekey m unwrapped s
  | .ctxKeyClear m => Sys2Proof.Machine.execCtxKeyClear m s
  | .getChallenge m => Sys2Proof.Machine.execGetChallenge m s
  | .debugUnlock m hashOk sigOk => Sys2Proof.Machine.execDebugUnlock m hashOk sigOk s
  | .debugLock m => Sys2Proof.Machine.execDebugLock m s
  | .nonceExpire => Sys2Proof.Machine.execNonceExpire s
  | .mailboxBadOpcode m opcode => Sys2Proof.Machine.execMailboxBadOpcode m opcode s
  | .mailboxCollision m opcode => Sys2Proof.Machine.execMailboxCollision m opcode s
  | .deferredCommandEnd ticket => Sys2Proof.Machine.execDeferredCommandEnd ticket s
  | .registerWrite bar offset wide value => Sys2Proof.Machine.execRegisterWrite bar offset wide value s
  | .fqEnableWrite enable => Sys2Proof.Machine.execFqEnableWrite enable s
  | .clearDropped => Sys2Proof.Machine.execClearDropped s
  | .fqConsWrite value => Sys2Proof.Machine.execFqConsWrite value s
  | .debugSnapshot => Sys2Proof.Machine.execDebugSnapshot s
  | .msixUnmask vector => Sys2Proof.Machine.execMsixUnmask vector s
  | .holdoffExpire queue => Sys2Proof.Machine.execHoldoffExpire queue s
  | .sqDoorbell page tail host => Sys2Proof.Machine.execSqDoorbell page tail host s
  | .cqHeadWrite page head => Sys2Proof.Machine.execCqHeadWrite page head s
  | .slotConsume queue => Sys2Proof.Machine.execSlotConsume queue s
  | .slotReread queue host => Sys2Proof.Machine.execSlotReread queue host s
  | .queueWaitingVisible queue => Sys2Proof.Machine.execQueueWaitingVisible queue s
  | .lookup queue seq => Sys2Proof.Machine.execLookup queue seq s
  | .scatter queue seq => Sys2Proof.Machine.execScatter queue seq s
  | .scatterReleaseOnly queue seq => Sys2Proof.Machine.execScatterReleaseOnly queue seq s
  | .retainedMapRelease ctx mapSeq addr => Sys2Proof.Machine.execRetainedMapRelease ctx mapSeq addr s
  | .reduce queue seq => Sys2Proof.Machine.execReduce queue seq s
  | .sort queue seq => Sys2Proof.Machine.execSort queue seq s
  | .shuffleGenerate queue seq => Sys2Proof.Machine.execShuffleGenerate queue seq s
  | .shufflePermute queue seq => Sys2Proof.Machine.execShufflePermute queue seq s
  | .gatherSamples queue seq => Sys2Proof.Machine.execGatherSamples queue seq s
  | .sampleWindow queue seq => Sys2Proof.Machine.execSampleWindow queue seq s
  | .copy queue seq => Sys2Proof.Machine.execCopy queue seq s
  | .armingStart ctx stream => Sys2Proof.Machine.execArmingStart ctx stream s
  | .publish queue seq => Sys2Proof.Machine.execPublish queue seq s
  | .flush queue seq => Sys2Proof.Machine.execFlush queue seq s
  | .fence queue seq => Sys2Proof.Machine.execFence queue seq s
  | .fenceFlushDone queue seq => Sys2Proof.Machine.execFenceFlushDone queue seq s
  | .semSignal queue seq => Sys2Proof.Machine.execSemSignal queue seq s
  | .semWait queue seq => Sys2Proof.Machine.execSemWait queue seq s
  | .semWaitServed ctx sem => Sys2Proof.Machine.execSemWaitServed ctx sem s
  | .taskAdmitRelease queue => Sys2Proof.Machine.execTaskAdmitRelease queue s
  | .deadlineExpire queue seq => Sys2Proof.Machine.execDeadlineExpire queue seq s
  | .taskWorkDone queue seq => Sys2Proof.Machine.execTaskWorkDone queue seq s
  | .ucieLinkUp module lanes => Sys2Proof.Machine.execUcieLinkUp module lanes s
  | .ucieLinkDown module => Sys2Proof.Machine.execUcieLinkDown module s
  | .ucieWidthDegrade module => Sys2Proof.Machine.execUcieWidthDegrade module s
  | .ucieFlitReceive module flit => Sys2Proof.Machine.execUcieFlitReceive module flit s
  | .ucieNak module ackSeq => Sys2Proof.Machine.execUcieNak module ackSeq s
  | .hello module msg => Sys2Proof.Machine.execHello module msg s
  | .helloTimeout module => Sys2Proof.Machine.execHelloTimeout module s
  | .credit module msg => Sys2Proof.Machine.execCredit module msg s
  | .feedOpen module msg => Sys2Proof.Machine.execFeedOpen module msg s
  | .feedClose module msg => Sys2Proof.Machine.execFeedClose module msg s
  | .ucieBadControl module msg => Sys2Proof.Machine.execUcieBadControl module msg s
  | .keys r => Sys2Proof.Machine.execKeys r s
  | .keysWeighted r => Sys2Proof.Machine.execKeysWeighted r s
  | .tokens r => Sys2Proof.Machine.execTokens r s
  | .tagEnd r => Sys2Proof.Machine.execTagEnd r s
  | .gradFp32 r => Sys2Proof.Machine.execGradFp32 r s
  | .gradBf16 r => Sys2Proof.Machine.execGradBf16 r s
  | .gradPackedFp32 r => Sys2Proof.Machine.execGradPackedFp32 r s
  | .gradPackedBf16 r => Sys2Proof.Machine.execGradPackedBf16 r s
  | .recordConsumed src => Sys2Proof.Machine.execRecordConsumed src s
  | .cxlMemRequest module r => Sys2Proof.Machine.execCxlMemRequest module r s
  | .cxlIoTlp module decoderBase => Sys2Proof.Machine.execCxlIoTlp module decoderBase s
  | .cohMessage module => Sys2Proof.Machine.execCohMessage module s
  | .ucieDebugAccess module offset write value => Sys2Proof.Machine.execUcieDebugAccess module offset write value s
  | .pitterUnitGrant queue seq unit => Sys2Proof.Machine.execPitterUnitGrant queue seq unit s
  | .dedupDone queue seq => Sys2Proof.Machine.execDedupDone queue seq s
  | .rowTransitArrive queue seq key cluster => Sys2Proof.Machine.execRowTransitArrive queue seq key cluster s
  | .rowDeposit queue seq key firstRef cluster core => Sys2Proof.Machine.execRowDeposit queue seq key firstRef cluster core s
  | .bagOpen queue seq bag cluster => Sys2Proof.Machine.execBagOpen queue seq bag cluster s
  | .partialMerge queue seq bag cluster => Sys2Proof.Machine.execPartialMerge queue seq bag cluster s
  | .bagFinish queue seq bag => Sys2Proof.Machine.execBagFinish queue seq bag s
  | .bagSend queue seq bag => Sys2Proof.Machine.execBagSend queue seq bag s
  | .deliveryAcked stream => Sys2Proof.Machine.execDeliveryAcked stream s
  | .bucketFinish queue seq key cluster => Sys2Proof.Machine.execBucketFinish queue seq key cluster s
  | .rowProgramStart queue seq key fetch => Sys2Proof.Machine.execRowProgramStart queue seq key fetch s
  | .chunkStart core => Sys2Proof.Machine.execChunkStart core s
  | .nop core o => Sys2Proof.Machine.execNop core o s
  | .fadd core o => Sys2Proof.Machine.execFadd core o s
  | .fsub core o => Sys2Proof.Machine.execFsub core o s
  | .fmul core o => Sys2Proof.Machine.execFmul core o s
  | .fma core o => Sys2Proof.Machine.execFma core o s
  | .fnma core o => Sys2Proof.Machine.execFnma core o s
  | .fmax core o => Sys2Proof.Machine.execFmax core o s
  | .fmin core o => Sys2Proof.Machine.execFmin core o s
  | .fabs core o => Sys2Proof.Machine.execFabs core o s
  | .fneg core o => Sys2Proof.Machine.execFneg core o s
  | .mov core o => Sys2Proof.Machine.execMov core o s
  | .sel core o => Sys2Proof.Machine.execSel core o s
  | .rcp core o => Sys2Proof.Machine.execRcp core o s
  | .rsqrt core o => Sys2Proof.Machine.execRsqrt core o s
  | .exp2 core o => Sys2Proof.Machine.execExp2 core o s
  | .log2 core o => Sys2Proof.Machine.execLog2 core o s
  | .fcmpLt core o => Sys2Proof.Machine.execFcmpLt core o s
  | .fcmpLe core o => Sys2Proof.Machine.execFcmpLe core o s
  | .fcmpEq core o => Sys2Proof.Machine.execFcmpEq core o s
  | .fcmpUn core o => Sys2Proof.Machine.execFcmpUn core o s
  | .pand core o => Sys2Proof.Machine.execPand core o s
  | .por core o => Sys2Proof.Machine.execPor core o s
  | .pnot core o => Sys2Proof.Machine.execPnot core o s
  | .radd core o => Sys2Proof.Machine.execRadd core o s
  | .rmax core o => Sys2Proof.Machine.execRmax core o s
  | .movx core o => Sys2Proof.Machine.execMovx core o s
  | .ldg core o => Sys2Proof.Machine.execLdg core o s
  | .ldr core o => Sys2Proof.Machine.execLdr core o s
  | .ldrj core o => Sys2Proof.Machine.execLdrj core o s
  | .lds core o => Sys2Proof.Machine.execLds core o s
  | .ldw core o => Sys2Proof.Machine.execLdw core o s
  | .str core o => Sys2Proof.Machine.execStr core o s
  | .strj core o => Sys2Proof.Machine.execStrj core o s
  | .sts core o => Sys2Proof.Machine.execSts core o s
  | .stw core o => Sys2Proof.Machine.execStw core o s
  | .programEnd core => Sys2Proof.Machine.execProgramEnd core s
  | .deltaPoolWaitExpire w => Sys2Proof.Machine.execDeltaPoolWaitExpire w s
  | .deltaPoolRoom w => Sys2Proof.Machine.execDeltaPoolRoom w s
  | .commitPoint core => Sys2Proof.Machine.execCommitPoint core s
  | .cleanWriteDone handle row => Sys2Proof.Machine.execCleanWriteDone handle row s
  | .writeBackFail core => Sys2Proof.Machine.execWriteBackFail core s
  | .streamEntryIssue queue seq => Sys2Proof.Machine.execStreamEntryIssue queue seq s
  | .transferIssue transfer => Sys2Proof.Machine.execTransferIssue transfer s
  | .transferComplete transfer poisoned => Sys2Proof.Machine.execTransferComplete transfer poisoned s
  | .headwindRefill partition port ns => Sys2Proof.Machine.execHeadwindRefill partition port ns s
  | .atsTranslationComplete r => Sys2Proof.Machine.execAtsTranslationComplete r s
  | .priResponse entry code => Sys2Proof.Machine.execPriResponse entry code s
  | .priResponseTimeout entry => Sys2Proof.Machine.execPriResponseTimeout entry s
  | .atsInvalidation pasid => Sys2Proof.Machine.execAtsInvalidation pasid s
  | .atsInvalidationComplete pasid => Sys2Proof.Machine.execAtsInvalidationComplete pasid s
  | .agentCompletionDoorbell count host => Sys2Proof.Machine.execAgentCompletionDoorbell count host s
  | .t4Timeout seq => Sys2Proof.Machine.execT4Timeout seq s
  | .patrolScrubBank core word key read => Sys2Proof.Machine.execPatrolScrubBank core word key read s
  | .patrolScrubHbm addr read => Sys2Proof.Machine.execPatrolScrubHbm addr read s
  | .rebuildDone rebuild => Sys2Proof.Machine.execRebuildDone rebuild s
  | .correctedSummary kind => Sys2Proof.Machine.execCorrectedSummary kind s
  | .coreReplaceDone core => Sys2Proof.Machine.execCoreReplaceDone core s
  | .rowRepairDone addr left => Sys2Proof.Machine.execRowRepairDone addr left s
  | .channelRetireDone port channel => Sys2Proof.Machine.execChannelRetireDone port channel s
  | .clusterLeaveService cluster => Sys2Proof.Machine.execClusterLeaveService cluster s
  | .bondFlitReceive channel dir words resent task => Sys2Proof.Machine.execBondFlitReceive channel dir words resent task s
  | .driftEpoch cycles => Sys2Proof.Machine.execDriftEpoch cycles s
  | .partitionResize => Sys2Proof.Machine.execPartitionResize s
  | .moveCopyDone handle row => Sys2Proof.Machine.execMoveCopyDone handle row s
  | .moveSwitch handle row => Sys2Proof.Machine.execMoveSwitch handle row s
  | .moveSourceFree handle row => Sys2Proof.Machine.execMoveSourceFree handle row s
  | .hostLoss k => Sys2Proof.Machine.execHostLoss k s
  | .hostLinkRetrain lanes => Sys2Proof.Machine.execHostLinkRetrain lanes s
  | .hostLinkUp lanes => Sys2Proof.Machine.execHostLinkUp lanes s
  | .expanderLinkDown port => Sys2Proof.Machine.execExpanderLinkDown port s
  | .enumTokenOffer port fromRoot nextAddr epoch => Sys2Proof.Machine.execEnumTokenOffer port fromRoot nextAddr epoch s
  | .enumTokenReturn port nextAddr answer links => Sys2Proof.Machine.execEnumTokenReturn port nextAddr answer links s
  | .chainTable port hdr payload => Sys2Proof.Machine.execChainTable port hdr payload s
  | .enumNoRoot => Sys2Proof.Machine.execEnumNoRoot s
  | .peerLinkDown port => Sys2Proof.Machine.execPeerLinkDown port s
  | .peerLinkUp port lanes => Sys2Proof.Machine.execPeerLinkUp port lanes s
  | .peerLinkDegrade port lanes => Sys2Proof.Machine.execPeerLinkDegrade port lanes s
  | .probeReq p => Sys2Proof.Machine.execProbeReq p s
  | .partialPkt p => Sys2Proof.Machine.execPartialPkt p s
  | .contrib p => Sys2Proof.Machine.execContrib p s
  | .resultPkt p => Sys2Proof.Machine.execResultPkt p s
  | .rankDone p => Sys2Proof.Machine.execRankDone p s
  | .combinerDone p => Sys2Proof.Machine.execCombinerDone p s
  | .slotDeadline job key rank => Sys2Proof.Machine.execSlotDeadline job key rank s
  | .backupDeadline job key rank => Sys2Proof.Machine.execBackupDeadline job key rank s
  | .combinerUnreachableDeadline job combiner => Sys2Proof.Machine.execCombinerUnreachableDeadline job combiner s
  | .movePkt p => Sys2Proof.Machine.execMovePkt p s
  | .mapUpdate p => Sys2Proof.Machine.execMapUpdate p s
  | .taskBegin p => Sys2Proof.Machine.execTaskBegin p s
  | .taskEnd p => Sys2Proof.Machine.execTaskEnd p s
  | .codeNotice p => Sys2Proof.Machine.execCodeNotice p s
  | .publishRelay p => Sys2Proof.Machine.execPublishRelay p s
  | .loadReport p => Sys2Proof.Machine.execLoadReport p s
  | .ack p => Sys2Proof.Machine.execAck p s
  | .peerBadPacket p => Sys2Proof.Machine.execPeerBadPacket p s
  | .readReq p => Sys2Proof.Machine.execReadReq p s
  | .readData p => Sys2Proof.Machine.execReadData p s
  | .windowWrite p => Sys2Proof.Machine.execWindowWrite p s
  | .windowMemop p => Sys2Proof.Machine.execWindowMemop p s
  | .writeAck p => Sys2Proof.Machine.execWriteAck p s
  | .i3cPrivateWrite data => Sys2Proof.Machine.execI3cPrivateWrite data s
  | .i3cPrivateRead count => Sys2Proof.Machine.execI3cPrivateRead count s
  | .entdaa addr => Sys2Proof.Machine.execEntdaa addr s
  | .rstdaa => Sys2Proof.Machine.execRstdaa s
  | .setnewda addr => Sys2Proof.Machine.execSetnewda addr s
  | .getpid => Sys2Proof.Machine.execGetpid s
  | .getbcr => Sys2Proof.Machine.execGetbcr s
  | .getdcr => Sys2Proof.Machine.execGetdcr s
  | .getstatus => Sys2Proof.Machine.execGetstatus s
  | .enec bits => Sys2Proof.Machine.execEnec bits s
  | .disec bits => Sys2Proof.Machine.execDisec bits s
  | .setmwl len => Sys2Proof.Machine.execSetmwl len s
  | .getmwl => Sys2Proof.Machine.execGetmwl s
  | .setmrl len => Sys2Proof.Machine.execSetmrl len s
  | .getmrl => Sys2Proof.Machine.execGetmrl s
  | .rstact action => Sys2Proof.Machine.execRstact action s
  | .bypass => Sys2Proof.Machine.execBypass s
  | .idcode => Sys2Proof.Machine.execIdcode s
  | .sample => Sys2Proof.Machine.execSample s
  | .preload cells => Sys2Proof.Machine.execPreload cells s
  | .extest => Sys2Proof.Machine.execExtest s
  | .clamp => Sys2Proof.Machine.execClamp s
  | .highz => Sys2Proof.Machine.execHighz s
  | .fuseRead => Sys2Proof.Machine.execFuseRead s
  | .getVersion => Sys2Proof.Machine.execGetVersion s
  | .getCapabilities => Sys2Proof.Machine.execGetCapabilities s
  | .negotiateAlgorithms => Sys2Proof.Machine.execNegotiateAlgorithms s
  | .getDigests => Sys2Proof.Machine.execGetDigests s
  | .getCertificate slot => Sys2Proof.Machine.execGetCertificate slot s
  | .challenge => Sys2Proof.Machine.execChallenge s
  | .getMeasurements index => Sys2Proof.Machine.execGetMeasurements index s
  | .keyExchange sessionId => Sys2Proof.Machine.execKeyExchange sessionId s
  | .finish sessionId ok => Sys2Proof.Machine.execFinish sessionId ok s
  | .heartbeat sessionId => Sys2Proof.Machine.execHeartbeat sessionId s
  | .keyUpdate sessionId => Sys2Proof.Machine.execKeyUpdate sessionId s
  | .endSession sessionId => Sys2Proof.Machine.execEndSession sessionId s
  | .expanderLinkUp port => Sys2Proof.Machine.execExpanderLinkUp port s
  | .expanderLinkDegrade port lanes => Sys2Proof.Machine.execExpanderLinkDegrade port lanes s
  | .ucieLaneRepair module => Sys2Proof.Machine.execUcieLaneRepair module s
  | .stackLost port => Sys2Proof.Machine.execStackLost port s
  | .priEnable => Sys2Proof.Machine.execPriEnable s
  | .peerFlitReceive port words => Sys2Proof.Machine.execPeerFlitReceive port words s
  | .relayReport p => Sys2Proof.Machine.execRelayReport p s
  | .shardMapInstalled p => Sys2Proof.Machine.execShardMapInstalled p s
  | .uncodedResendRequest p => Sys2Proof.Machine.execUncodedResendRequest p s
  | .bucketResendRequest p => Sys2Proof.Machine.execBucketResendRequest p s
  | .generationRetiredAnswer p => Sys2Proof.Machine.execGenerationRetiredAnswer p s

end Sys2Proof.Machine
end

