-- ==== Sys2Proof/Machine/RegRead.lean ====
section
/-! DEFINITION. What a register read by the host returns (R3, R8, R9, R261, R351 to R355, R363, R392, R394, R401). No register of the block
changes when it is read, so a read is a function of the state and no command. -/

namespace Sys2Proof.Machine

/-- The mailbox block (R355) as one number, bit 0 at offset 0x0100. Triggers read zero (R8). -/
def mbxBlock (s : State) : Nat :=
  packFields [(0, 16, s.mbx.opcode.toNat), (16, 8, s.mbx.issuer.toNat), (32, 32, s.mbx.tag.toNat), (64, 1, b2n s.mbx.busy),
    (65, 1, b2n s.mbx.done), (66, 1, b2n s.mbx.collision), (80, 16, s.mbx.status.toNat), (96, 32, s.mbx.tagEcho.toNat),
    (128, 64, s.mbx.ticketDone.toNat), (1024, 2048, s.mbx.args.toNat), (3072, 2048, s.mbx.result.toNat)]

/-- The fault-queue block (R392), bit 0 at offset 0x0400. -/
def fqBlock (s : State) : Nat :=
  packFields ([(0, 64, s.fq.base.toNat), (64, 1, b2n s.fq.enable), (128, 32, s.fq.prod.toNat), (160, 32, s.fq.cons.toNat),
    (192, 64, s.fq.dropped), (256, 1, b2n (fqFull s.fq))] ++
    (List.range 16).map fun k => (512 + 32 * k, 32, Tab.getD s.fq.classDropped k 0))

/-- The interrupt block (R394), bit 0 at offset 0x0800. -/
def irqBlock (s : State) : Nat := packFields [(0, 7, s.irq.causes.toNat), (16, 7, s.irq.enables.toNat)]

/-- DBG_DATA: 3,840 bytes of the snapshot from DBG_OFFSET; bytes beyond the record read zero (R401, R402). -/
def dbgData (s : State) : List Byte := sliceBytes s.dbg.snapshot s.dbg.offset.toNat 3840

/-- The debug window (R401), bit 0 at offset 0x1000. -/
def dbgBlock (s : State) : Nat :=
  packFields [(0, 16, s.dbg.selector.toNat), (16, 8, s.dbg.ctx.toNat), (40, 24, s.dbg.offset.toNat), (64, 64, s.dbg.index.toNat),
    (129, 1, b2n s.dbg.busy), (144, 16, s.dbg.status.toNat), (160, 32, s.dbg.length.toNat)] + ofBytes (dbgData s) * 2 ^ 2048

/-- 32 bits of a block at a byte offset from its first. -/
def wordOf (block off : Nat) : Nat := bitsOf block (8 * off) 32

/-- The identity and status registers below offset 0x0030 (R351). -/
def idBlock (s : State) : Nat :=
  packFields [(0, 64, engId s), (64, 64, engVersion s), (128, 64, engCaps0 s), (256, 64, engStateWord s), (320, 64, engChainAddr s)]

/-- A 32-bit read in BAR0. A reserved offset reads zero (R352). -/
def readBar0 (s : State) (off : Nat) : Nat :=
  if off < 0x30 then wordOf (idBlock s) off
  else if off < 0x100 then 0
  else if off < 0x400 then wordOf (mbxBlock s) (off - 0x100)
  else if off < 0x800 then wordOf (fqBlock s) (off - 0x400)
  else if off < 0x1000 then wordOf (irqBlock s) (off - 0x800)
  else if off < 0x2000 then wordOf (dbgBlock s) (off - 0x1000)
  else 0

/-- A 32-bit read in BAR2: the doorbell page of a queue (R363). The page of no queue reads zero. -/
def readBar2 (s : State) (off : Nat) : Nat :=
  match Tab.get? s.queues (off / 0x1000) with
  | some q => if off % 0x1000 < 32 then wordOf (doorbellPage s (off / 0x1000) q) (off % 0x1000) else 0
  | none => 0

/-- A 32-bit read in BAR4: the MSI-X table of 1,024 vectors, and the pending bits (R351, R395). -/
def readBar4 (s : State) (off : Nat) : Nat :=
  if off < 0x4000 then
    let e := Tab.getD s.irq.msixTable (off / 16) {}
    wordOf (packFields [(0, 64, e.addr.toNat), (64, 32, e.data.toNat), (96, 1, b2n e.masked)]) (off % 16)
  else if off < 0x4080 then
    packFields ((List.range 32).map fun i => (i, 1, b2n (s.irq.pending.contains (8 * (off - 0x4000) + i))))
  else 0

/-- An aligned read of 32 or 64 bits, while the host port is up (R352). -/
def readReg (s : State) (bar : Bar) (off : Nat) (wide : Bool) : Nat :=
  let word (o : Nat) : Nat := match bar with
    | .bar0 => readBar0 s o
    | .bar2 => readBar2 s o
    | .bar4 => readBar4 s o
  if wide then word off + word (off + 4) * 2 ^ 32 else word off

end Sys2Proof.Machine
end

