-- ==== Sys2Proof/Safety.lean ====
section
/-! DEFINITION. The terms in which claims about the machine are stated: a command that completes, a mailbox command that ends, the
canonical memories, and the frozen state of SAFE. -/

namespace Sys2Proof

open Sys2Proof.Machine

/-- The command answers a next state, and that state has the property. -/
def Completes (c : Instr) (s : State) (P : State → Prop) : Prop := ∃ t, exec c s = .next t ∧ P t

/-- Every byte memory of the state is in canonical form: addresses rise, and no cell holds what an unlisted address reads as. -/
def memWf (s : State) : Bool :=
  cellsWf 0 s.mem && cellsWf 0 s.hostMem && cellsWf 0 s.sys.imgData && cellsWf 0xFF s.flash

/-- The mailbox takes a command now (R355, R356, R359): the host port is up, BUSY is 0, and the device is READY. -/
def MbxOpen (s : State) : Prop := hostUp s = true ∧ s.mbx.busy = false ∧ s.sys.engState = .ready

/-- The mailbox takes a command of a kind that is also served outside READY (R359, R500). -/
def MbxServes (always safeToo : Bool) (s : State) : Prop :=
  hostUp s = true ∧ s.mbx.busy = false ∧ servedNow s always safeToo = true

/-- The state in which the body of a mailbox command runs: the host's writes are visible and GO is taken (R356). -/
def mbxIn (opcode : Nat) (m : MbxCall) (args : BitVec 2048) (s : State) : State := mbxTake opcode m args (hostWrote m.host s)

/-- The mailbox shows the end of the command with this tag and status (R356): BUSY is 0, DONE is 1, TAG_ECHO and STATUS are
written, and cause MAILBOX_DONE is 1. -/
def MbxEnds (m : MbxCall) (st : Status) (t : State) : Prop :=
  t.mbx.busy = false ∧ t.mbx.done = true ∧ t.mbx.tagEcho = m.tag ∧ t.mbx.status = BitVec.ofNat 16 st.code ∧
    t.irq.causes.toNat.testBit Cause.mailboxDone.index = true

/-- The command goes on in the mailbox until what it waits for (R356): BUSY stays 1. -/
def MbxWaits (opcode : Nat) (m : MbxCall) (w : JobWait) (t : State) : Prop :=
  t.mbx.busy = true ∧ t.mbx.done = false ∧ t.mbx.running = some { opcode := opcode, tag := m.tag, issuer := m.issuer, wait := w }

/-- The command that the mailbox runs ends with this status (R356). -/
def JobEnds (r : Running) (st : Status) (t : State) : Prop :=
  t.mbx.busy = false ∧ t.mbx.done = true ∧ t.mbx.running = none ∧ t.mbx.tagEcho = r.tag ∧ t.mbx.status = BitVec.ofNat 16 st.code

/-- No request of another device's look-up is held here, so that the end of a hold lets none go on (R177, R275). -/
def NoneHeld (s : State) : Prop := ∀ e ∈ s.work.chain.remotes, e.2.held = []

/-- Nothing but the mailbox registers, the interrupt block, what is sent, and the UCIe modules that may carry a vector has
changed. -/
def MbxOnly (s t : State) : Prop :=
  t = { s with mbx := t.mbx, irq := t.irq, sent := t.sent, links := { s.links with ucie := t.links.ucie } }

/-- Nothing differs but what the device reports: the event log, the counters, the fault queue with its ring in host memory, the interrupt
block, the I3C target, what is sent, and the UCIe modules that may carry a vector. -/
def SameButReports (s t : State) : Prop :=
  t = { s with events := t.events, counters := t.counters, fq := t.fq, hostMem := t.hostMem, irq := t.irq, i3c := t.i3c,
               sent := t.sent, links := { s.links with ucie := t.links.ucie } }

/-- The mailbox call of a command of R360, which the driver issues through the mailbox (R355). -/
def Instr.mbx? : Instr → Option MbxCall
  | .engInfo m | .stateReadDevice m | .stateReadQueue m | .stateReadTask m | .stateReadTable m
    | .stateReadGenerations m | .stateReadRowPlacement m | .stateReadPartition m | .stateReadFeedChannel m
    | .stateReadSemaphores m | .stateReadRanges m | .stateReadOutstandingFaults m | .stateReadStackPort m
    | .stateReadJournal m | .stateReadRetainedMaps m | .stateReadChainTopology m | .stateReadCounters m
    | .countersClear m | .cmdPoll m | .hostAttach m | .journalClear m | .ctxCreate m
    | .ctxDestroy m | .queueCreate m | .queueDestroy m | .queueResume m | .taskAbort m | .tableCreate m
    | .tableCreateModify m | .tableLoadMerge m | .tableLoadReplace m | .tablePublish m | .tablePublishCutNow m
    | .tableRetire m | .tableDelete m | .programLoad m | .programEmpty m | .orchardClean m | .orchardInvalidate m
    | .orchardCleanInvalidate m | .waysOn m | .codeTableLoad m | .codeTableRelease m | .shardMapLoad m | .rangeMap m _
    | .rangeUnmap m | .rangeProtect m | .windowOpen m | .windowClose m | .migrateIn m | .pageResolveFail m
    | .migrateOut m | .t4Attach m | .streamPolicyPartition m | .portArb m | .readTopology m | .reenumerate m _
    | .nextEvent m | .powerHintLimit m | .clockCap m | .lullFloor m | .calReadStored m | .calReadInUse m | .writeSet m
    | .recalibrate m | .fwStage m | .fwVerify m _ | .fwActivate m | .fwCommit m | .fwAbort m | .ctxKeyLoad m _
    | .ctxKeyRekey m _ | .ctxKeyClear m | .getChallenge m | .debugUnlock m _ _ | .debugLock m => some m
  | _ => none

/-- The rows of STATE_READ with their selector, and whether the row clears the group (R389, R484). -/
def readRows : List ((MbxCall → Instr) × Nat × Bool) :=
  [(.stateReadDevice, 1, false), (.stateReadQueue, 2, false), (.stateReadTask, 3, false), (.stateReadTable, 4, false),
   (.stateReadGenerations, 5, false), (.stateReadRowPlacement, 6, false), (.stateReadPartition, 7, false),
   (.stateReadFeedChannel, 8, false), (.stateReadSemaphores, 9, false), (.stateReadRanges, 10, false),
   (.stateReadOutstandingFaults, 11, false), (.stateReadStackPort, 12, false), (.stateReadJournal, 13, false),
   (.stateReadRetainedMaps, 14, false), (.stateReadChainTopology, 15, false), (.stateReadCounters, 16, false),
   (.countersClear, 16, true)]

/-- A peer packet of the type is the next of its flow and comes to this device with the payload given, decoded where it was coded, with no
reserved field of its group sub-header set (R257, R258, R266, R267, R269). -/
def PeerTaken (type : Nat) (p : PeerPkt) (s : State) (body : List Byte) : Prop :=
  peerUp s p.port = true ∧ s.work.chain.valid = true ∧ pktType p = type ∧ pktBad p = false ∧ pktDst p = s.work.chain.addr ∧
    pktOld s p = false ∧ pktAhead s p = false ∧ pktBody s p = some body ∧ groupBad type body = false

/-- A CONTROL packet of the kind comes to this device. -/
def CtlTaken (k : Ctl) (p : PeerPkt) (s : State) (body : List Byte) : Prop :=
  PeerTaken 10 p s body ∧ bitsOf (ctlHead p.payload) 0 8 = k.code

/-- The flow of the job to the device ends with an unacknowledged packet of the type and payload (R257, R258). -/
def PeerSentLast (t : State) (dst job type : Nat) (payload : List Byte) : Prop :=
  ∃ f p, Tab.get? t.work.chain.flows (flowKey dst job) = some f ∧ f.unacked.getLast? = some p ∧ bits p.hdr 0 4 = type ∧
    p.raw = pad16 payload

/-- The last event of the log has this code and these arguments (R485). -/
def LastEvent (t : State) (code : EventCode) (args : Nat) : Prop :=
  ∃ e, t.events.events.getLast? = some e ∧ e.code = code ∧ e.args = args

end Sys2Proof
end

