-- ==== Sys2Proof/WellFormed.lean ====
section
/-! DEFINITION. Well-formed commands: every operand lies within the field or the numbering that the spec gives it. -/

namespace Sys2Proof

/-- A mailbox call names an issuer of eight bits (R357). -/
def MbxCall.wf (m : MbxCall) : Bool := decide (m.issuer < 256)

/-- The fields of a row-program instruction fit their places (R190). -/
def RowOp.wf (o : RowOp) : Bool :=
  decide (o.pred < 4) && decide (o.dst < 32) && decide (o.srcA < 32) && decide (o.srcB < 32) && decide (o.srcC < 32)

/-- A packet comes through a peer port, a lane group (R266, R414). -/
def PeerPkt.wf (p : PeerPkt) : Bool := decide (p.port < 12) && decide (p.payload.length % 16 = 0)

/-- An answer to the enumeration token names an address and a port (R260). -/
def EnumAnswer.wf : EnumAnswer → Bool
  | .taken addr atPort | .refused addr atPort => decide (addr < 16) && decide (atPort < 12)
  | .full | .conflict => true

/-- The command's operands lie in their ranges: clusters, cores, pairs and channels (R17, R418, R478), ports and modules (R404, R414),
queues and sequence numbers (R362, R483), handles, rows and keys (R64), and the register numbers of chapters 12 to 15. -/
def Instr.wf : Instr → Bool
  | .coldResetAssert | .coldResetRelease _ | .warmReset | .bootStepDone _ | .imgDataWrite _ | .imgDone _
    | .clusterSensorRead _ _ _ | .creditRefill _ | .budgetDivide _ | .powerLimitCheck _ | .lullDemandCheck _ | .watchdogSafe
    | .publishCut _ | .fwActivated | .nonceExpire | .fqEnableWrite _ | .clearDropped | .fqConsWrite _ | .debugSnapshot | .keys _
    | .keysWeighted _ | .tokens _ | .tagEnd _ | .gradFp32 _ | .gradBf16 _ | .gradPackedFp32 _ | .gradPackedBf16 _
    | .recordConsumed _ | .transferIssue _ | .transferComplete _ _ | .atsTranslationComplete _ | .atsInvalidation _
    | .atsInvalidationComplete _ | .agentCompletionDoorbell _ _ | .rebuildDone _ | .driftEpoch _ | .partitionResize | .hostLoss _
    | .enumNoRoot | .i3cPrivateWrite _ | .rstdaa | .getpid | .getbcr | .getdcr | .getstatus | .enec _ | .disec _ | .getmwl
    | .getmrl | .rstact _ | .bypass | .idcode | .sample | .preload _ | .extest | .clamp | .highz | .fuseRead | .getVersion
    | .getCapabilities | .negotiateAlgorithms | .getDigests | .challenge | .keyExchange _ | .finish _ _ | .heartbeat _
    | .keyUpdate _ | .endSession _ | .priEnable | .stateReadAccumulator _ => true
  | .islandClockLockLoss cluster | .islandLevelFall cluster | .islandClockChange cluster | .clusterLeaveService cluster =>
    decide (cluster < 512)
  | .stackTempRead port _ | .stackLevelFall port | .expanderLinkDown port | .peerLinkDown port | .expanderLinkUp port
    | .stackLost port => decide (port < 12)
  | .stackLevel2IslandCap half | .mpHeartbeat half | .mpFatalTrap half | .mpFailureDeclared half | .mpHandoverDone half
    | .mpRestartDone half _ | .sequencerMismatch half => decide (half < 2)
  | .lullL1Entry pair | .lullEntry pair | .lullScheduledWake pair | .lullRequestWake pair | .lullWakeDone pair
    | .lullEntryDone pair => decide (pair < 256)
  | .engInfo m | .stateReadDevice m | .stateReadQueue m | .stateReadTask m | .stateReadTable m | .stateReadGenerations m
    | .stateReadRowPlacement m | .stateReadPartition m | .stateReadFeedChannel m | .stateReadSemaphores m | .stateReadRanges m
    | .stateReadOutstandingFaults m | .stateReadStackPort m | .stateReadJournal m | .stateReadRetainedMaps m
    | .stateReadChainTopology m | .stateReadCounters m | .countersClear m | .cmdPoll m | .hostAttach m
    | .journalClear m | .ctxCreate m | .ctxDestroy m | .queueCreate m | .queueDestroy m | .queueResume m | .taskAbort m
    | .tableCreate m | .tableCreateModify m | .tableLoadMerge m | .tableLoadReplace m | .tablePublish m | .tablePublishCutNow m
    | .tableRetire m | .tableDelete m | .programLoad m | .programEmpty m | .orchardClean m | .orchardInvalidate m
    | .orchardCleanInvalidate m | .waysOn m | .codeTableLoad m | .codeTableRelease m | .shardMapLoad m | .rangeMap m _
    | .rangeUnmap m | .rangeProtect m | .windowOpen m | .windowClose m | .migrateIn m | .pageResolveFail m | .migrateOut m
    | .t4Attach m | .streamPolicyPartition m | .portArb m | .readTopology m | .reenumerate m _ | .nextEvent m | .powerHintLimit m
    | .clockCap m | .lullFloor m | .calReadStored m | .calReadInUse m | .writeSet m | .recalibrate m | .fwStage m | .fwVerify m _
    | .fwActivate m | .fwCommit m | .fwAbort m | .ctxKeyLoad m _ | .ctxKeyRekey m _ | .ctxKeyClear m | .getChallenge m
    | .debugUnlock m _ _ | .debugLock m => m.wf
  | .loadReplaceStart handle | .loadReplaceEnd handle | .tableDeleteFree handle => decide (handle < 2 ^ 16)
  | .generationRetire handle gen => decide (handle < 2 ^ 16) && decide (gen < 2 ^ 48)
  | .programSlotWrite slot => decide (slot < 8)
  | .unmapDrainDone devBase => decide (devBase < 2 ^ 56)
  | .mailboxBadOpcode m opcode | .mailboxCollision m opcode => m.wf && decide (opcode < 2 ^ 16)
  | .deferredCommandEnd ticket => decide (ticket < 64)
  | .registerWrite _ offset _ _ => decide (offset < 2 ^ 24)
  | .msixUnmask vector => decide (vector < 1024)
  | .holdoffExpire queue | .slotConsume queue | .slotReread queue _ | .queueWaitingVisible queue | .taskAdmitRelease queue =>
    decide (queue < 1024)
  | .sqDoorbell page _ _ | .cqHeadWrite page _ => decide (page < 1024)
  | .lookup queue seq | .scatter queue seq | .scatterReleaseOnly queue seq | .reduce queue seq | .sort queue seq
    | .shuffleGenerate queue seq | .shufflePermute queue seq | .gatherSamples queue seq | .sampleWindow queue seq
    | .copy queue seq | .publish queue seq | .flush queue seq | .fence queue seq | .fenceFlushDone queue seq
    | .semSignal queue seq | .semWait queue seq | .deadlineExpire queue seq | .taskWorkDone queue seq | .dedupDone queue seq
    | .streamEntryIssue queue seq => decide (queue < 1024) && decide (seq < 2 ^ 32)
  | .retainedMapRelease ctx mapSeq addr => decide (ctx < 256) && decide (mapSeq < 2 ^ 32) && decide (addr < 2 ^ 56)
  | .armingStart ctx stream => decide (ctx < 256) && decide (stream < 4096)
  | .semWaitServed ctx sem => decide (ctx < 256) && decide (sem < 4096)
  | .ucieLinkUp module lanes => decide (module < 8) && decide (lanes < 129)
  | .ucieLinkDown module | .ucieWidthDegrade module | .ucieFlitReceive module _ | .hello module _ | .helloTimeout module
    | .credit module _ | .feedOpen module _ | .feedClose module _ | .ucieBadControl module _ | .cxlMemRequest module _
    | .cxlIoTlp module _ | .cohMessage module | .ucieLaneRepair module => decide (module < 8)
  | .ucieNak module ackSeq => decide (module < 8) && decide (ackSeq < 2 ^ 16)
  | .ucieDebugAccess module offset _ _ => decide (module < 8) && decide (offset < 2 ^ 24)
  | .pitterUnitGrant queue seq unit => decide (queue < 1024) && decide (seq < 2 ^ 32) && decide (unit < 64)
  | .rowTransitArrive queue seq key cluster | .bucketFinish queue seq key cluster =>
    decide (queue < 1024) && decide (seq < 2 ^ 32) && decide (key < 2 ^ 64) && decide (cluster < 512)
  | .rowDeposit queue seq key firstRef cluster core =>
    decide (queue < 1024) && decide (seq < 2 ^ 32) && decide (key < 2 ^ 64) && decide (firstRef < 2 ^ 40) && decide (cluster < 512) && decide (core < 2 ^ 20)
  | .bagOpen queue seq bag cluster | .partialMerge queue seq bag cluster =>
    decide (queue < 1024) && decide (seq < 2 ^ 32) && decide (bag < 2 ^ 24) && decide (cluster < 512)
  | .bagFinish queue seq bag | .bagSend queue seq bag => decide (queue < 1024) && decide (seq < 2 ^ 32) && decide (bag < 2 ^ 24)
  | .deliveryAcked stream => decide (stream < 32)
  | .rowProgramStart queue seq key x =>
    decide (queue < 1024) && decide (seq < 2 ^ 32) && decide (key < 2 ^ 64) && decide (x.core < 2 ^ 20) && x.reads.all fun r => decide (r.1 < 16)
  | .deltaPoolWaitExpire w | .deltaPoolRoom w => match w with
    | .run core => decide (core < 2 ^ 20)
    | .load id => decide (id < 2 ^ 64)
  | .chunkStart core | .programEnd core | .commitPoint core
    | .writeBackFail core | .coreReplaceDone core => decide (core < 2 ^ 20)
  | .nop core o | .fadd core o | .fsub core o | .fmul core o | .fma core o | .fnma core o | .fmax core o | .fmin core o
    | .fabs core o | .fneg core o | .mov core o | .sel core o | .rcp core o | .rsqrt core o | .exp2 core o | .log2 core o
    | .fcmpLt core o | .fcmpLe core o | .fcmpEq core o | .fcmpUn core o | .pand core o | .por core o | .pnot core o | .radd core o
    | .rmax core o | .movx core o | .ldg core o | .ldr core o | .ldrj core o | .lds core o | .ldw core o | .str core o
    | .strj core o | .sts core o | .stw core o => decide (core < 2 ^ 20) && o.wf
  | .cleanWriteDone handle row | .moveCopyDone handle row | .moveSwitch handle row | .moveSourceFree handle row =>
    decide (handle < 2 ^ 16) && decide (row < 2 ^ 48)
  | .headwindRefill partition port _ => decide (partition < 16) && decide (port < 28)
  | .priResponse entry code => decide (entry < 65536) && decide (code < 16)
  | .priResponseTimeout entry => decide (entry < 65536)
  | .t4Timeout seq => decide (seq < 2 ^ 32)
  | .patrolScrubBank core word _ _ => decide (core < 2 ^ 20) && decide (word < 384)
  | .patrolScrubHbm addr read => decide (addr < 2 ^ 39) && decide (read.length = 4)
  | .correctedSummary kind => decide (kind < 16)
  | .rowRepairDone addr _ => decide (addr < 2 ^ 39)
  | .channelRetireDone port channel => decide (port < 12) && decide (channel < 256)
  | .bondFlitReceive channel dir words _ _ => decide (channel < 256) && decide (dir < 2) && decide (words.length = 64)
  | .hostLinkRetrain lanes | .hostLinkUp lanes => decide (lanes < 129)
  | .enumTokenOffer port _ nextAddr _ => decide (port < 12) && decide (nextAddr < 17)
  | .enumTokenReturn port nextAddr r _ => decide (port < 12) && decide (nextAddr < 17) && r.wf
  | .peerLinkUp port lanes | .peerLinkDegrade port lanes | .expanderLinkDegrade port lanes =>
    decide (port < 12) && decide (lanes < 129)
  | .chainTable port hdr payload => PeerPkt.wf { port := port, hdr := hdr, payload := payload }
  | .probeReq p | .partialPkt p | .contrib p | .resultPkt p | .rankDone p | .combinerDone p | .movePkt p | .mapUpdate p
    | .taskBegin p | .taskEnd p | .codeNotice p | .publishRelay p | .loadReport p | .ack p | .peerBadPacket p | .readReq p
    | .readData p | .windowWrite p | .windowMemop p | .writeAck p | .relayReport p | .shardMapInstalled p
    | .uncodedResendRequest p | .bucketResendRequest p | .generationRetiredAnswer p => p.wf
  | .slotDeadline job key rank | .backupDeadline job key rank => decide (job < 4096) && decide (key < 2 ^ 64) && decide (rank < 16)
  | .combinerUnreachableDeadline job combiner => decide (job < 4096) && decide (combiner < 16)
  | .i3cPrivateRead count => decide (count < 2 ^ 16)
  | .entdaa addr | .setnewda addr => decide (addr < 128)
  | .setmwl len | .setmrl len => decide (len < 2 ^ 16)
  | .getCertificate slot => decide (slot < 16)
  | .getMeasurements index => decide (index < 256)
  | .peerFlitReceive port words => decide (port < 12) && decide (words.length = 16)

end Sys2Proof
end

