-- ==== Sys2Proof/Certificates/Slice0/Obligations.lean ====
section
/-! DEFINITION. The statements about the machine. Each says which rules of the manual it formalises. -/

open Sys2Proof Sys2Proof.Machine

/-- A step is the execution of the front command; an idle step is one tick of the clock (the model's choice, log entry 2). -/
def Obligations.StepRunsFrontCommand : Prop :=
  (∀ (c : Instr) (rest : List Instr) (s : State), step { s with pending := c :: rest } = exec c { s with pending := rest }) ∧
    ∀ s : State, s.pending = [] → step s = .next { s with clock := s.clock + 1 }

/-- Every command answers a next state in every state. The manual describes every condition that it calls a fault as an effect
on the state. -/
def Obligations.EveryCommandRuns : Prop := ∀ (c : Instr) (s : State), ∃ t, exec c s = .next t

/-- Warm reset (R518). That the sampled straps stay is the model's reading of R431 (log entry 10). -/
def Obligations.WarmResetRestartsAtStepFour : Prop :=
  (∀ s : State, s.sys.engState ≠ .reset → 3 ≤ s.sys.bootStep →
    Completes .warmReset s fun t =>
      t.sys = { engState := .booting, chainRoot := s.sys.chainRoot, bootSrc := s.sys.bootSrc, bootStep := 3 } ∧
      t.fuses = s.fuses ∧ t.flash = s.flash ∧
      t = { State.reset with pending := s.pending, clock := s.clock, freeCtr := s.freeCtr, fuses := s.fuses, flash := s.flash,
                             mem := outsideStacks s.mem, hostMem := s.hostMem, sent := s.sent, sys := t.sys, irq := t.irq, i3c := t.i3c }) ∧
  (∀ (o : BootObs) (s t : State), s.sys.engState ≠ .reset → 3 ≤ s.sys.bootStep → halfExchange o.copies = none →
    (lostBonds (bondTest (s.fuses.bondWires ++ o.failedWires) State.reset)).length ≤ 64 → exec .warmReset s = .next t →
    Completes (.bootStepDone o) t fun u => u.sys.engState = .booting ∧ u.sys.bootStep = 4 ∧ u.fuses = s.fuses)

/-- Cold reset and its release (R431, R432, R515). What outlasts a reset besides fuses, boot flash and straps lies
outside the device; that expander and flash bytes are kept is the model's choice (log entry 3). -/
def Obligations.ColdResetLosesDeviceState : Prop :=
  (∀ s : State, exec .coldResetAssert s = .next
    { State.reset with pending := s.pending, freeCtr := s.freeCtr, fuses := s.fuses, flash := s.flash,
                       mem := outsideStacks s.mem, hostMem := s.hostMem, sent := s.sent }) ∧
  (∀ (st : Straps) (s : State), s.sys.engState = .reset → st.bootSrc < 4 →
    Completes (.coldResetRelease st) s fun t =>
      t.sys = { engState := .booting, chainRoot := st.chainRoot, bootSrc := st.bootSrc } ∧ t.fuses = s.fuses ∧ t.flash = s.flash ∧
      t.irq.causes.toNat.testBit Cause.stateChange.index = true ∧ t.i3c.pending = [1] ∧
      t = { State.reset with pending := s.pending, freeCtr := s.freeCtr, fuses := s.fuses, flash := s.flash,
                             mem := outsideStacks s.mem, hostMem := s.hostMem, sent := s.sent, sys := t.sys, irq := t.irq, i3c := t.i3c })

/-- Start-up runs its steps in order (R515); each clause is one row of the table of R515, with the failures of R425, R434, R466 and R516, and the
calibration of R494. -/
def Obligations.StartUpStepsInOrder : Prop :=
  ∀ (o : BootObs) (s : State), s.sys.engState = .booting →
    (s.sys.bootStep = 0 → exec (.bootStepDone o) s = .next { s with sys := { s.sys with bootStep := 1 } }) ∧
    (s.sys.bootStep = 1 → o.fusesOk = true → exec (.bootStepDone o) s = .next { s with sys := { s.sys with bootStep := 2 } }) ∧
    (s.sys.bootStep = 1 → o.fusesOk = false → Completes (.bootStepDone o) s fun t =>
      t.sys.engState = .safe ∧ t.sys.safeCause = .halfMismatch ∧ t.sys.bootStep = 1) ∧
    (s.sys.bootStep = 2 → s.sys.bootSrc = 3 → exec (.bootStepDone o) s = .next s) ∧
    (s.sys.bootStep = 2 → s.sys.bootSrc ≠ 3 → o.pllOk = true →
      exec (.bootStepDone o) s = .next { s with sys := { s.sys with bootStep := 3 } }) ∧
    (s.sys.bootStep = 2 → s.sys.bootSrc ≠ 3 → o.pllOk = false → Completes (.bootStepDone o) s fun t =>
      t.sys.engState = .safe ∧ t.sys.safeCause = .recoveryFailed) ∧
    (s.sys.bootStep = 3 → o.copies.length ≠ 3 → Completes (.bootStepDone o) s fun t =>
      t.sys.engState = .safe ∧ t.sys.safeCause = .interconnectTestFailed) ∧
    (∀ a b c : Word128 × Word128, s.sys.bootStep = 3 → o.copies = [a, b, c] →
      (halfId (majority a.1 b.1 c.1) ≠ 1 ∨ halfId (majority a.2 b.2 c.2) ≠ 2 ∨
        pairingRuns (steppingOf (majority a.1 b.1 c.1)) (steppingOf (majority a.2 b.2 c.2)) = false) →
      Completes (.bootStepDone o) s fun t => t.sys.engState = .safe ∧ t.sys.safeCause = .halfMismatch) ∧
    (s.sys.bootStep = 3 → halfExchange o.copies = none →
      (lostBonds (bondTest (s.fuses.bondWires ++ o.failedWires) s)).length ≤ 64 →
      Completes (.bootStepDone o) s fun t => t.sys.engState = .booting ∧ t.sys.bootStep = 4 ∧
        t.links.bonds = (bondTest (s.fuses.bondWires ++ o.failedWires) s).links.bonds) ∧
    (s.sys.bootStep = 3 → halfExchange o.copies = none →
      64 < (lostBonds (bondTest (s.fuses.bondWires ++ o.failedWires) s)).length →
      Completes (.bootStepDone o) s fun t => t.sys.engState = .safe ∧ t.sys.safeCause = .interconnectTestFailed) ∧
    (s.sys.bootStep = 4 → (bootCfg s).valid = false → Completes (.bootStepDone o) s fun t =>
      t.sys.engState = .safe ∧ t.sys.safeCause = .bootImageInvalid ∧ t.sys.bootStep = 4) ∧
    (s.sys.bootStep = 4 → (bootCfg s).valid = true → Completes (.bootStepDone o) s fun t =>
      t.sys.engState = .booting ∧ t.sys.bootStep = 5 ∧ t.sys.cfg = bootCfg s ∧
      (t.sys.flashMode = if o.sfdp8d then .octal else .serial) ∧
      (∀ c ∈ s.fuses.retiredClusters, c < 512 → c ∈ t.faults.retiredClusters) ∧
      (∀ c ∈ lostBonds s, c < 256 → c ∈ t.faults.retiredClusters ∧ c + 256 ∈ t.faults.retiredClusters)) ∧
    (∀ im : FwImage, s.sys.bootStep = 5 → bootImage o s = some im → Completes (.bootStepDone o) s fun t =>
      t.sys.engState = .booting ∧ t.sys.bootStep = 6 ∧ t.sys.runningImage = some im ∧ t.sys.lowerUp = true ∧ t.sys.upperUp = true) ∧
    (s.sys.bootStep = 5 → s.sys.bootSrc ≠ 2 → bootImage o s = none →
      exec (.bootStepDone o) s = .next { s with sys := { s.sys with bootStep := 6, bootFail := true } }) ∧
    (s.sys.bootStep = 6 → (directory s).recal = false →
      (calOk s (calStored s) = true →
        exec (.bootStepDone o) s = .next { s with sys := { s.sys with bootStep := 7, calInUse := calStored s } }) ∧
      (calOk s (calStored s) = false → Completes (.bootStepDone o) s fun t =>
        t.sys.engState = .booting ∧ t.sys.bootStep = 7 ∧ t.sys.calInUse = [] ∧ t.flash = s.flash ∧ LastEvent t .calDefaults 0)) ∧
    (s.sys.bootStep = 6 → (directory s).recal = true →
      let img := calImage s 1 (o.trims.flatMap fun t => toBytes 16 t.toNat)
      Completes (.bootStepDone o) s fun t => t.sys.engState = .booting ∧ t.sys.bootStep = 7 ∧ t.sys.calInUse = img ∧
        t.flash = (storeCal img s).flash) ∧
    (s.sys.bootStep = 7 → s.sys.bootFail = true → Completes (.bootStepDone o) s fun t =>
      t.sys.engState = .safe ∧ t.sys.safeCause = .bootImageInvalid ∧ t.sys.bootStep = 8 ∧
      t.links.host.up = decide (0 < o.hostLanes)) ∧
    (s.sys.bootStep = 7 → s.sys.bootFail = false → Completes (.bootStepDone o) s fun t =>
      t.sys.engState = .booting ∧ t.sys.bootStep = 8 ∧ t.links.host.up = decide (0 < o.hostLanes)) ∧
    (s.sys.bootStep = 8 → o.stackFail = true → Completes (.bootStepDone o) s fun t =>
      t.sys.engState = .safe ∧ t.sys.safeCause = .interconnectTestFailed) ∧
    (s.sys.bootStep = 8 → o.stackFail = false → Completes (.bootStepDone o) s fun t =>
      t.sys.engState = .booting ∧ t.sys.bootStep = 9 ∧ ∀ a, a < 2 ^ 39 → cellGet 0 t.mem a = 0) ∧
    (s.sys.bootStep = 9 → o.arrayFail = true → Completes (.bootStepDone o) s fun t =>
      t.sys.engState = .safe ∧ t.sys.safeCause = .recoveryFailed) ∧
    (s.sys.bootStep = 9 → o.arrayFail = false → serviceClusters s ≠ [] → Completes (.bootStepDone o) s fun t =>
      t.sys.engState = .booting ∧ t.sys.bootStep = 10 ∧ t.power.base.k = 40) ∧
    (s.sys.bootStep = 10 → (o.ucieLanes.map Prod.fst).Nodup → Completes (.bootStepDone o) s fun t =>
      t.sys.engState = .booting ∧ t.sys.bootStep = 11 ∧
      (∀ e ∈ o.ucieLanes, e.1 < 8 → s.sys.cfg.ucieModules.testBit e.1 = true → 0 < e.2 →
        (ucieOf t e.1).up = true ∧ (ucieOf t e.1).lanes = e.2) ∧
      (∀ m, (∀ e ∈ o.ucieLanes, e.1 ≠ m) → (ucieOf t m).up = (ucieOf s m).up ∧ (ucieOf t m).lanes = (ucieOf s m).lanes)) ∧
    (s.sys.bootStep = 11 → Completes (.bootStepDone o) s fun t =>
      t.sys.engState = .booting ∧ t.sys.bootStep = 12 ∧
      (∀ e, e < (portGroups s.sys.cfg.roleTable 2).length →
        let cap := min (o.expanderBytes.getD e 0) (2 ^ 40)
        Tab.get? t.links.expanders e = some { up := decide (0 < cap), lanes := if 0 < cap then 8 else 0, capacity := cap }) ∧
      (∀ g ∈ portGroups s.sys.cfg.roleTable 3,
        let lanes := ((o.peerLanes.find? fun e => e.1 = g).map Prod.snd).getD 0
        Tab.get? t.links.peers g = some { up := decide (0 < lanes), lanes := min lanes (fullLanes s g) })) ∧
    (s.sys.bootStep = 12 → enumEnded s = true → exec (.bootStepDone o) s = .next { s with sys := { s.sys with bootStep := 13 } }) ∧
    (13 ≤ s.sys.bootStep → Completes (.bootStepDone o) s fun t =>
      t.sys.engState = .ready ∧ t.sys.bootStep = 14 ∧ t.irq.causes.toNat.testBit Cause.stateChange.index = true ∧
      t.work = s.work ∧ t.power = s.power ∧ t.mem = s.mem)

/-- The image registers (R491). The places of the register fields are shown by the sideband statements; here is what writes do. -/
def Obligations.ImageWritesLandAtOffset : Prop :=
  (∀ (data : List Byte) (s : State), imgWaits s = true → s.sys.imgOffset.toNat + data.length < 2 ^ 32 →
    Completes (.imgDataWrite data) s fun t =>
      t.sys.imgOffset.toNat = s.sys.imgOffset.toNat + data.length ∧
      (∀ i, i < data.length → cellGet 0 t.sys.imgData (s.sys.imgOffset.toNat + i) = data.getD i 0) ∧
      (∀ a, a < s.sys.imgOffset.toNat ∨ s.sys.imgOffset.toNat + data.length ≤ a →
        cellGet 0 t.sys.imgData a = cellGet 0 s.sys.imgData a) ∧
      t = { s with sys := { s.sys with imgData := t.sys.imgData, imgOffset := t.sys.imgOffset } }) ∧
  (∀ (sigOk : Bool) (s : State), imgWaits s = true →
    exec (.imgDone sigOk) s = .next { s with sys := { s.sys with imgStatus := imgStatusOf (checkHeader s (i3cHeader s) sigOk) } }) ∧
  (∀ (data : List Byte) (sigOk : Bool) (s : State), imgWaits s = false →
    exec (.imgDataWrite data) s = .next s ∧ exec (.imgDone sigOk) s = .next s) ∧
  (∀ (o : BootObs) (s : State), imgWaits s = true →
    Completes (.bootStepDone o) s fun t => if s.sys.imgStatus = 1 then t.sys.bootStep = 6 ∧ t.sys.runningImage = some .i3c else t = s)

/-- Heat (R325, R470 to R472). A list of readings names each cluster once. -/
def Obligations.ThermalLevelsAndTrip : Prop :=
  (∀ (rs : List (Nat × Int)) (lo up : Int) (s : State), s.sys.engState ≠ .reset → s.sys.frozen = false →
    (115 ≤ lo ∨ 115 ≤ up ∨ ∃ r ∈ rs, r.1 < 512 ∧ 115 ≤ r.2) →
    Completes (.clusterSensorRead rs lo up) s fun t =>
      t.sys = { s.sys with engState := .safe, safeCause := .thermalTrip, frozen := true } ∧ t.fq = s.fq ∧
      (s.sys.engState ≠ .safe → t.irq.causes.toNat.testBit Cause.stateChange.index = true) ∧
      SameButReports { s with sys := t.sys, power := t.power } t) ∧
  (∀ (rs : List (Nat × Int)) (lo up : Int) (s : State), s.sys.engState ≠ .reset → s.sys.frozen = false → lo < 115 → up < 115 →
    (∀ r ∈ rs, r.1 < 512 ∧ r.2 < 115) → (rs.map Prod.fst).Nodup →
    Completes (.clusterSensorRead rs lo up) s fun t =>
      (∀ r ∈ rs, (island t r.1).level = max (island s r.1).level (islandLevelOf r.2) ∧ (island t r.1).temp = r.2) ∧
      (∀ c, c ∉ rs.map Prod.fst → island t c = island s c) ∧ t.power.lowerDomain = lo ∧ t.power.upperDomain = up ∧
      SameButReports { s with power := t.power } t) ∧
  (∀ (c : Nat) (r : Int) (s : State), s.sys.engState ≠ .reset → s.sys.frozen = false → c < 512 → 105 ≤ r → r < 115 →
    (island s c).level < 3 → Completes (.clusterSensorRead [(c, r)] 0 0) s fun t =>
      (island t c).level = 3 ∧ t.fq.recordSeq = seqNext 32 s.fq.recordSeq ∧
      LastEvent t .islandThermal (packFields [(0, 9, c), (12, 3, 3), (16, 8, unsignedOf r 8)])) ∧
  (∀ (c : Nat) (s : State), s.sys.frozen = false → c < 512 → 0 < (island s c).level →
    (island s c).temp < islandThreshold (island s c).level - 2 →
    Completes (.islandLevelFall c) s fun t =>
      island t c = { island s c with level := (island s c).level - 1 } ∧ (∀ d, d ≠ c → island t d = island s d) ∧
      SameButReports { s with power := t.power } t) ∧
  (∀ (p : Nat) (r : Int) (s : State), s.sys.frozen = false → populated s p = true → r < 105 →
    Completes (.stackTempRead p r) s fun t =>
      (stackPort t p).level = max (stackPort s p).level (stackLevelOf r) ∧ (stackPort t p).temp = r ∧
      (∀ q, q ≠ p → stackPort t q = stackPort s q) ∧
      ((stackPort s p).level = 0 → (stackPort t p).counters = (stackPort s p).counters) ∧
      (1 ≤ (stackPort s p).level → Tab.getD (stackPort t p).counters StackCtr.throttleUs.index 0 =
        satAdd 64 (Tab.getD (stackPort s p).counters StackCtr.throttleUs.index 0) 100) ∧
      ((stackPort s p).level < stackLevelOf r →
        LastEvent t .stackThrottle (packFields [(0, 3, p), (4, 3, stackLevelOf r), (8, 8, unsignedOf r 8)])) ∧
      (4 ≤ stackLevelOf r → (stackPort s p).level < 4 → t.fq.recordSeq = seqNext 32 s.fq.recordSeq) ∧
      SameButReports { s with stackTab := t.stackTab, power := t.power } t) ∧
  (∀ (p : Nat) (r : Int) (s : State), s.sys.frozen = false → populated s p = true → 105 ≤ r →
    Completes (.stackTempRead p r) s fun t =>
      t.sys = { s.sys with engState := .safe, safeCause := .thermalTrip, frozen := true } ∧ t.fq = s.fq ∧ t.work = s.work ∧
      t.tasks = s.tasks ∧ t.mem = s.mem) ∧
  (∀ (p : Nat) (s : State), s.sys.frozen = false → populated s p = true → 0 < (stackPort s p).level →
    (stackPort s p).temp < stackThreshold (stackPort s p).level - 2 →
    Completes (.stackLevelFall p) s fun t =>
      (stackPort t p).level = (stackPort s p).level - 1 ∧ (∀ q, q ≠ p → stackPort t q = stackPort s q) ∧
      LastEvent t .stackThrottle (packFields [(0, 3, p), (4, 3, (stackPort s p).level - 1), (8, 8, unsignedOf (stackPort s p).temp 8)]) ∧
      SameButReports { s with stackTab := t.stackTab, power := t.power } t)

/-- The power manager (R325, R430, R470, R474 to R476). The division within the bounds of R475 is the model's choice (log entry 13), and
so is the clock within the caps (log entry 12). -/
def Obligations.PowerManagerBounds : Prop :=
  (∀ (h : Nat) (s : State), s.sys.frozen = false → h < 2 → halfAtLevel2 s h = true → h ∉ s.power.level2Halves →
    Completes (.stackLevel2IslandCap h) s fun t =>
      (∀ g, g ∈ t.power.level2Halves ↔ g = h ∨ g ∈ s.power.level2Halves) ∧
      t = { s with power := { s.power with level2Halves := t.power.level2Halves } }) ∧
  (∀ (c : Nat) (s : State), s.sys.frozen = false → c < 512 → 10 ≤ s.sys.bootStep →
    Completes (.islandClockChange c) s fun t =>
      (island t c).k = min (min s.power.kMax (min (levelCap (island s c).level) (levelCap (island s (mirror c)).level)))
        (stackCap s (halfOf c)) ∧
      (∀ d, d ≠ c → island t d = island s d) ∧ t = { s with power := { s.power with islands := t.power.islands } }) ∧
  (∀ (worked : List (Nat × Nat × Nat)) (s : State), s.sys.frozen = false →
    Completes (.creditRefill worked) s fun t =>
      (∀ (c : Nat) (i : Island), Tab.get? s.power.islands c = some i → ∃ j, Tab.get? t.power.islands c = some j ∧
        j.credit ≤ 20 * i.grant ∧ j.grant = i.grant ∧
        j.credit = min (20 * i.grant)
          (i.credit - (((worked.find? fun e => e.1 = c).map fun e => e.2.1).getD 0) + i.grant) ∧
        j.stalled = decide (j.credit = 0)) ∧
      counterVal t Ctr.creditStallCycles.index =
        satAdd 64 (counterVal s Ctr.creditStallCycles.index) (sumNat (worked.map fun e => e.2.2)) ∧
      t = { s with power := { s.power with islands := t.power.islands, base := t.power.base }, counters := t.counters }) ∧
  (∀ (ds : List (Nat × Nat)) (s : State), s.sys.frozen = false → managerRuns s = true →
    (ds.map Prod.fst).Nodup → serviceClusters s ≠ [] →
    Completes (.budgetDivide ds) s fun t =>
      (∀ c, (∀ d ∈ ds, d.1 = c → d.2 = 0 ∨ c ∉ serviceClusters s) → (island t c).grant = 0) ∧
      (∀ d ∈ ds, 0 < d.2 → d.1 ∈ serviceClusters s →
        let i := island s d.1
        let least := min (s.power.budget / (2 * (serviceClusters s).length)) (64000 * i.k)
        if i.level = 3 then least / 2 ≤ (island t d.1).grant ∧ (island t d.1).grant ≤ 64000 * i.k / 2
        else least ≤ (island t d.1).grant ∧ (island t d.1).grant ≤ 64000 * i.k) ∧
      t = { s with power := { s.power with islands := t.power.islands, base := { s.power.base with grant := 0 } } }) ∧
  (∀ (watts : Nat) (s : State), s.sys.frozen = false → managerRuns s = true → 10 ≤ s.sys.bootStep →
    Completes (.powerLimitCheck watts) s fun t =>
      (limitInForce s < watts → t.power.budget = s.power.budget - 468000 * (watts - limitInForce s)) ∧
      (100 * watts < 97 * limitInForce s → t.power.budget = min (budgetCap s) (s.power.budget + budgetCap s / 20)) ∧
      (watts ≤ limitInForce s → 97 * limitInForce s ≤ 100 * watts → t.power.budget = s.power.budget) ∧
      t.power.limited = decide (t.power.budget < budgetCap s) ∧
      (t.power.limited = s.power.limited → t.events = s.events) ∧
      (t.power.limited ≠ s.power.limited → LastEvent t .powerLimited
        (packFields [(0, 1, b2n t.power.limited), (16, 16, watts), (32, 10, t.power.budget * 1000 / max 1 (budgetCap s))])) ∧
      SameButReports
        { s with power := { s.power with budget := t.power.budget, meanWatts := watts, limited := t.power.limited,
                                         energyRest := t.power.energyRest } } t)

/-- POWER_HINT (R477), through the mailbox (R356). -/
def Obligations.PowerHintsTakeEffect : Prop :=
  ∀ (m : MbxCall) (s : State), MbxOpen s →
    (zeroFields (hintArgs 1 m) (hintReserved 1) = true → Completes (.nextEvent m) s fun t =>
      MbxEnds m .ok t ∧ t.power.nextEventAt =
        (if bits m.args 64 32 = 0 then none else some (s.clock + 100 * bits m.args 64 32)) ∧
      MbxOnly { hostWrote m.host s with power := { s.power with nextEventAt := t.power.nextEventAt } } t) ∧
    (zeroFields (hintArgs 2 m) (hintReserved 2) = true →
      (bits m.args 16 16 = 0 ∨ (1000 ≤ bits m.args 16 16 ∧ bits m.args 16 16 ≤ 2500)) → Completes (.powerHintLimit m) s fun t =>
      MbxEnds m .ok t ∧ MbxOnly { hostWrote m.host s with power := { s.power with limitHint := bits m.args 16 16 } } t) ∧
    (¬ (bits m.args 16 16 = 0 ∨ (1000 ≤ bits m.args 16 16 ∧ bits m.args 16 16 ≤ 2500)) → Completes (.powerHintLimit m) s fun t =>
      MbxEnds m .badReserved t ∧ MbxOnly (hostWrote m.host s) t) ∧
    (zeroFields (hintArgs 3 m) (hintReserved 3) = true → 16 ≤ bits m.args 32 6 → bits m.args 32 6 ≤ 40 →
      Completes (.clockCap m) s fun t =>
      MbxEnds m .ok t ∧ MbxOnly { hostWrote m.host s with power := { s.power with kMax := bits m.args 32 6 } } t) ∧
    ((bits m.args 32 6 < 16 ∨ 40 < bits m.args 32 6) → Completes (.clockCap m) s fun t =>
      MbxEnds m .badReserved t ∧ MbxOnly (hostWrote m.host s) t) ∧
    (zeroFields (hintArgs 4 m) (hintReserved 4) = true → Completes (.lullFloor m) s fun t =>
      MbxEnds m .ok t ∧ MbxOnly { hostWrote m.host s with power := { s.power with lullFloor := bits m.args 4 2 } } t)

/-- Lull (R478 to R481). The times of entries and wakes are not modelled (log entry 11). -/
def Obligations.LullStatesChange : Prop :=
  ∀ (p : Nat) (s : State), s.sys.frozen = false →
    (pairServes s p = true → (lullOf s p).state = 0 → 1 ≤ s.power.lullFloor → pairIdle s p = true →
      Completes (.lullL1Entry p) s fun t => (lullOf t p).state = 1 ∧ (∀ q, q ≠ p → lullOf t q = lullOf s q) ∧
        counterVal t Ctr.l1Entries.index = satAdd 64 (counterVal s Ctr.l1Entries.index) 1 ∧
        t = { s with power := { s.power with lull := t.power.lull }, counters := t.counters }) ∧
    (pairServes s p = true → (lullOf s p).waking = false → (lullOf s p).entering = none → (lullOf s p).state < deepest s p →
      2 ≤ deepest s p → pairIdle s p = true →
      Completes (.lullEntry p) s fun t => (lullOf t p).entering = some (deepest s p) ∧ (lullOf t p).state = (lullOf s p).state ∧
        t = { s with power := { s.power with lull := t.power.lull } }) ∧
    (deepest s p = 3 → pairPinned s p = false ∧ s.power.lullFloor ≥ 3) ∧
    ((lullOf s p).entering = some 2 → pairIdle s p = true →
      Completes (.lullEntryDone p) s fun t => lullOf t p = { state := 2 } ∧
        counterVal t Ctr.l2Entries.index = satAdd 64 (counterVal s Ctr.l2Entries.index) 1 ∧
        t = { s with power := { s.power with lull := t.power.lull }, counters := t.counters }) ∧
    ((lullOf s p).entering = some 3 → pairIdle s p = true → pairPinned s p = false →
      let none3 (t : State) : Prop := ∀ e ∈ t.work.tbl.rows, ∀ c, e.2.t0 = some c → c.cluster % 256 ≠ p
      ((∀ e ∈ s.work.tbl.rows, (∀ c, (rowOf s e.1).t0 = some c → c.cluster % 256 = p → c.dirty = false) ∧
          ∀ d ∈ (rowOf s e.1).deltas, d.place.tier ≠ 0) →
        Completes (.lullEntryDone p) s fun t => lullOf t p = { state := 3 } ∧ none3 t ∧ t.mem = s.mem ∧ t.tasks = s.tasks ∧
          counterVal t Ctr.l3Entries.index = satAdd 64 (counterVal s Ctr.l3Entries.index) 1) ∧
      ((emptyPair p s).1 = true → Completes (.lullEntryDone p) s fun t => lullOf t p = { state := 3 } ∧ none3 t ∧ t.tasks = s.tasks) ∧
      ((emptyPair p s).1 = false → exec (.lullEntryDone p) s = .next (emptyPair p s).2)) ∧
    ((lullOf s p).entering.isSome = true → (pairIdle s p = false ∨ ((lullOf s p).entering = some 3 ∧ pairPinned s p = true)) →
      Completes (.lullEntryDone p) s fun t => (lullOf t p).state = (lullOf s p).state ∧ (lullOf t p).entering = none) ∧
    (((lullOf s p).state = 1 ∨ (lullOf s p).state = 2) →
      Completes (.lullRequestWake p) s fun t => (lullOf t p).waking = true ∧ (lullOf t p).entering = none ∧
        t = { s with power := { s.power with lull := t.power.lull } }) ∧
    (1 ≤ (lullOf s p).state → (tNext s).isSome = true →
      Completes (.lullScheduledWake p) s fun t => (lullOf t p).waking = true ∧
        t = { s with power := { s.power with lull := t.power.lull } }) ∧
    (∀ demand : Nat, awakeCapacity s < 2 * demand → (lullOf s p).state = 3 →
      Completes (.lullDemandCheck demand) s fun t => (lullOf t p).waking = true ∧
        (∀ q, (lullOf s q).state ≠ 3 → lullOf t q = lullOf s q) ∧
        t = { s with power := { s.power with lull := t.power.lull }, counters := t.counters }) ∧
    ((lullOf s p).waking = true →
      Completes (.lullWakeDone p) s fun t => lullOf t p = {} ∧ (∀ q, q ≠ p → lullOf t q = lullOf s q) ∧
        t = { s with power := { s.power with lull := t.power.lull } })

/-- Management processors and recovery sequencers (R461 to R464, R521). -/
def Obligations.ProcessorsFailOver : Prop :=
  ∀ (h : Nat) (s : State), h < 2 → s.sys.frozen = false →
    (mpUp s h = true → Completes (.mpHeartbeat h) s fun t =>
      (mpOf t h).lastBeat = s.clock ∧ mpOf t (1 - h) = mpOf s (1 - h) ∧ t = { s with mpLower := t.mpLower, mpUpper := t.mpUpper }) ∧
    (∀ c : Instr, (c = .mpFatalTrap h ∨ c = .mpFailureDeclared h) → mpUp s h = true → mpUp s (1 - h) = true →
      Completes c s fun t =>
        mpUp t h = false ∧ mpUp t (1 - h) = true ∧ (mpOf t h).failed = true ∧ (mpOf t h).failedAt = s.clock ∧
        t.sys.engState = s.sys.engState ∧ t.sys.frozen = false ∧ t.fq.recordSeq = seqNext 32 s.fq.recordSeq ∧
        SameButReports { s with sys := t.sys, mpLower := t.mpLower, mpUpper := t.mpUpper } t) ∧
    (∀ c : Instr, (c = .mpFatalTrap h ∨ c = .mpFailureDeclared h) → mpUp s h = true → mpUp s (1 - h) = false →
      Completes c s fun t =>
        mpUp t h = false ∧ mpUp t (1 - h) = false ∧ t.sys.engState = .safe ∧ t.sys.safeCause = .recoveryFailed ∧
        t.sys.frozen = true ∧ t.sys.protocol = 0 ∧ t.fq.recordSeq = seqNext 32 (seqNext 32 s.fq.recordSeq) ∧
        (s.sys.engState ≠ .safe → t.irq.causes.toNat.testBit Cause.stateChange.index = true) ∧
        SameButReports { s with sys := t.sys, mpLower := t.mpLower, mpUpper := t.mpUpper } t) ∧
    ((mpOf s h).failed = true → (mpOf s h).handedOver = false → mpUp s (1 - h) = true →
      Completes (.mpHandoverDone h) s fun t =>
        mpOf t h = { mpOf s h with handedOver := true, restarting := true } ∧ mpOf t (1 - h) = mpOf s (1 - h) ∧
        t = { s with mpLower := t.mpLower, mpUpper := t.mpUpper }) ∧
    (h = 0 → (mpOf s h).failed = true → (mpOf s h).restarting = true → s.fw.activating = true → s.fw.activateStep = 0 →
      Completes (.mpRestartDone h true) s fun t =>
        mpUp t 0 = true ∧ mpUp t 1 = false ∧ t.mpUpper.restarting = true ∧ t.mpLower.failed = false ∧
        SameButReports { s with sys := t.sys, mpLower := t.mpLower, mpUpper := t.mpUpper } t) ∧
    ((mpOf s h).failed = true → (mpOf s h).restarting = true → (h = 1 ∨ s.fw.activating = false ∨ s.fw.activateStep ≠ 0) →
      Completes (.mpRestartDone h true) s fun t =>
        mpUp t h = true ∧ mpUp t (1 - h) = mpUp s (1 - h) ∧ (mpOf t h).failed = false ∧ (mpOf t h).restarting = false ∧
        t.fq.recordSeq = seqNext 32 s.fq.recordSeq ∧
        SameButReports { s with sys := t.sys, mpLower := t.mpLower, mpUpper := t.mpUpper } t) ∧
    ((mpOf s h).failed = true → (mpOf s h).restarting = true → (mpOf s h).restarts < 2 →
      Completes (.mpRestartDone h false) s fun t =>
        (mpOf t h).restarts = (mpOf s h).restarts + 1 ∧ (mpOf t h).restarting = true ∧ t.sys = s.sys ∧ t.fq = s.fq) ∧
    ((mpOf s h).failed = true → (mpOf s h).restarting = true → (mpOf s h).restarts = 2 →
      Completes (.mpRestartDone h false) s fun t =>
        (mpOf t h).gaveUp = true ∧ (mpOf t h).restarting = false ∧ t.sys = s.sys ∧
        t.fq.recordSeq = seqNext 32 s.fq.recordSeq) ∧
    ((mpOf s h).sequencerOut = false → s.sys.engState ≠ .reset →
      Completes (.sequencerMismatch h) s fun t =>
        (mpOf t h).sequencerOut = true ∧ (mpOf t (1 - h)) = mpOf s (1 - h) ∧ t.fq.recordSeq = seqNext 32 s.fq.recordSeq ∧
        SameButReports { s with mpLower := t.mpLower, mpUpper := t.mpUpper } t) ∧
    (s.mpLower.sequencerOut = true → s.mpUpper.sequencerOut = true →
      Completes .watchdogSafe s fun t =>
        t.sys = { s.sys with engState := .safe, safeCause := .recoveryFailed, frozen := true } ∧
        SameButReports { s with sys := t.sys } t)

/-- Deferral (R358), for every body that a mailbox command can have. The number of the ticket is log entry 9. -/
def Obligations.DeferredCommandsTakeTickets : Prop :=
  ∀ (op : Nat) (always safeToo : Bool) (args : BitVec 2048) (body : State → MbxRes) (m : MbxCall) (s : State),
    MbxServes always safeToo s →
    let s0 := mbxIn op m args s
    (∀ st : Status, body s0 = .refuse st →
      MbxEnds m st (mailbox op true always safeToo args body m s) ∧
      MbxOnly (hostWrote m.host s) (mailbox op true always safeToo args body m s)) ∧
    (∀ (s1 : State) (res : Nat), m.defer = true → body s0 = .reply s1 .ok res → s1.mbx = s0.mbx → s.mbx.tickets.length < 64 →
      ∃ k, k < 64 ∧ Tab.get? s.mbx.tickets k = none ∧
        MbxEnds m .accepted (mailbox op true always safeToo args body m s) ∧
        (mailbox op true always safeToo args body m s).mbx.result = BitVec.ofNat 2048 k ∧
        Tab.get? (mailbox op true always safeToo args body m s).mbx.tickets k = some
          { opcode := op, tag := m.tag, issuer := m.issuer, wait := .ended, status := some .ok, result := BitVec.ofNat 2048 res } ∧
        MbxOnly s1 (mailbox op true always safeToo args body m s)) ∧
    (∀ (s1 : State) (w : JobWait), m.defer = true → body s0 = .waits s1 w → s1.mbx = s0.mbx → s.mbx.tickets.length < 64 →
      ∃ k, k < 64 ∧ Tab.get? s.mbx.tickets k = none ∧
        MbxEnds m .accepted (mailbox op true always safeToo args body m s) ∧
        Tab.get? (mailbox op true always safeToo args body m s).mbx.tickets k = some
          { opcode := op, tag := m.tag, issuer := m.issuer, wait := w } ∧
        MbxOnly s1 (mailbox op true always safeToo args body m s)) ∧
    (∀ (s1 : State) (w : JobWait) (res : Nat), m.defer = true → (body s0 = .waits s1 w ∨ body s0 = .reply s1 .ok res) →
      (∀ k, k < 64 → Tab.has s.mbx.tickets k = true) →
      MbxEnds m .ticketLimit (mailbox op true always safeToo args body m s) ∧
      MbxOnly (hostWrote m.host s) (mailbox op true always safeToo args body m s)) ∧
    (∀ (s1 : State) (w : JobWait), m.defer = false → body s0 = .waits s1 w →
      (mailbox op true always safeToo args body m s).mbx.running = some { opcode := op, tag := m.tag, issuer := m.issuer, wait := w } ∧
      ∀ (st : Status) (res : Nat) (u : State), u.mbx.running = some { opcode := op, tag := m.tag, issuer := m.issuer, wait := w } →
        MbxEnds m st (jobEnd w st res u) ∧ MbxOnly u (jobEnd w st res u))

/-- The mailbox (R355, R356, R359, R360), for every command that goes through it. -/
def Obligations.MailboxProtocol : Prop :=
  (∀ (c : Instr) (m : MbxCall) (s : State), c.mbx? = some m →
    (hostUp s = false → exec c s = .next s) ∧
    (hostUp s = true → s.mbx.busy = true → exec c s = .next { s with mbx := { s.mbx with collision := true } }) ∧
    (hostUp s = true → s.mbx.busy = false →
      (s.sys.engState = .reset ∨ (s.sys.engState = .booting ∧ s.sys.bootStep < 6) ∨
        (s.sys.engState = .safe ∧ s.sys.safeCause ≠ .bootImageInvalid)) →
      Completes c s fun t => MbxEnds m .notReady t ∧ t.mbx.result = 0 ∧ t.mbx.collision = s.mbx.collision ∧
        MbxOnly (hostWrote m.host s) t)) ∧
  (∀ (m : MbxCall) (op : Nat) (s : State), MbxOpen s → op < 2 ^ 16 → op ∉ opcodes →
    Completes (.mailboxBadOpcode m op) s fun t => MbxEnds m .badOpcode t ∧ MbxOnly (hostWrote m.host s) t) ∧
  (∀ (m : MbxCall) (op : Nat) (st : Status) (s : State), MbxOpen s → op < 2 ^ 16 → reservedOp op m.args = some st →
    Completes (.mailboxBadOpcode m op) s fun t => MbxEnds m st t ∧ MbxOnly (hostWrote m.host s) t) ∧
  (∀ (m : MbxCall) (op : Nat) (s : State), hostUp s = true → s.mbx.busy = true →
    exec (.mailboxCollision m op) s = .next { s with mbx := { s.mbx with collision := true } })

/-- Tickets (R358), with the states in which CMD_POLL is served (R359). The status bits before the end are free (log entry 27). -/
def Obligations.TicketsEndAndAreFreed : Prop :=
  (∀ (k : Nat) (r : Running) (s : State), k < 64 → Tab.get? s.mbx.tickets k = some r → r.status.isSome = true → r.reported = false →
    Completes (.deferredCommandEnd k) s fun t =>
      t.mbx.ticketDone.toNat.testBit k = true ∧ t.irq.causes.toNat.testBit Cause.ticketDone.index = true ∧
      Tab.get? t.mbx.tickets k = some { r with reported := true } ∧
      (∀ j, j ≠ k → Tab.get? t.mbx.tickets j = Tab.get? s.mbx.tickets j) ∧ MbxOnly s t) ∧
  (∀ (m : MbxCall) (s : State), MbxServes true false s → zeroFields m.args [(6, 2042)] = true →
    (∀ r : Running, Tab.get? s.mbx.tickets (bits m.args 0 6) = some r → r.reported = true →
      Completes (.cmdPoll m) s fun t =>
        MbxEnds m .ok t ∧ Tab.get? t.mbx.tickets (bits m.args 0 6) = none ∧
        bits t.mbx.result 0 16 = (r.status.getD .ok).code ∧ bit t.mbx.result 16 = true ∧
        bits t.mbx.result 32 16 = r.opcode % 2 ^ 16 ∧ bits t.mbx.result 64 32 = r.tag.toNat ∧
        bits t.mbx.result 128 1920 = bits r.result 0 1920 ∧ MbxOnly (hostWrote m.host s) t) ∧
    (∀ r : Running, Tab.get? s.mbx.tickets (bits m.args 0 6) = some r → r.reported = false →
      Completes (.cmdPoll m) s fun t =>
        MbxEnds m .ok t ∧ t.mbx.tickets = s.mbx.tickets ∧ bit t.mbx.result 16 = false ∧
        bits t.mbx.result 32 16 = r.opcode % 2 ^ 16 ∧ bits t.mbx.result 64 32 = r.tag.toNat ∧
        MbxOnly { hostWrote m.host s with freeCtr := t.freeCtr } t) ∧
    (Tab.get? s.mbx.tickets (bits m.args 0 6) = none →
      Completes (.cmdPoll m) s fun t => MbxEnds m .noTicket t ∧ t.mbx.tickets = s.mbx.tickets ∧ MbxOnly (hostWrote m.host s) t))

/-- HOST_ATTACH and JOURNAL_CLEAR (R398, R400). -/
def Obligations.HostAttachReturnsOldDescriptor : Prop :=
  ∀ (m : MbxCall) (s : State), MbxOpen s →
    (zeroFields m.args [(2, 62), (256, 1792)] = true → (bit m.args 0 = true ∨ zeroFields m.args [(64, 192)] = true) →
      Completes (.hostAttach m) s fun t =>
        MbxEnds m .ok t ∧ t.sys = { s.sys with hostAttached := true, attachEpoch := s.sys.attachEpoch + 1 } ∧
        bits t.mbx.result 0 64 = s.attach.preservedAddr.toNat ∧ bits t.mbx.result 64 64 = s.attach.preservedBytes.toNat ∧
        bits t.mbx.result 128 64 = s.attach.driverCookie.toNat ∧ bits t.mbx.result 192 32 = (s.sys.attachEpoch + 1).toNat ∧
        bits t.mbx.result 224 16 = (s.journal.ranges.length + s.journal.markers.length) % 2 ^ 16 ∧
        t.attach.lossSinceAttach = false ∧ t.attach.lost = s.attach.lost ∧
        (bit m.args 0 = true → t.attach.preservedAddr.toNat = bits m.args 64 64 ∧
          t.attach.preservedBytes.toNat = bits m.args 128 64 ∧ t.attach.driverCookie.toNat = bits m.args 192 64) ∧
        (bit m.args 0 = false → t.attach.preservedAddr = s.attach.preservedAddr ∧
          t.attach.preservedBytes = s.attach.preservedBytes ∧ t.attach.driverCookie = s.attach.driverCookie) ∧
        t.journal = s.journal ∧ t.ctxs = s.ctxs ∧ t.queues = s.queues ∧ t.ranges = s.ranges ∧
        ((s.attach.lossSinceAttach = false ∨ bit m.args 1 = true) →
          MbxOnly { hostWrote m.host s with sys := t.sys, attach := t.attach } t)) ∧
    (zeroFields m.args [(0, 2048)] = true →
      Completes (.journalClear m) s fun t => MbxEnds m .ok t ∧ t.journal = {} ∧ MbxOnly { hostWrote m.host s with journal := {} } t)

/-- STATE_READ, ENG_INFO and the debug window (R388, R389, R391, R401, R402, R484, R522). -/
def Obligations.ReadbackReturnsTheRecord : Prop :=
  (∀ e ∈ readRows, ∀ (m : MbxCall) (s : State), MbxServes true false s →
    let a := readArgs e.2.1 e.2.2 m
    zeroFields a [(24, 40), (184, 8), (224, 1824)] = true →
    (if scopedSelector e.2.1 then bits a 16 8 = m.issuer % 256 ∧ Tab.has s.ctxs (m.issuer % 256) = true else bits a 16 8 = 0) →
    m.defer = false →
    (bits a 128 56 ≠ 0 → areaOk (mbxIn 2 m a s) (m.issuer % 256) (bits a 128 56) (bits a 192 32) .w .stackOrPinned = false →
      Completes (e.1 m) s fun t => MbxEnds m .badAddress t ∧ MbxOnly (hostWrote m.host s) t) ∧
    (∀ r : ReadRecord, readRecord (mbxIn 2 m a s) e.2.1 (some (m.issuer % 256)) (bits a 64 64) = .ok r →
      (bits a 128 56 = 0 ∨ areaOk (mbxIn 2 m a s) (m.issuer % 256) (bits a 128 56) (bits a 192 32) .w .stackOrPinned = true) →
      Completes (e.1 m) s fun t =>
        MbxEnds m .ok t ∧ t.mbx.result = BitVec.ofNat 2048 (readResult r.bytes) ∧
        (e.2.2 = false → t.counters = s.counters) ∧
        (e.2.2 = true → ∀ i, counterVal t i = if i ∈ groupCounters (bits a 64 8) then 0 else counterVal s i) ∧
        (let ctr := if e.2.1 = 6 then s.freeCtr + 2 else s.freeCtr
         (bits a 128 56 = 0 → MbxOnly { hostWrote m.host s with counters := t.counters, freeCtr := ctr } t) ∧
         (bits a 128 56 ≠ 0 → MbxOnly
          { clearFences (bits a 128 56) (r.fit (bits a 192 32)).length
              (devWrite (bits a 128 56) (r.fit (bits a 192 32)) (hostWrote m.host s)) with counters := t.counters, freeCtr := ctr } t)))) ∧
  (∀ (m : MbxCall) (s : State), MbxServes true false s → zeroFields m.args [(0, 2048)] = true →
    Completes (.engInfo m) s fun t =>
      MbxEnds m .ok t ∧ t.mbx.result = BitVec.ofNat 2048 (deviceRecord (mbxIn 1 m m.args s)) ∧ MbxOnly (hostWrote m.host s) t) ∧
  (∀ (s : State) (r : ReadRecord), s.sys.engState ≠ .reset → windowSelector s s.dbg.selector.toNat = true →
    (s.dbg.selector.toNat = 17 → (s.sys.lowerUp || s.sys.upperUp) = true) →
    readRecord s s.dbg.selector.toNat none s.dbg.index.toNat = .ok r →
    exec .debugSnapshot s = .next { s with dbg := { s.dbg with
      status := BitVec.ofNat 16 Status.ok.code, length := BitVec.ofNat 32 r.bytes.length, snapshot := r.bytes } }) ∧
  (∀ s : State, s.sys.engState ≠ .reset → s.dbg.selector = 17 → s.sys.debugUnlocked = false →
    exec .debugSnapshot s = .next { s with dbg := { s.dbg with
      status := BitVec.ofNat 16 Status.badSelector.code, length := 0, snapshot := [] } }) ∧
  (∀ (i : BitVec 64) (s : State), s.sys.engState ≠ .reset → s.sys.debugUnlocked = false →
    exec (.stateReadAccumulator i) s = .next { s with dbg := { s.dbg with
      selector := 17, index := i, status := BitVec.ofNat 16 Status.badSelector.code, length := 0, snapshot := [] } }) ∧
  (∀ (i : BitVec 64) (s : State) (b : Bucket), s.sys.engState ≠ .reset → s.sys.debugUnlocked = true →
    (s.sys.lowerUp || s.sys.upperUp) = true → i.toNat % 2 ^ 16 < 512 →
    (clusterFrames s (i.toNat % 512))[bitsOf i.toNat 16 16]? = some b →
    exec (.stateReadAccumulator i) s = .next { s with dbg := { s.dbg with
      selector := 17, index := i, status := BitVec.ofNat 16 Status.ok.code, length := BitVec.ofNat 32 (frameRecord b).length
      snapshot := frameRecord b } }) ∧
  (∀ (m : MbxCall) (s : State), bits m.args 0 16 = 17 → MbxServes true false s → m.defer = false →
    Completes (.mailboxBadOpcode m 2) s fun t => MbxEnds m .badSelector t ∧ MbxOnly (hostWrote m.host s) t)

/-- The fault queue (R392, R393). -/
def Obligations.FaultQueueRegisters : Prop :=
  ∀ s : State,
    (hostUp s = true → s.fq.enable = false → s.fq.waiting = [] → s.fq.kept = [] →
      exec (.fqEnableWrite true) s = .next { s with fq := { s.fq with enable := true, prod := 0, cons := 0 } }) ∧
    (hostUp s = true → s.fq.enable = true → Completes (.fqEnableWrite false) s fun t =>
      t.fq = { s.fq with enable := false } ∧ fqFull t.fq = true ∧
      (fqFull s.fq = false → t.irq.causes.toNat.testBit Cause.faultqFull.index = true) ∧
      SameButReports { s with fq := t.fq } t) ∧
    (hostUp s = true → exec .clearDropped s =
      .next { s with fq := { s.fq with dropped := 0, droppedOvf := false, classDropped := [] } }) ∧
    (∀ v : Word32, hostUp s = true → s.fq.waiting = [] → s.fq.kept = [] → Completes (.fqConsWrite v) s fun t =>
      t.fq = { s.fq with cons := v } ∧ SameButReports { s with fq := t.fq } t) ∧
    (∀ r : FaultRecord, fqFull s.fq = false → r.tag = none →
      let w : FaultRecord := { r with recordSeq := s.fq.recordSeq, time := s.clock }
      (faultRecord r s).hostMem = cellWrite 0 s.hostMem (s.fq.base.toNat + 64 * (s.fq.prod.toNat % 8192)) (faultBytes w) ∧
      (faultRecord r s).fq = { s.fq with prod := s.fq.prod + 1, recordSeq := seqNext 32 s.fq.recordSeq } ∧
      (faultRecord r s).irq.causes.toNat.testBit Cause.faultRecord.index = true) ∧
    (∀ r : FaultRecord, fqFull s.fq = true → r.tag = none →
      (faultRecord r s).hostMem = s.hostMem ∧ (faultRecord r s).fq.prod = s.fq.prod ∧
      (faultRecord r s).fq.dropped = min (s.fq.dropped + 1) (2 ^ 64 - 1) ∧
      Tab.getD (faultRecord r s).fq.classDropped r.cls.code 0 =
        min (Tab.getD s.fq.classDropped r.cls.code 0 + 1) (2 ^ 32 - 1))

/-- Interrupts (R394, R395). -/
def Obligations.InterruptsAreSentOrPend : Prop :=
  (∀ (c : Cause) (s : State), s.irq.causes.toNat.testBit c.index = false → s.irq.enables.toNat.testBit c.index = true →
    s.sys.cfg.ucieVectorMask.testBit c.vector = false →
    let e := Tab.getD s.irq.msixTable c.vector {}
    (raiseCause c s).irq.causes.toNat.testBit c.index = true ∧
    (s.irq.msixEnable = true → e.masked = false → hostUp s = true →
      (raiseCause c s).sent = s.sent ++ [.msix c.vector e.addr e.data] ∧ (raiseCause c s).irq.pending = s.irq.pending) ∧
    (s.irq.msixEnable = false ∨ e.masked = true ∨ hostUp s = false →
      (raiseCause c s).sent = s.sent ∧ c.vector ∈ (raiseCause c s).irq.pending)) ∧
  (∀ (v : Nat) (s : State), hostUp s = true → v < 1024 → Completes (.msixUnmask v) s fun t =>
    let e := Tab.getD s.irq.msixTable v {}
    t.irq.msixEnable = true ∧ Tab.getD t.irq.msixTable v {} = { e with masked := false } ∧ v ∉ t.irq.pending ∧
    t.sent = s.sent ++ (if v ∈ s.irq.pending then [.msix v e.addr e.data] else []) ∧ t = { s with irq := t.irq, sent := t.sent }) ∧
  (∀ (n : Nat) (q : Queue) (s : State), s.sys.frozen = false → Tab.get? s.queues n = some q → q.holdoffPending = true →
    s.sys.cfg.ucieVectorMask.testBit q.vector = false →
    Completes (.holdoffExpire n) s fun t =>
      Tab.get? t.queues n = some { q with holdoffPending := false } ∧
      (∀ k, k ≠ n → Tab.get? t.queues k = Tab.get? s.queues k) ∧
      (s.irq.msixEnable = true → (Tab.getD s.irq.msixTable q.vector {}).masked = false → hostUp s = true →
        t.sent = s.sent ++ [.msix q.vector (Tab.getD s.irq.msixTable q.vector {}).addr (Tab.getD s.irq.msixTable q.vector {}).data]) ∧
      ((s.irq.msixEnable = false ∨ (Tab.getD s.irq.msixTable q.vector {}).masked = true ∨ hostUp s = false) →
        q.vector ∈ t.irq.pending) ∧
      t = { s with queues := t.queues, irq := t.irq, sent := t.sent })

/-- Register reads (R8, R351, R352, R355, R363, R392, R394). -/
def Obligations.RegistersReadBack : Prop :=
  (∀ (s : State),
    let r (off : Nat) : Nat := readReg s .bar0 off false
    (∀ bar off, readReg s bar off true = readReg s bar off false + readReg s bar (off + 4) false * 2 ^ 32) ∧
    r 0x100 = s.mbx.opcode.toNat + s.mbx.issuer.toNat * 2 ^ 16 ∧ r 0x104 = s.mbx.tag.toNat ∧
    r 0x108 = b2n s.mbx.busy + b2n s.mbx.done * 2 + b2n s.mbx.collision * 4 + s.mbx.status.toNat * 2 ^ 16 ∧
    r 0x10C = s.mbx.tagEcho.toNat ∧ readReg s .bar0 0x110 true = s.mbx.ticketDone.toNat ∧
    (∀ k, k < 64 → r (0x180 + 4 * k) = bits s.mbx.args (32 * k) 32 ∧ r (0x280 + 4 * k) = bits s.mbx.result (32 * k) 32) ∧
    readReg s .bar0 0x400 true = s.fq.base.toNat ∧ r 0x408 = b2n s.fq.enable ∧ r 0x410 = s.fq.prod.toNat ∧ r 0x414 = s.fq.cons.toNat ∧
    r 0x800 = s.irq.causes.toNat + s.irq.enables.toNat * 2 ^ 16 ∧
    (∀ off, ((0x30 ≤ off ∧ off < 0x100) ∨ (0x380 ≤ off ∧ off < 0x400) ∨ (0x804 ≤ off ∧ off < 0x1000) ∨ 0x2000 ≤ off) → off % 4 = 0 →
      r off = 0) ∧
    (∀ off, Tab.get? s.queues (off / 0x1000) = none → readReg s .bar2 off false = 0) ∧
    (∀ k, k < 1024 → let e := Tab.getD s.irq.msixTable k {}
      readReg s .bar4 (16 * k) true = e.addr.toNat ∧ readReg s .bar4 (16 * k + 8) false = e.data.toNat ∧
      readReg s .bar4 (16 * k + 12) false = b2n e.masked)) ∧
  (∀ (v : Word64) (s : State), hostUp s = true →
    (∀ k, k < 64 → Completes (.registerWrite .bar0 (0x180 + 4 * k) false v) s fun t =>
      readReg t .bar0 (0x180 + 4 * k) false = v.toNat % 2 ^ 32) ∧
    (∀ k, k < 1024 → Completes (.registerWrite .bar4 (16 * k) true v) s fun t =>
      readReg t .bar4 (16 * k) true = v.toNat ∧ t.mbx = s.mbx ∧ t.mem = s.mem ∧ t.tasks = s.tasks))

/-- Register writes (R351, R352, R355, R392, R394, R401). -/
def Obligations.RegisterWritesTakeEffect : Prop :=
  ∀ (v : Word64) (s : State), hostUp s = true →
    let w (off : Nat) : Instr := .registerWrite .bar0 off false v
    let lo := v.toNat % 2 ^ 32
    exec (w 0x100) s = .next { s with mbx := { s.mbx with opcode := BitVec.ofNat 16 lo, issuer := BitVec.ofNat 8 (lo / 2 ^ 16) } } ∧
    exec (w 0x104) s = .next { s with mbx := { s.mbx with tag := BitVec.ofNat 32 lo } } ∧
    exec (w 0x108) s = .next { s with mbx := { s.mbx with
      done := s.mbx.done && !lo.testBit 1, collision := s.mbx.collision && !lo.testBit 2 } } ∧
    (∀ i, i < 32 → Completes (w 0x110) s fun t =>
      t.mbx.ticketDone.toNat.testBit i = (s.mbx.ticketDone.toNat.testBit i && !lo.testBit i) ∧
      t.mbx.ticketDone.toNat.testBit (i + 32) = s.mbx.ticketDone.toNat.testBit (i + 32) ∧
      t = { s with mbx := { s.mbx with ticketDone := t.mbx.ticketDone } }) ∧
    (∀ k, k < 64 → Completes (w (0x180 + 4 * k)) s fun t =>
      bits t.mbx.args (32 * k) 32 = lo ∧ (∀ j, j < 64 → j ≠ k → bits t.mbx.args (32 * j) 32 = bits s.mbx.args (32 * j) 32) ∧
      t = { s with mbx := { s.mbx with args := t.mbx.args } }) ∧
    (s.fq.enable = true → exec (w 0x400) s = .next s) ∧
    (s.fq.enable = false → Completes (.registerWrite .bar0 0x400 true v) s fun t => t = { s with fq := { s.fq with base := v } }) ∧
    (∀ i, i < 7 → Completes (w 0x800) s fun t =>
      t.irq.causes.toNat.testBit i = (s.irq.causes.toNat.testBit i && !lo.testBit i) ∧
      t.irq.enables.toNat.testBit i = lo.testBit (16 + i) ∧
      t = { s with irq := { s.irq with causes := t.irq.causes, enables := t.irq.enables } }) ∧
    exec (w 0x1000) s = .next { s with dbg := { s.dbg with
      selector := BitVec.ofNat 16 lo, ctx := BitVec.ofNat 8 (lo / 2 ^ 16) } } ∧
    exec (.registerWrite .bar0 0x1008 true v) s = .next { s with dbg := { s.dbg with index := v } } ∧
    (∀ off, (off < 0x100 ∨ (0x280 ≤ off ∧ off < 0x400) ∨ (0x408 ≤ off ∧ off < 0x800) ∨ (0x804 ≤ off ∧ off < 0x1000)) →
      off % 4 = 0 → exec (w off) s = .next s) ∧
    (∀ bar off, off % 4 ≠ 0 → exec (.registerWrite bar off false v) s = .next s) ∧
    (∀ bar off wide, exec (.registerWrite bar off wide v) { s with links := { s.links with host := {} } } =
      .next { s with links := { s.links with host := {} } })

/-- QUEUE_CREATE, QUEUE_DESTROY and QUEUE_RESUME (R362, R367). -/
def Obligations.QueuesCreateDestroyResume : Prop :=
  ∀ (m : MbxCall) (s : State), MbxOpen s →
    let f := bits m.args
    let n := f 0 10
    (zeroFields m.args [(10, 6), (28, 4), (42, 6), (55, 1), (120, 8), (184, 1864)] = true → 4 ≤ f 24 4 → 4 ≤ f 32 10 →
      1 ≤ f 48 7 → f 48 7 ≤ 64 → ctxOk s m (f 16 8) = true →
      (Tab.has s.queues n = false → ((t4Of s).attached && decide ((t4Of s).page = n)) = false →
        ringOk s (f 16 8) (f 64 56) (64 * 2 ^ f 24 4) .r = true → ringOk s (f 16 8) (f 128 56) (128 * 2 ^ f 24 4) .w = true →
        Completes (.queueCreate m) s fun t =>
          MbxEnds m .ok t ∧
          Tab.get? t.queues n = some { ctx := f 16 8, slotsLog2 := f 24 4, vector := f 32 10, maxActive := f 48 7
                                       holdoffUs := f 56 8, sqAddr := f 64 56, cqAddr := f 128 56, state := .running
                                       nextSeq := 0, posted := 0 } ∧
          (∀ k, k ≠ n → Tab.get? t.queues k = Tab.get? s.queues k) ∧ MbxOnly { hostWrote m.host s with queues := t.queues } t) ∧
      (Tab.has s.queues n = true → Completes (.queueCreate m) s fun t =>
        MbxEnds m .queueExists t ∧ MbxOnly (hostWrote m.host s) t)) ∧
    (zeroFields m.args (queueUnused false false) = true → ctxOk s m (f 16 8) = true →
      (namedQueue s m.args = none → Completes (.queueDestroy m) s fun t =>
        MbxEnds m .noQueue t ∧ MbxOnly (hostWrote m.host s) t) ∧
      (∀ q, namedQueue s m.args = some q → q.state ≠ .destroying → queueTasks s n = [] → m.defer = false →
        Completes (.queueDestroy m) s fun t =>
          MbxEnds m .ok t ∧ Tab.get? t.queues n = none ∧ (∀ k, k ≠ n → Tab.get? t.queues k = Tab.get? s.queues k) ∧
          t.mbx.result = BitVec.ofNat 2048 (if q.ringLost then q.held.length else 0) ∧ t.tasks = s.tasks ∧ t.mem = s.mem ∧
          t.ctxs = s.ctxs)) ∧
    (zeroFields m.args (queueUnused false true) = true → ctxOk s m (f 16 8) = true →
      ∀ q, namedQueue s m.args = some q → q.state ≠ .destroying →
      (f 64 56 = 0 ∨ ringOk s q.ctx (f 64 56) (64 * 2 ^ q.slotsLog2) .r = true) →
      (f 128 56 = 0 ∨ ringOk s q.ctx (f 128 56) (128 * 2 ^ q.slotsLog2) .w = true) →
      let resumed (q : Queue) : Queue := { q with
        badDoorbell := false, rereads := 0, ringLost := false, sqAddr := if f 64 56 = 0 then q.sqAddr else f 64 56
        cqAddr := if f 128 56 = 0 then q.cqAddr else f 128 56, cqHead := if f 128 56 = 0 then q.cqHead else q.posted
        state := .running }
      Completes (.queueResume m) s fun t =>
        MbxEnds m .ok t ∧
        (q.held = [] → Tab.get? t.queues n = some (resumed q) ∧ (∀ k, k ≠ n → Tab.get? t.queues k = Tab.get? s.queues k) ∧
          MbxOnly { hostWrote m.host s with queues := t.queues } t) ∧
        MbxOnly (postHeld n (updQueue n resumed (hostWrote m.host s))) t)

/-- The compare-and-set of R372, and TASK_ABORT (R375). -/
def Obligations.FirstFinalStateDecides : Prop :=
  (∀ (q n : Nat) (x : Task) (st : TaskState) (status : Status) (d : Detail) (s : State), task? s q n = some x →
    (x.state.final = true → endTask q n st status d s = s) ∧
    (x.state.final = false → x.queue = q → x.seq = n → st.final = true →
      task? (endTask q n st status d s) q n = some { x with
        state := st, status := status, detail := d, finalAt := s.clock, wasActive := decide (x.state = .active) } ∧
      (∀ k, k ≠ tid q n → Tab.get? (endTask q n st status d s).tasks k = Tab.get? s.tasks k) ∧
      counterVal (endTask q n st status d s) (finalCtr st).index = satAdd 64 (counterVal s (finalCtr st).index) 1 ∧
      (∀ e ∈ (endTask q n st status d s).ctxs, ∀ w ∈ e.2.waiters, w.who.of ≠ (q, n)) ∧
      (endTask q n st status d s).mem = s.mem ∧ (endTask q n st status d s).hostMem = s.hostMem ∧
      (endTask q n st status d s).ranges = s.ranges ∧ (endTask q n st status d s).queues = s.queues)) ∧
  (∀ (m : MbxCall) (s : State), MbxOpen s → zeroFields m.args (queueUnused true false) = true →
    ctxOk s m (bits m.args 16 8) = true → ∀ q, namedQueue s m.args = some q →
    let n := bits m.args 0 10
    let k := bits m.args 32 32
    (task? s n k = none → Completes (.taskAbort m) s fun t => MbxEnds m .taskUnknown t ∧ MbxOnly (hostWrote m.host s) t) ∧
    (∀ x, task? s n k = some x → x.queue = n → x.seq = k → 1 ≤ seqDist 32 k q.nextSeq.toNat → seqDist 32 k q.nextSeq.toNat < 65536 →
      (x.state.final = true → Completes (.taskAbort m) s fun t =>
        MbxEnds m .alreadyComplete t ∧ bits t.mbx.result 0 3 = x.state.code ∧ MbxOnly (hostWrote m.host s) t) ∧
      (x.state.final = false → Completes (.taskAbort m) s fun t =>
        MbxEnds m .ok t ∧ bits t.mbx.result 0 3 = TaskState.aborted.code ∧
        (∃ y, task? t n k = some y ∧ y.state = .aborted ∧ y.status = .abortedByHost ∧ y.posted = x.posted) ∧
        MbxOnly (endTask n k .aborted .abortedByHost {} (hostWrote m.host s)) t)))

/-- CTX_CREATE and CTX_DESTROY (R361). -/
def Obligations.ContextsCreateAndDestroy : Prop :=
  ∀ (m : MbxCall) (s : State), MbxOpen s →
    let c := bits m.args 0 8
    (zeroFields m.args [(9, 2039)] = true → (bit m.args 8 = true → coldCompress s = true) → c = m.issuer % 256 →
      (Tab.has s.ctxs c = false → Completes (.ctxCreate m) s fun t =>
        MbxEnds m .ok t ∧ Tab.get? t.ctxs c = some { peerCompress := bit m.args 8 } ∧
        (∀ d, d ≠ c → Tab.get? t.ctxs d = Tab.get? s.ctxs d) ∧ semVal t c 0 = 0 ∧
        MbxOnly { hostWrote m.host s with ctxs := t.ctxs } t) ∧
      (Tab.has s.ctxs c = true → Completes (.ctxCreate m) s fun t =>
        MbxEnds m .ctxExists t ∧ MbxOnly (hostWrote m.host s) t)) ∧
    (zeroFields m.args [(8, 2040)] = true → ctxOk s m c = true → (∀ e ∈ s.queues, e.2.ctx ≠ c) → m.defer = false →
      ((∀ e ∈ s.work.tbl.tables, e.2.ctx ≠ c) → (∀ e ∈ s.ranges, e.2.ctx ≠ c) → Completes (.ctxDestroy m) s fun t =>
        MbxEnds m .ok t ∧ Tab.get? t.ctxs c = none ∧ (∀ d, d ≠ c → Tab.get? t.ctxs d = Tab.get? s.ctxs d) ∧
        (∀ e ∈ t.work.upd.programs, e.2.ctx ≠ c) ∧ (∀ r ∈ t.work.upd.maps, r.ctx ≠ c) ∧ (∀ e ∈ t.work.chain.maps, e.2.ctx ≠ c) ∧
        (∀ e ∈ t.windows, e.2.ctx ≠ c) ∧ t.ranges = s.ranges ∧ t.tasks = s.tasks ∧ t.mem = s.mem) ∧
      ((∃ e ∈ s.work.tbl.tables, e.2.ctx = c) ∨ (∃ e ∈ s.ranges, e.2.ctx = c) → Completes (.ctxDestroy m) s fun t =>
        (ctxD t c).destroying = true ∧ (∀ e ∈ t.ranges, e.2.ctx = c → e.2.unmapping = true) ∧
        (∀ e ∈ t.work.tbl.tables, e.2.ctx = c → e.2.deleting = true) ∧ (∀ e ∈ t.windows, e.2.ctx ≠ c) ∧
        t.mbx.busy = true ∧ t.tasks = s.tasks ∧ t.mem = s.mem))

/-- Doorbells and slots (R335, R363 to R366, R368, R371). -/
def Obligations.SlotsAreConsumedWhenVisible : Prop :=
  ∀ (n : Nat) (q : Queue) (s : State), s.sys.frozen = false → Tab.get? s.queues n = some q →
    (∀ (tail : Word32) (host : List Host.Cell), hostUp s = true → q.state ≠ .destroying →
      (seqBefore 32 tail.toNat q.nextSeq.toNat = false → seqDist 32 q.nextSeq.toNat tail.toNat ≤ 2 ^ q.slotsLog2 →
        Completes (.sqDoorbell n tail host) s fun t =>
          (q.state ≠ .waitingVisible → Tab.get? t.queues n = some { q with sqTail := tail }) ∧
          (q.state = .waitingVisible → Tab.get? t.queues n = some { q with sqTail := tail, state := .running, rereads := 0 }) ∧
          (∀ k, k ≠ n → Tab.get? t.queues k = Tab.get? s.queues k) ∧ t = { hostWrote host s with queues := t.queues }) ∧
      (seqBefore 32 tail.toNat q.nextSeq.toNat = true ∨ 2 ^ q.slotsLog2 < seqDist 32 q.nextSeq.toNat tail.toNat →
        Completes (.sqDoorbell n tail host) s fun t =>
          Tab.get? t.queues n = some { q with badDoorbell := true } ∧ t = { hostWrote host s with queues := t.queues })) ∧
    (∀ head : Word32, hostUp s = true → Completes (.cqHeadWrite n head) s fun t =>
      Tab.get? t.queues n = some { q with cqHead := head } ∧ (∀ k, k ≠ n → Tab.get? t.queues k = Tab.get? s.queues k) ∧
      t = { s with queues := t.queues }) ∧
    (readsSlots s q = true →
      (viewSlot s q = .hidden → exec (.slotConsume n) s = .next s) ∧
      (∀ (x : Nat) (desc : List Byte), viewSlot s q = .visible x desc → descriptorBad x desc = false →
        (∀ f ∈ addrFields (taskOf n q x desc s.clock), 0 < f.len → (resolveField s q.ctx f).isSome = true) →
        Completes (.slotConsume n) s fun t =>
          (∃ y, task? t n q.nextSeq.toNat = some y ∧ y.state = .queued ∧ y.typeCode = bitsOf x 8 8 ∧ y.queue = n ∧
            y.seq = q.nextSeq.toNat ∧ y.ctx = q.ctx ∧ y.queuedAt = s.clock ∧
            y = { taskOf n q x desc s.clock with ranges := y.ranges }) ∧
          Tab.get? t.queues n = some { q with nextSeq := q.nextSeq + 1, rereads := 0 } ∧ t.mem = s.mem ∧ t.hostMem = s.hostMem ∧
          t.ranges = s.ranges ∧ t.work = s.work) ∧
      (∀ (x : Nat) (desc : List Byte), viewSlot s q = .visible x desc → descriptorBad x desc = true →
        Completes (.slotConsume n) s fun t =>
          (∃ y, task? t n q.nextSeq.toNat = some y ∧ y.state = .failed ∧ y.status = .badReserved ∧ y.posted = false) ∧
          Tab.get? t.queues n = some { q with nextSeq := q.nextSeq + 1, rereads := 0 } ∧ t.mem = s.mem) ∧
      (∀ x : Nat, viewSlot s q = .noDescriptor x → Completes (.slotConsume n) s fun t =>
        (∃ y, task? t n q.nextSeq.toNat = some y ∧ y.state = .failed ∧ y.status = .badAddress ∧
          y.detail = { kind := 5, d0 := bitsOf x 64 56 }) ∧
        Tab.get? t.queues n = some { q with nextSeq := q.nextSeq + 1, rereads := 0 } ∧ t.mem = s.mem)) ∧
    (∀ host : List Host.Cell, slotHidden s q = true → q.rereads < 64 →
      exec (.slotReread n host) s =
        exec (.slotConsume n) (updQueue n (fun q => { q with rereads := q.rereads + 1 }) (hostWrote host s))) ∧
    (slotHidden s q = true → 64 ≤ q.rereads → Completes (.queueWaitingVisible n) s fun t =>
      Tab.get? t.queues n = some { q with state := .waitingVisible } ∧
      LastEvent t .queueStall (packFields [(0, 10, n), (32, 32, q.nextSeq.toNat)]) ∧
      SameButReports { s with queues := t.queues } t)

/-- FENCE, DEADLINE_EXPIRE, TASK_WORK_DONE and TASK_ADMIT_RELEASE (R87, R372 to R374, R376, R380). -/
def Obligations.FencesDeadlinesAndRecords : Prop :=
  ∀ (q n : Nat) (x : Task) (s : State), s.sys.frozen = false → task? s q n = some x → x.queue = q → x.seq = n →
    let others (t : State) : Prop := (∀ k, k ≠ tid q n → Tab.get? t.tasks k = Tab.get? s.tasks k) ∧ t.mem = s.mem ∧
      t.hostMem = s.hostMem ∧ t.queues = s.queues ∧ t.ranges = s.ranges
    (tasksRun s = true → admissible s q n = some x → x.ttype = .fence →
      (partZero x [(0, 128)] = false → Completes (.fence q n) s fun t => others t ∧
        ∃ y, task? t q n = some y ∧ y.state = .failed ∧ y.status = .badReserved) ∧
      (partZero x [(0, 128)] = true → (earlierTasks s q n).all (fun e => e.state.final) = false → exec (.fence q n) s = .next s) ∧
      (partZero x [(0, 128)] = true → (earlierTasks s q n).all (fun e => e.state.final) = true →
        (hostUp s = true → Completes (.fence q n) s fun t => others t ∧ t = { s with tasks := t.tasks } ∧
          task? t q n = some { x with state := .active, admittedAt := s.clock }) ∧
        (hostUp s = false → Completes (.fence q n) s fun t => others t ∧
          ∃ y, task? t q n = some y ∧ y.state = .failed ∧ y.status = .hostLost ∧ y.admittedAt = s.clock ∧
            y.detail = { kind := 5, d0 := Config.flushAddr }))) ∧
    (x.ttype = .fence → x.state = .active → hostUp s = true →
      (earlierDone s q n = true → Completes (.fenceFlushDone q n) s fun t => others t ∧ t = { s with tasks := t.tasks } ∧
        task? t q n = some { x with effected := true }) ∧
      (earlierDone s q n = false → exec (.fenceFlushDone q n) s = .next s)) ∧
    (x.state = .active → x.deadlineUs ≠ 0 →
      (deltaWaiting s q n = none → Completes (.deadlineExpire q n) s fun t => others t ∧
        ∃ y, task? t q n = some y ∧ y.state = .failed ∧ y.status = .deadlineExpired ∧ y.finalAt = s.clock) ∧
      (∀ core key, deltaWaiting s q n = some (core, key) → Completes (.deadlineExpire q n) s fun t =>
        ∃ y, task? t q n = some y ∧ y.state = .failed ∧ y.status = .deltaPoolFull ∧ y.detail = { kind := 1, d0 := key })) ∧
    (x.ttype = .fence → x.state = .active → x.effected = true → settled s q n = true → stream? s q n = none → work? s q n = none →
      NoneHeld s →
      ∀ qu, Tab.get? s.queues q = some qu → qu.ringLost = false → qu.state ≠ .destroying →
      let y : Task := { x with state := .complete, status := .ok, detail := {}, finalAt := s.clock, wasActive := true, record := [] }
      let p := qu.posted.toNat
      Completes (.taskWorkDone q n) s fun t =>
        task? t q n = some { y with posted := true, postIndex := p } ∧
        (∀ k, k ≠ tid q n → Tab.get? t.tasks k = Tab.get? s.tasks k) ∧
        (∃ r, Tab.get? t.queues q = some r ∧ r = { qu with posted := qu.posted + 1, holdoffPending := r.holdoffPending }) ∧
        (∀ k, k ≠ q → Tab.get? t.queues k = Tab.get? s.queues k) ∧
        (let w := devWrite (qu.cqAddr + 128 * (p % 2 ^ qu.slotsLog2)) (completionBytes y qu.slotsLog2 p) s
         t.mem = w.mem ∧ t.hostMem = w.hostMem) ∧
        t.ranges = s.ranges ∧ counterVal t Ctr.tasksComplete.index = satAdd 64 (counterVal s Ctr.tasksComplete.index) 1) ∧
    (x ∈ queueTasks s q → x.state = .queued →
      (∀ e ∈ queueTasks s q, e.state = .queued → e = x ∨ seqBefore 32 n e.seq = true) →
      exec (.taskAdmitRelease q) s = match x.ttype with
        | .lookup => exec (.lookup q n) s
        | .scatter => if scReleaseOnly x then exec (.scatterReleaseOnly q n) s else exec (.scatter q n) s
        | .reduce => exec (.reduce q n) s
        | .sort => exec (.sort q n) s
        | .shuffle => if partBits x 48 2 = 1 then exec (.shufflePermute q n) s else exec (.shuffleGenerate q n) s
        | .gatherSamples => exec (.gatherSamples q n) s
        | .copy => exec (.copy q n) s
        | .publish => exec (.publish q n) s
        | .flush => exec (.flush q n) s
        | .fence => exec (.fence q n) s
        | .semSignal => exec (.semSignal q n) s
        | .semWait => exec (.semWait q n) s)

/-- LOOKUP, PITTER_UNIT_GRANT, RECORD_CONSUMED and DEDUP_DONE (R77, R80, R97 to R101, R115, R116, R119, R122, R135, R160). -/
def Obligations.LookupsTakeTheirKeys : Prop :=
  (∀ ps : List (Nat × List Probe), ps.Pairwise (fun a b => a.1 < b.1) →
    (directoryOf ps).Pairwise (fun a b => a.key < b.key) ∧
    (∀ e ∈ directoryOf ps, e.refs.Pairwise fun a b => a.bag < b.bag ∨ (a.bag = b.bag ∧ a.slot < b.slot)) ∧
    (∀ b i p, (∃ xs, (b, xs) ∈ ps ∧ xs[i]? = some p) ↔
      ∃ e ∈ directoryOf ps, e.key = p.key ∧ { bag := b, slot := i, neg := p.neg, weight := p.weight } ∈ e.refs)) ∧
  ∀ (q n : Nat) (x : Task) (s : State), s.sys.frozen = false → task? s q n = some x → x.queue = q → x.seq = n →
    (tasksRun s = true → admissible s q n = some x → x.ttype = .lookup →
      (lkHeld s x = true → exec (.lookup q n) s = .next s) ∧
      (lkHeld s x = false → (∀ st d, lkFault s x = some (st, d) → Completes (.lookup q n) s fun t =>
        (∃ y, task? t q n = some y ∧ y.state = .failed ∧ y.status = st ∧ y.detail = d) ∧ t.mem = s.mem ∧ t.hostMem = s.hostMem ∧
        t.work.idx = s.work.idx)) ∧
      (lkHeld s x = false → lkFault s x = none → Completes (.lookup q n) s fun t =>
        look? t q n = some (lkWork s x) ∧ (∀ k, k ≠ tid q n → Tab.get? t.work.idx.lookups k = Tab.get? s.work.idx.lookups k) ∧
        t.mem = s.mem ∧ t.hostMem = s.hostMem ∧
        (partBits x 11 1 = 1 → t = { s with tasks := t.tasks, work := t.work } ∧
          task? t q n = some { x with state := .active, admittedAt := s.clock, bound := x.bindings.map (bindTo s) } ∧
          t.work.tbl = s.work.tbl ∧ t.work.feeds = s.work.feeds ∧
          t.work.upd.maps = if partBits x 10 1 = 1 then s.work.upd.maps ++ [lkMap x (lkWork s x)] else s.work.upd.maps))) ∧
    (∀ unit, pitterJob x = true → unit < 64 → unit ∉ unitsHeld s q n → Completes (.pitterUnitGrant q n unit) s fun t =>
      unitsHeld t q n = unitsHeld s q n ++ [unit] ∧ t = { s with work := t.work } ∧
      t.work = { s.work with idx := { s.work.idx with units := t.work.idx.units } }) ∧
    (∀ w, look? s q n = some w → x.state = .active → unitsHeld s q n ≠ [] →
      (let pos := w.ingest.areaPos
       let a := w.recordAddr + pos
       let h : Word128 := BitVec.ofNat 128 (devNat s a 16)
       let len := bufLength h
       w.ingest.fromMemory = true → w.ingest.done = false → 16 ≤ w.recordBytes - pos → memGate q n .r a 16 s = none →
       (recTag h ≠ w.ingest.tag → recPassable h = true → len ≤ w.recordBytes - pos → Completes (.recordConsumed (.area q n)) s fun t =>
         t = { takeGates q n s with work := t.work } ∧ t.work = { s.work with idx := { s.work.idx with lookups := t.work.idx.lookups } } ∧
         look? t q n = some { w with ingest := { w.ingest with areaPos := pos + len } }) ∧
       (recTag h = w.ingest.tag → memGate q n .r a (min len (w.recordBytes - pos)) s = none → areaFenced s a (min len (w.recordBytes - pos)) = none →
       recOk h = true → len ≤ w.recordBytes - pos → recSeq h = w.ingest.areaSeq →
       (recKind h ≠ 4 → recBag h < w.bags → Tab.get? w.ins (recBag h) = none → recFirst h = true →
         let xs := recInputs h (devRead s (a + 16) (len - 16))
         let total := w.probes - keptProbes w.views [] + keptProbes w.views xs
         total ≤ 2 ^ 32 - 1 → Completes (.recordConsumed (.area q n)) s fun t =>
           t = { takeGates q n s with work := t.work } ∧ t.work = { s.work with idx := { s.work.idx with lookups := t.work.idx.lookups } } ∧
           look? t q n = some { w with
             ingest := { w.ingest with areaPos := pos + len, areaSeq := seqNext 16 w.ingest.areaSeq }
             ins := Tab.put w.ins (recBag h) { src := 0, inputs := xs, closed := recLast h, last := pos }, probes := total }) ∧
       (recKind h = 4 → (∀ b ∈ w.ins, b.2.closed = true) → Completes (.recordConsumed (.area q n)) s fun t =>
         t = { s with work := t.work } ∧ t.work = { s.work with idx := { s.work.idx with lookups := t.work.idx.lookups } } ∧
         look? t q n = some { w with ingest := { w.ingest with done := true } }))) ∧
      (let bags := (List.range w.bags).map fun b => (b, bagProbes w b)
       let infos := bags.map fun b => b.2.2
       let dir := directoryOf (bags.map fun b => (b.1, b.2.1))
       let refs := sumNat (infos.map BagInfo.refs)
       let weighted := decide (w.poolMode = 2)
       w.ingest.done = true → w.deduped = false → refs ≤ 2 ^ 25 →
       (w.mapBytes < bagMapBytes w.bags dir weighted → Completes (.dedupDone q n) s fun t =>
         (∃ y, task? t q n = some y ∧ y.state = .failed ∧ y.status = .bagMapShort ∧
           y.detail = { kind := 6, d0 := bagMapBytes w.bags dir weighted }) ∧ t.mem = s.mem ∧ t.hostMem = s.hostMem) ∧
       (bagMapBytes w.bags dir weighted ≤ w.mapBytes → (∀ e ∈ dir, strayOwner s e.key = none) → Completes (.dedupDone q n) s fun t =>
         look? t q n = some { w with infos := infos, dir := dir, probes := refs, ins := [], deduped := true } ∧
         t.mem = (devWrite w.mapAddr (bagMap infos dir weighted x.seq x.ctx) s).mem ∧
         t.hostMem = (devWrite w.mapAddr (bagMap infos dir weighted x.seq x.ctx) s).hostMem ∧
         t.ranges = s.ranges ∧ t.queues = s.queues)))

/-- The pooling of a LOOKUP (R136 to R143, R149 to R152, R274, R275). -/
def Obligations.RowsPoolIntoBags : Prop :=
  ∀ (q n : Nat) (w : LookupWork) (x : Task) (s : State), s.sys.frozen = false → look? s q n = some w → task? s q n = some x →
    x.queue = q → x.seq = n →
    let onlyLook (t : State) : Prop := t = { s with work := t.work } ∧
      t.work = { s.work with idx := { s.work.idx with lookups := t.work.idx.lookups } } ∧
      ∀ k, k ≠ tid q n → Tab.get? t.work.idx.lookups k = Tab.get? s.work.idx.lookups k
    (pools s q n w = true →
      (∀ (key c first : Nat) (e : DirEntry) (data : Option (List Byte)) (bytes : List Byte) (u : State),
        dirFind key 0 w.dir = some (first, e) → rowOver w key e = false →
        key ∉ w.far → Tab.has w.rows key = false → homeBank s key (taskGen x (keyHandle key)) = none → clusterAwake s c = true →
        takeRead (tid q n) key (taskGen x (keyHandle key)) (some (q, n)) s = (.got data bytes, u) → transitRoom s c (transitNeed data) = true →
        allocatesLine (touchRow key (taskGen x (keyHandle key)) (!w.seen.contains key) (t4Clear (.read (tid q n) key) u)) key
          (taskGen x (keyHandle key)) = false →
        Completes (.rowTransitArrive q n key c) s fun t =>
          look? t q n = some { w with rows := Tab.put w.rows key { cluster := c, data := data, transit := transitNeed data }
                                      seen := insertNew key w.seen } ∧
          t.mem = s.mem ∧ t.hostMem = s.hostMem ∧ t.tasks = s.tasks ∧ t.streams = u.streams ∧ t.stackTab = u.stackTab) ∧
      (∀ (key first off c core : Nat) (e : DirEntry) (r : RowRead) (tb : Table), dirFind key 0 w.dir = some (first, e) → key ∉ w.far →
        Tab.get? w.rows key = some r → tbl? s (keyHandle key) = some tb → off < e.refs.length → off % 64 = 0 → runCluster s w r key off c = true →
        (∀ y ∈ runRefs w key off e, Tab.has w.homes y.bag = true) → (∀ y ∈ w.runs, y.1 ≠ key ∨ y.2.1 ≠ off) → core < 2048 →
        engineHeld s (c * 2048 + core) = false → NoneHeld s →
        accumRoom s c ((((runRefs w key off e).map Ref.bag).eraseDups.filter fun b =>
          !Tab.has w.frames (b * 512 + c) && decide (Tab.get? w.homes b ≠ some c)).length * frameBytes w) = true →
        Completes (.rowDeposit q n key (first + off) c core) s fun t => onlyLook t ∧
          let m := poolGroup w.poolMode w.plain
          let f := (runRefs w key off e).foldl (fun (f : Frames) (y : Ref) => frameAdd m w.elems (y.bag * 512 + c) core y.slot
            (poolTerms (shapeOf tb.desc) r.data (decide (w.poolMode = 2)) y) f) (w.frames, w.engines)
          let v := { w with frames := f.1, engines := f.2, runs := w.runs ++ [(key, off, c)],
                            redo := w.redo.filter fun y => !(decide (y.1 = key) && decide (y.2.1 = off)) }
          look? t q n = some (if rowOver v key e = true then { v with rows := Tab.del v.rows key } else v)) ∧
      (∀ c, nextBag w < w.bags → clusterAwake s c = true → accumRoom s c (frameBytes w) = true →
        Completes (.bagOpen q n (nextBag w) c) s fun t => onlyLook t ∧ ∃ v, look? t q n = some v ∧
          v.homes = Tab.put w.homes (nextBag w) c ∧ v.frames = w.frames ∧ v.done = w.done ∧
          v.early = w.early.filter (fun e => decide (e.1 / 8192 ≠ nextBag w)) ∧
          v.parts = ((w.early.filter fun e => decide (e.1 / 8192 = nextBag w)).foldl (fun w e => putPart e.1 e.2 w) w).parts) ∧
      (∀ bag c, Tab.has w.frames (bag * 512 + c) = true → Tab.has w.homes bag = true → bagDeposited w bag = true → NoneHeld s →
        Completes (.partialMerge q n bag c) s fun t => onlyLook t ∧ ∃ v, look? t q n = some v ∧
          Tab.has v.frames (bag * 512 + c) = false ∧ v.done = w.done ∧ v.homes = w.homes ∧
          v.parts = (putPart (partKey bag (me s) c)
            (closeFrame (poolGroup w.poolMode w.plain) w.elems (bag * 512 + c) (w.frames, w.engines)) w).parts) ∧
      (∀ bag, Tab.has w.homes bag = true → Tab.has w.done bag = false → bagWhole w bag = true →
        Completes (.bagFinish q n bag) s fun t =>
          (∃ v, look? t q n = some v ∧ Tab.get? v.done bag = some (finishBag w (mergeParts w bag)).1 ∧
            (∀ k, k ≠ bag → Tab.get? v.done k = Tab.get? w.done k) ∧ v.frames = w.frames ∧ v.sent = w.sent) ∧
          (let d := if w.retain = true ∧ w.winnerAddr ≠ 0 then
              devWrite (w.winnerAddr + bag * winnerBytes w.elems) (winnerPart (finishBag w (mergeParts w bag)).2) s else s
           t.mem = d.mem ∧ t.hostMem = d.hostMem)) ∧
      (∀ bag o, Tab.get? w.done bag = some o → bag ∉ w.sent →
        (w.toMemory = true → memGate q n .w (w.outAddr + bag * w.stride) o.body.length s = none →
          endKind s (w.outAddr + bag * w.stride) ≠ .flash → endKind s (w.outAddr + bag * w.stride) ≠ .peer → NoneHeld s →
          Completes (.bagSend q n bag) s fun t =>
            look? t q n = some { w with sent := w.sent ++ [bag], delivered := w.delivered ++ [bag] } ∧
            (let a := devWrite (w.outAddr + bag * w.stride) o.body s
             let b := if w.withStatus = true then devWrite (w.statusAddr + 16 * bag) (bagHeader w bag o) a else a
             t.mem = b.mem ∧ t.hostMem = b.hostMem) ∧
            counterVal t Ctr.bagsDelivered.index = satAdd 64 (counterVal s Ctr.bagsDelivered.index) 1) ∧
        (w.toMemory = false → (w.anyOrder = true ∨ bag = w.sent.length) →
          hasCredit s (w.stream / 4) 7 w.stream (bagHeader w bag o ++ o.body) = true → Completes (.bagSend q n bag) s fun t =>
            look? t q n = some { w with sent := w.sent ++ [bag] } ∧ t.mem = s.mem ∧ t.hostMem = s.hostMem ∧ t.tasks = s.tasks))) ∧
    (∀ stream d o, ackedDelivery (ucieOf s (stream / 4)) stream = some d → d.queue = q → d.seq = n → Tab.get? w.done d.item = some o → NoneHeld s →
      Completes (.deliveryAcked stream) s fun t =>
        look? t q n = some { w with delivered := w.delivered ++ [d.item] } ∧
        (ucieOf t (stream / 4)).deliveries = dropFirst (fun x => decide (x = d)) (ucieOf s (stream / 4)).deliveries ∧
        (w.withStatus = false → t.mem = s.mem ∧ t.hostMem = s.hostMem) ∧
        counterVal t Ctr.bagsDelivered.index = satAdd 64 (counterVal s Ctr.bagsDelivered.index) 1) ∧
    (∀ p body, PeerTaken 2 p s body → lookByTag s (pktJob p) = some (tid q n, w) → pktLast p = true →
      (∀ g ∈ s.work.chain.gathering, g.src ≠ pktSrc p ∨ g.job ≠ pktJob p) →
      let g := groupOf (poolGroup w.poolMode w.plain) body
      let tail := partialTail g.2.2.2
      Completes (.partialPkt p) s fun t =>
        (∃ v, look? t q n = some v ∧
          (let k := partKey g.1 (pktSrc p) (bitsOf (ofBytes (body.take 32)) 114 9)
           let b := { g.2.2.1 with nonfinite := tail.1 }
           if Tab.has w.homes g.1 = true then v.parts = (putPart k b w).parts ∧ v.early = w.early
           else v.parts = w.parts ∧ v.early = Tab.put w.early k (match Tab.get? w.early k with
             | some a => mergeBucket a b
             | none => b)) ∧
          v.beyond = if tail.2 = 0 then w.beyond else Tab.put w.beyond g.1 (Tab.getD w.beyond g.1 0 + tail.2)) ∧
        Tab.get? t.work.chain.accepted (flowKey (pktSrc p) (pktJob p)) = some (seqNext 32 (pktSeq p)) ∧ t.mem = s.mem ∧
        t.tasks = s.tasks) ∧
    (∀ p body, CtlTaken .genRetired p s body → lookByTag s (pktJob p) = some (tid q n, w) → x.state.final = false →
      Completes (.generationRetiredAnswer p) s fun t => ∃ y, task? t q n = some y ∧ y.state = .failed ∧
        y.status = (match bitsOf (ctlHead body) 8 8 with
          | 1 => .dataLost
          | 2 => .tierUnavailable
          | _ => .generationRetired))

/-- The permutation of R127: setup, rounds, walk, and that it is a permutation. -/
def Obligations.ShuffleIsAPermutation : Prop :=
  ∀ n lo hi epoch : Nat, 1 ≤ n → epoch < 2 ^ 32 → hi < 2 ^ 64 → lo < 2 ^ 64 →
    let m := shuffleHalf n
    let f := feistel m lo hi epoch
    let walk (i k : Nat) : Nat := Nat.repeat f (k + 1) i
    let p := shufflePi n lo hi epoch
    (∃ b, 1 ≤ b ∧ n ≤ 2 ^ b ∧ (∀ c, 1 ≤ c → n ≤ 2 ^ c → b ≤ c) ∧ m = (b + 1) / 2) ∧
    (∀ x, ∃ ac : Nat → Nat × Nat, ac 0 = (x >>> m, x &&& (2 ^ m - 1)) ∧
      (∀ r < 8, ac (r + 1) = ((ac r).2,
        (ac r).1 ^^^ (mix64 ((ac r).2 ^^^ mix64 (lo ^^^ mix64 (hi ^^^ ((epoch <<< 8) ^^^ r)))) &&& (2 ^ m - 1)))) ∧
      f x = ((ac 8).1 <<< m) ||| (ac 8).2) ∧
    (∀ x < 2 ^ (2 * m), f x < 2 ^ (2 * m)) ∧ (∀ x < 2 ^ (2 * m), ∀ y < 2 ^ (2 * m), f x = f y → x = y) ∧
    (∀ i < n, ∃ k, p i = walk i k ∧ walk i k < n ∧ ∀ j < k, n ≤ walk i j) ∧
    (∀ i < n, ∀ j < n, p i = p j → i = j) ∧ (∀ y < n, ∃ i < n, p i = y) ∧
    n ≤ 2 ^ (2 * m) ∧ 2 ^ (2 * m) ≤ 4 * n ∧ (2 ^ (2 * m) = 4 * n → n = 1)

/-- SORT, SHUFFLE and GATHER_SAMPLES (R117, R125, R126, R128, R130 to R133). -/
def Obligations.SortShuffleAndGather : Prop :=
  (∀ ks : List Nat,
    (let o := sortOutput false ks
     o.Pairwise (fun a b => a.1 < b.1 ∨ (a.1 = b.1 ∧ a.2.1 < b.2.1)) ∧ o.length = ks.length ∧ ∀ e ∈ o, ks[e.2.1]? = some e.1) ∧
    (let o := sortOutput true ks
     o.Pairwise (fun a b => a.1 < b.1) ∧ (∀ k, (∃ e ∈ o, e.1 = k) ↔ k ∈ ks) ∧
     ∀ e ∈ o, ks[e.2.1]? = some e.1 ∧ (∀ j < e.2.1, ks[j]? ≠ some e.1) ∧ e.2.2 = ks.count e.1)) ∧
  ∀ (q n : Nat) (x : Task) (s : State), s.sys.frozen = false → tasksRun s = true → task? s q n = some x → x.queue = q → x.seq = n →
    (admissible s q n = some x →
      (x.ttype = .sort → soReserved x = false → exec (.sort q n) s = exec (.sort q n) (startTask q n s)) ∧
      (x.ttype = .shuffle → shReserved x = false → partBits x 48 2 = 0 →
        exec (.shuffleGenerate q n) s = exec (.shuffleGenerate q n) (startTask q n s)) ∧
      (x.ttype = .shuffle → shReserved x = false → partBits x 48 2 = 1 →
        exec (.shufflePermute q n) s = exec (.shufflePermute q n) (startTask q n s)) ∧
      (x.ttype = .gatherSamples → gaReserved x = false → Completes (.gatherSamples q n) s fun t =>
        task? t q n = some { x with state := .active, admittedAt := s.clock } ∧ gather? t q n = some (gaWork x) ∧
        t = { s with tasks := t.tasks, work := t.work } ∧
        t.work = { s.work with idx := { s.work.idx with gathers := t.work.idx.gathers } }) ∧
      (x.ttype = .gatherSamples → gaReserved x = true → Completes (.gatherSamples q n) s fun t =>
        ∃ y, task? t q n = some y ∧ y.state = .failed ∧ y.status = .badReserved)) ∧
    (x.state = .active → Tab.has s.work.idx.sorts (tid q n) = false →
      let put (a : Nat) (bs : List Byte) (s : State) : State := devWrite a bs s
      let plain (a : Nat) : Prop := endKind s a ≠ .flash ∧ endKind s a ≠ .peer
      (x.ttype = .sort → partBits x 64 32 ≤ 2 ^ 25 →
        let c := partBits x 64 32
        let out := sortOutput (decide (partBits x 96 1 = 1)) (arrayOf s (partBits x 0 56) 8 c)
        memGate q n .r (partBits x 0 56) (8 * c) s = none → areaFenced s (partBits x 0 56) (8 * c) = none →
        memGates q n (sortAreas x out.length) s = none → plain (partBits x 128 56) → plain (partBits x 192 56) →
        plain (partBits x 256 56) → Completes (.sort q n) s fun t =>
          (let a := put (partBits x 128 56) (arrayBytes 8 (out.map Prod.fst)) s
           let b := if partBits x 97 1 = 1 then put (partBits x 192 56) (arrayBytes 4 (out.map fun e => e.2.1)) a else a
           let d := if partBits x 98 1 = 1 then put (partBits x 256 56) (arrayBytes 4 (out.map fun e => e.2.2)) b else b
           t.mem = d.mem ∧ t.hostMem = d.hostMem) ∧
          Tab.get? t.work.idx.sorts (tid q n) = some out.length ∧ t.queues = s.queues ∧ t.ranges = s.ranges) ∧
      (x.ttype = .shuffle → plain (partBits x 512 56) → memGate q n .w (partBits x 512 56) (8 * partBits x 320 48) s = none →
        (partBits x 48 2 ≠ 1 → Completes (.shuffleGenerate q n) s fun t =>
          let d := put (partBits x 512 56) (arrayBytes 8 ((shWindow x).map fun i => (partBits x 384 64 + shPi x i) % 2 ^ 64)) s
          t.mem = d.mem ∧ t.hostMem = d.hostMem ∧ Tab.get? t.work.idx.sorts (tid q n) = some (partBits x 320 48) ∧
          t.queues = s.queues ∧ t.ranges = s.ranges) ∧
        (partBits x 48 2 = 1 →
          memGates q n ((shWindow x).map fun i => (Right.r, partBits x 448 56 + 8 * shPi x i, 8)) s = none →
          (∀ i ∈ shWindow x, areaFenced s (partBits x 448 56 + 8 * shPi x i) 8 = none) → Completes (.shufflePermute q n) s fun t =>
          let d := put (partBits x 512 56) (arrayBytes 8 ((shWindow x).map fun i => devNat s (partBits x 448 56 + 8 * shPi x i) 8)) s
          t.mem = d.mem ∧ t.hostMem = d.hostMem ∧ Tab.get? t.work.idx.sorts (tid q n) = some (partBits x 320 48) ∧
          t.queues = s.queues ∧ t.ranges = s.ranges))) ∧
    (∀ g, gather? s q n = some g → x.state = .active → g.sent < g.count → unitsHeld s q n ≠ [] → memWf s = true →
      windowEntries x g g.stageBytes 65536 g.sent s = none →
      let xs := windowFrom s g g.stageBytes 65536 g.sent
      let size := sumNat (xs.map Sample.size)
      (xs = [] → Completes (.sampleWindow q n) s fun t =>
        ∃ y, task? t q n = some y ∧ y.state = .failed ∧ y.status = .sampleTooLarge) ∧
      (xs ≠ [] → windowReads x g xs s = none → g.stageAddr + size ≤ 2 ^ 52 →
        (g.toMemory = false → Completes (.sampleWindow q n) s fun t =>
          gather? t q n = some { g with sent := g.sent + xs.length, written := g.written + size } ∧ t.hostMem = s.hostMem ∧
          ∀ a, a < g.stageAddr ∨ g.stageAddr + size ≤ a → cellGet 0 t.mem a = cellGet 0 s.mem a) ∧
        (g.toMemory = true → g.outAddr + g.written + size ≤ 2 ^ 52 → (∀ k < size, endKind s (g.outAddr + g.written + k) = .stack) →
          Completes (.sampleWindow q n) s fun t =>
          gather? t q n = some { g with sent := g.sent + xs.length, written := g.written + size } ∧ t.hostMem = s.hostMem ∧
          ∀ a, (a < g.stageAddr ∨ g.stageAddr + size ≤ a) → (a < g.outAddr + g.written ∨ g.outAddr + g.written + size ≤ a) →
            cellGet 0 t.mem a = cellGet 0 s.mem a)))

/-- The rows of a UCIe module (R106, R405 to R410, R413, R423). -/
def Obligations.UcieModulesCarryMessages : Prop :=
  ∀ (m : Nat) (s : State), s.sys.frozen = false →
    let u := ucieOf s m
    (∀ lanes, m < 8 → lanes ≠ 0 → s.sys.cfg.ucieModules.testBit m = true → Completes (.ucieLinkUp m lanes) s fun t =>
      (ucieOf t m).up = true ∧ (ucieOf t m).lanes = lanes ∧ (ucieOf t m).helloOk = false ∧ (ucieOf t m).credits = [] ∧
      (ucieOf t m).deliveries = u.deliveries ∧ (ucieOf t m).waiting = u.waiting ∧ (∀ k, k ≠ m → ucieOf t k = ucieOf s k) ∧
      t = { s with links := t.links, sent := s.sent ++ [.control m helloMsg] }) ∧
    (u.up = true →
      (Completes (.ucieLinkDown m) s fun t =>
        (ucieOf t m).up = false ∧ (ucieOf t m).credits = [] ∧ (ucieOf t m).partials = [] ∧
        (∀ c ∈ moduleChannels m, (chan t c).isOpen = false) ∧ LastEvent t .linkDegraded (linkFields 2 m u.lanes 0 0) ∧
        t.mem = s.mem ∧ t.ranges = s.ranges) ∧
      (u.lanes = 64 → Completes (.ucieWidthDegrade m) s fun t =>
        (ucieOf t m).up = true ∧ (ucieOf t m).lanes = 32 ∧ LastEvent t .linkDegraded (linkFields 2 m 64 32 0) ∧ SameButReports s t) ∧
      (Completes (.ucieLaneRepair m) s fun t => SameButReports s t ∧
        counterVal t Ctr.laneRepairs.index = satAdd 64 (counterVal s Ctr.laneRepairs.index) 1) ∧
      (Completes (.cohMessage m) s fun t => t = { s with counters := t.counters } ∧
        counterVal t Ctr.ucieCohDiscarded.index = satAdd 64 (counterVal s Ctr.ucieCohDiscarded.index) 1) ∧
      (∀ flit : BitVec 2048, u.waiting = [] → u.deliveries = [] →
        let good := crc32c (toBytes 252 flit.toNat) = bits flit 2016 32
        let expected := if u.rxAny then (u.rxSeq + 1) % 4096 else 0
        (good → bits flit 32 12 = expected → bits flit 0 4 ≠ 0 → Completes (.ucieFlitReceive m flit) s fun t =>
          t = { s with links := t.links } ∧ (∀ k, k ≠ m → ucieOf t k = ucieOf s k) ∧
          ucieOf t m = { u with
            rxAny := true, rxSeq := bits flit 32 12, nakSent := false
            kept := if bit flit 56 then (flitAcked (bits flit 44 12) u).kept else u.kept
            partials := flitMessage (bits flit 0 4) (bits flit 4 5) (bit flit 9) (bit flit 10)
              (toBytes (bits flit 11 8 + 1) (bits flit 64 1952)) u.partials }) ∧
        (¬ good → u.nakSent = false → Completes (.ucieFlitReceive m flit) s fun t =>
          ucieOf t m = { u with nakSent := true } ∧ t = { s with links := t.links, sent := s.sent ++ [.nak m ((expected + 4095) % 4096)] })) ∧
      (∀ ack, Completes (.ucieNak m ack) s fun t =>
        ucieOf t m = flitAcked ack u ∧ t = { s with links := t.links
                                                    sent := s.sent ++ (flitAcked ack u).kept.map fun k => .resentFlit m k.flit }) ∧
      (∀ msg : Word128, bits msg 0 4 = 7 → u.helloOk = false →
        (bits msg 16 8 ≠ 1 → Completes (.hello m msg) s fun t =>
          ucieOf t m = { u with helloOk := false, classes := 0 } ∧ t = { s with links := t.links }) ∧
        (bits msg 16 8 = 1 → u.deliveries = [] → Completes (.hello m msg) s fun t =>
          (ucieOf t m).helloOk = true ∧ (ucieOf t m).classes = bits msg 64 16 &&& 0x1FF ∧ (ucieOf t m).credits = u.credits ∧
          t = { s with links := t.links
                       sent := s.sent ++ [.control m (creditMsg 1 0 2048), .control m (creditMsg 2 0 256),
                         .control m (creditMsg 3 0 512), .control m (creditMsg 5 0 64)] })) ∧
      (u.helloOk = false → Completes (.helloTimeout m) s fun t =>
        (ucieOf t m).classes = 0 ∧ (ucieOf t m).up = true ∧ (∀ c ∈ moduleChannels m, (chan t c).isOpen = false) ∧ t.mem = s.mem) ∧
      (∀ msg : Word128, bits msg 0 4 = 6 →
        let k := creditKey (bits msg 9 4) (bits msg 4 5)
        let n := Tab.getD u.credits k 0 + bits msg 32 32
        (2 ^ 24 < n → Completes (.credit m msg) s fun t => t = { s with counters := t.counters } ∧
          counterVal t Ctr.ucieBadCredits.index = satAdd 64 (counterVal s Ctr.ucieBadCredits.index) 1) ∧
        (n ≤ 2 ^ 24 → u.waiting = [] → u.deliveries = [] → Completes (.credit m msg) s fun t =>
          ucieOf t m = { u with credits := Tab.put u.credits k n } ∧ t = { s with links := t.links })) ∧
      (∀ msg : Word128,
        let op := bits msg 0 4
        (op = 0 ∨ 9 ≤ op → Completes (.ucieBadControl m msg) s fun t =>
          t = { s with links := t.links
                       sent := s.sent ++ [.control m (controlMsg 3 (bits msg 4 5) [(32, 4, op), (40, 8, 1)])] }) ∧
        (op ∈ [3, 4, 5, 8] → Completes (.ucieBadControl m msg) s fun t => t = { s with counters := t.counters } ∧
          counterVal t Ctr.ucieBadControl.index = satAdd 64 (counterVal s Ctr.ucieBadControl.index) 1)))

/-- FEED_OPEN, FEED_CLOSE and the arrival of records (R94 to R106, R164). -/
def Obligations.FeedChannelsTakeRecords : Prop :=
  ∀ s : State, s.sys.frozen = false →
    let ack (m c op st : Nat) : OutMsg := .control m (controlMsg 3 c [(32, 4, op), (40, 8, st)])
    let others (c : Nat) (t : State) : Prop := ∀ k, k ≠ c → chan t k = chan s k
    (∀ (m : Nat) (msg : Word128), (ucieOf s m).up = true →
      let c := bits msg 4 5
      let d := bits msg 16 22
      (bits msg 0 4 = 1 →
        (feedMsgBad m msg = true → Completes (.feedOpen m msg) s fun t => t = { s with links := t.links, sent := s.sent ++ [ack m c 1 1] }) ∧
        (feedMsgBad m msg = false → (d < 65536 ∨ 2097152 < d ∨ d % 16 ≠ 0) → Completes (.feedOpen m msg) s fun t =>
          t = { s with links := t.links, sent := s.sent ++ [ack m c 1 2] }) ∧
        (feedMsgBad m msg = false → 65536 ≤ d → d ≤ 2097152 → d % 16 = 0 →
          ((chan s c).isOpen = true → Completes (.feedOpen m msg) s fun t =>
            t = { s with links := t.links, sent := s.sent ++ [ack m c 1 3] }) ∧
          ((chan s c).isOpen = false → Completes (.feedOpen m msg) s fun t =>
            (chan t c).isOpen = true ∧ (chan t c).stopDistance = d ∧ (chan t c).overrun = false ∧
            (chan t c).stopped = decide ((chan s c).free ≤ d) ∧ (chan t c).free = (chan s c).free ∧ (chan t c).buffer = (chan s c).buffer ∧
            (chan t c).uses = (chan s c).uses ∧ (chan t c).opening = (chan s c).opening + 1 ∧
            others c t ∧ ack m c 1 0 ∈ t.sent ∧ t = { s with links := t.links, sent := t.sent, work := t.work } ∧
            t.work = { s.work with feeds := t.work.feeds }))) ∧
      (bits msg 0 4 = 2 →
        (feedMsgBad m msg = true ∨ d ≠ 0 → Completes (.feedClose m msg) s fun t =>
          t = { s with links := t.links, sent := s.sent ++ [ack m c 2 1] }) ∧
        (feedMsgBad m msg = false → d = 0 →
          ((chan s c).isOpen = false → Completes (.feedClose m msg) s fun t =>
            t = { s with links := t.links, sent := s.sent ++ [ack m c 2 3] }) ∧
          ((chan s c).isOpen = true → Completes (.feedClose m msg) s fun t =>
            (chan t c).isOpen = false ∧ ack m c 2 0 ∈ t.sent ∧ t.mem = s.mem ∧ t.hostMem = s.hostMem ∧
            ((∀ e ∈ (chan s c).uses, e.2.owner = none) → (chan t c).buffer = (chan s c).buffer ∧ (chan t c).free = (chan s c).free ∧
              others c t ∧ t.tasks = s.tasks))))) ∧
    (∀ (k : Nat) (row : FeedRec → Instr) (r : FeedRec),
      (k, row) ∈ [(1, Instr.keys), (2, .keysWeighted), (3, .tokens), (4, .tagEnd), (8, .gradFp32), (9, .gradBf16),
        (10, .gradPackedFp32), (11, .gradPackedBf16)] →
      r.channel < 32 → bits r.hdr 0 4 = k → carries s (r.channel / 4) 6 = true →
      let c := r.channel
      let x := chan s c
      let tag := bits r.hdr 64 16
      let u := Tab.getD x.uses tag {}
      let n := bufLength r.hdr
      (x.isOpen = false → Completes (row r) s fun t =>
        chan t c = { x with discarded := satAdd 64 x.discarded 1, discardedOvf := x.discardedOvf || satOvf 64 x.discarded 1 } ∧
        others c t ∧ t = { s with work := t.work } ∧ t.work = { s.work with feeds := t.work.feeds }) ∧
      (x.isOpen = true → u.draining = true → k ≠ 4 → Completes (row r) s fun t =>
        chan t c = { x with discarded := satAdd 64 x.discarded 1, discardedOvf := x.discardedOvf || satOvf 64 x.discarded 1 } ∧
        others c t ∧ t = { s with work := t.work } ∧ t.work = { s.work with feeds := t.work.feeds }) ∧
      (x.isOpen = true → u.draining = true → k = 4 → Completes (row r) s fun t =>
        (Tab.getD (chan t c).uses tag {}).draining = false ∧ (chan t c).buffer = x.buffer ∧ (chan t c).free = x.free ∧
        (chan t c).discarded = x.discarded ∧ others c t ∧ t = { s with work := t.work }) ∧
      (x.isOpen = true → u.draining = false → n ≤ x.free → Completes (row r) s fun t =>
        (chan t c).buffer = x.buffer ++ [{ hdr := r.hdr, payload := r.payload.take (n - 16), opening := x.opening }] ∧ (chan t c).free = x.free - n ∧
        (chan t c).stopped = decide (x.free - n ≤ x.stopDistance) ∧ (chan t c).discarded = x.discarded ∧
        (chan t c).uses = x.uses ∧ others c t ∧ t = { s with links := t.links, sent := t.sent, work := t.work } ∧
        t.work = { s.work with feeds := t.work.feeds }) ∧
      (x.isOpen = true → u.draining = false → x.free < n →
        (∀ q seq y, u.owner = some (tid q seq) → task? s q seq = some y → y.queue = q → y.seq = seq → y.state = .active →
          Completes (row r) s fun t => (chan t c).overrun = true ∧
            ∃ z, task? t q seq = some z ∧ z.state = .failed ∧ z.status = .feedOverrun ∧
              z.detail = { kind := 2, d0 := c, d1 := bits r.hdr 96 16 }) ∧
        (u.owner = none → Completes (row r) s fun t => (chan t c).overrun = true ∧ t.tasks = s.tasks ∧ t.mem = s.mem)))

/-- The instructions of a row program, CHUNK_START and PROGRAM_END (R176, R177, R188 to R199). -/
def Obligations.RowProgramInstructions : Prop :=
  ∀ (core : Nat) (r : RowRun) (tb : Table) (s : State), s.sys.frozen = false → Tab.get? s.work.upd.runs core = some r →
    runTable s r = some tb → r.phase = .running → engineHeld s core = false → r.v.length = 128 → r.s.length = 8 → r.p.length = 4 →
    let sh := shapeOf tb.desc
    let only (t : State) : Prop := t = { s with work := t.work } ∧
      t.work = { s.work with upd := { s.work.upd with runs := t.work.upd.runs } } ∧
      ∀ k, k ≠ core → Tab.get? t.work.upd.runs k = Tab.get? s.work.upd.runs k
    (r.begun = true → ∀ o : RowOp, o.pred < 4 → o.dst < 24 → o.srcA < 32 → o.srcB < 32 → o.srcC < 32 →
      let next (op : Nat) : Prop := r.code[r.pc]? = some (instrWord op o)
      let sel (l : Nat) : Bool := r.pbit 0 l && (r.pbit o.pred l != o.pneg)
      let runs (c : Instr) (p : RowRun → Prop) : Prop :=
        Completes c s fun t => only t ∧ ∃ r', Tab.get? t.work.upd.runs core = some (r'.advance sh.elements) ∧ p r'
      let arith (g : Nat → Word32) (r' : RowRun) : Prop :=
        (o.dst < 16 → r' = { r with v := r'.v } ∧ ∀ d l, d < 16 → l < 8 →
          r'.v.getD (8 * d + l) 0 = if d = o.dst ∧ sel l = true then g l else r.v.getD (8 * d + l) 0) ∧
        (16 ≤ o.dst → r' = { r with s := r.s.set (o.dst - 16) (g 0) })
      let pred (b : Nat → Bool) (r' : RowRun) : Prop := r' = { r with p := r'.p } ∧
        ∀ k l, k < 4 → l < 8 → r'.pbit k l = if k = o.dst then b l else r.pbit k l
      let loads (g : Nat → Word32) (r' : RowRun) : Prop := r' = { r with v := r'.v } ∧ ∀ d l, d < 16 → l < 8 →
        r'.v.getD (8 * d + l) 0 =
          if d = o.dst ∧ sel l = true then g (8 * r.chunk + l) else if d = o.dst ∧ r.pbit 0 l = false then 0 else r.v.getD (8 * d + l) 0
      let bs := runRow s sh r
      let st := stateOf sh bs
      (next 0x00 → runs (.nop core o) fun r' => r' = r) ∧
      (∀ (op : Nat) (i : Nat → RowOp → Instr) (f : Word32 → Word32 → Word32),
        (op, i, f) ∈ [(0x01, Instr.fadd, fadd), (0x02, .fsub, fsub), (0x03, .fmul, fmul), (0x06, .fmax, fmax), (0x07, .fmin, fmin)] →
        next op → runs (i core o) (arith fun l => f (r.src o.srcA l) (r.src o.srcB l))) ∧
      (next 0x04 → runs (.fma core o) (arith fun l => ffma (r.src o.srcA l) (r.src o.srcB l) (r.src o.srcC l))) ∧
      (next 0x05 → runs (.fnma core o) (arith fun l => ffnma (r.src o.srcA l) (r.src o.srcB l) (r.src o.srcC l))) ∧
      (∀ (op : Nat) (i : Nat → RowOp → Instr) (f : Word32 → Word32),
        (op, i, f) ∈ [(0x08, Instr.fabs, fabs), (0x09, .fneg, fneg), (0x0A, .mov, fun x => x), (0x10, .rcp, rcp32),
          (0x11, .rsqrt, rsqrt32), (0x12, .exp2, exp232), (0x13, .log2, log232)] →
        next op → runs (i core o) (arith fun l => f (r.src o.srcA l))) ∧
      (next 0x0B → runs (.sel core o) (arith fun l => if r.pbit o.srcC l then r.src o.srcA l else r.src o.srcB l)) ∧
      (o.dst < 4 →
        (∀ (op : Nat) (i : Nat → RowOp → Instr) (f : Word32 → Word32 → Bool),
          (op, i, f) ∈ [(0x14, Instr.fcmpLt, fltb), (0x15, .fcmpLe, fleb), (0x16, .fcmpEq, feqb), (0x17, .fcmpUn, funb)] →
          next op → runs (i core o) (pred fun l => r.pbit 0 l && f (r.src o.srcA l) (r.src o.srcB l))) ∧
        (next 0x18 → runs (.pand core o) (pred fun l => r.pbit o.srcA l && r.pbit o.srcB l)) ∧
        (next 0x19 → runs (.por core o) (pred fun l => (r.pbit o.srcA l || r.pbit o.srcB l) && r.pbit 0 l)) ∧
        (next 0x1A → runs (.pnot core o) (pred fun l => !r.pbit o.srcA l && r.pbit 0 l))) ∧
      (16 ≤ o.dst →
        let x (l : Nat) : Word32 := if sel l then r.src o.srcA l else 0
        let sum := fadd (fadd (fadd (x 0) (x 1)) (fadd (x 2) (x 3))) (fadd (fadd (x 4) (x 5)) (fadd (x 6) (x 7)))
        let top := ((List.range 8).filter sel).foldl (fun acc l => fmax acc (r.src o.srcA l)) (r.src o.dst 0)
        (next 0x1C → runs (.radd core o) fun r' => r' = { r with s := r.s.set (o.dst - 16) (fadd (r.src o.dst 0) sum) }) ∧
        (next 0x1D → runs (.rmax core o) fun r' => r' = { r with s := r.s.set (o.dst - 16) top }) ∧
        (next 0x20 → runs (.movx core o) fun r' => r' = { r with s := r.s.set (o.dst - 16) (specialInput s sh r o.srcA) }) ∧
        (next 0x2C → runs (.ldw core o) fun r' => r' = { r with s := r.s.set (o.dst - 16) (stateWord sh st o.srcB) })) ∧
      (o.dst < 16 →
        (next 0x28 → runs (.ldg core o) (loads fun i => r.grad.elems.getD i 0)) ∧
        (next 0x29 → runs (.ldr core o) (loads fun i => term1 sh bs i)) ∧
        (next 0x2A → runs (.ldrj core o) (loads fun i => termJoined sh bs i)) ∧
        (next 0x2B → runs (.lds core o) (loads fun i => stateVal sh st o.srcB i))) ∧
      (∀ (op : Nat) (i : Nat → RowOp → Instr) (split : Bool), (op, i, split) ∈ [(0x30, Instr.str, false), (0x31, .strj, true)] →
        next op → runs (i core o) fun r' => r' = { r with data := r'.data } ∧ ∀ e,
          Tab.get? r'.data e = if e / 8 = r.chunk ∧ sel (e % 8) = true then some (r.src o.srcA (e % 8), split) else Tab.get? r.data e) ∧
      (next 0x32 → r.chunk < 1024 → runs (.sts core o) fun r' => r' = { r with planes := r'.planes } ∧ ∀ e,
        Tab.get? r'.planes e = if e / 8192 = o.srcB ∧ e % 8192 / 8 = r.chunk ∧ sel (e % 8) = true then some (r.src o.srcA (e % 8))
          else Tab.get? r.planes e) ∧
      (next 0x33 → runs (.stw core o) fun r' => r' = { r with words := Tab.put r.words o.srcB (r.src o.srcA 0) })) ∧
    (r.begun = false → r.sect = 0 ∨ r.sect = 2 → Completes (.chunkStart core) s fun t => only t ∧
      ∃ r', Tab.get? t.work.upd.runs core = some r' ∧ r' = { r with begun := true, p := r'.p } ∧
        ∀ k l, k < 4 → l < 8 → r'.pbit k l = if k = 0 then decide (8 * r.chunk + l < tdElems tb.desc) else r.pbit k l) ∧
    (let row := rowOf s r.grad.key
     r.sect = 3 → row.committing = false → row.migrating = false →
     Completes (.programEnd core) s fun t =>
       Tab.get? t.work.upd.runs core =
         some { r with image := commitImage sh (workingBytes sh row) r, phase := .committing } ∧
       rowOf t r.grad.key = { row with committing := true } ∧
       (∀ k, k ≠ core → Tab.get? t.work.upd.runs k = Tab.get? s.work.upd.runs k) ∧
       (∀ k, k ≠ r.grad.key → rowOf t k = rowOf s k) ∧ t = { s with work := t.work } ∧ t.work.idx = s.work.idx)

/-- PROGRAM_LOAD, its EMPTY form, and PROGRAM_SLOT_WRITE (R205, R207, R208, R384). -/
def Obligations.ProgramSlotsLoad : Prop :=
  (∀ (m : MbxCall) (s : State), MbxOpen s → m.defer = false →
    let begun (slot ctx : Nat) (p : Option Program) (t : State) : Prop :=
      let old := Tab.getD s.work.upd.loading slot []
      ∃ id, (∀ x ∈ old.getLast?, id = x.id + 1) ∧ MbxWaits 0x24 m (.programLoad slot id) t ∧
      Tab.get? t.work.upd.loading slot = some (old ++ [{ id := id, ctx := ctx, program := p }]) ∧
      (∀ k, k ≠ slot → Tab.get? t.work.upd.loading k = Tab.get? s.work.upd.loading k) ∧
      t = { hostWrote m.host s with mbx := t.mbx, work := t.work } ∧
      t.work = { s.work with upd := { s.work.upd with loading := t.work.upd.loading } }
    (let a := progArgs false m
     let slot := bits a 0 3
     let ctx := bits a 8 8
     let s0 := mbxIn 0x24 m a s
     let n := imageLength (devRead s0 (bits a 64 56) 64)
     zeroFields a (progUnused false) = true → ctxOk s0 m ctx = true →
     areaOk s0 (m.issuer % 256) (bits a 64 56) 64 .r .any = true → areaOk s0 (m.issuer % 256) (bits a 64 56) n .r .any = true →
     areaFenced s0 (bits a 64 56) n = none →
     (∀ p, checkImage ctx (devRead s0 (bits a 64 56) n) = .ok p → slotForeign s slot ctx = false →
       Completes (.programLoad m) s (begun slot ctx (some p))) ∧
     (∀ p, checkImage ctx (devRead s0 (bits a 64 56) n) = .ok p → slotForeign s slot ctx = true →
       Completes (.programLoad m) s fun t => MbxEnds m .slotBusy t ∧ MbxOnly (hostWrote m.host s) t) ∧
     (∀ i, checkImage ctx (devRead s0 (bits a 64 56) n) = .error i → Completes (.programLoad m) s fun t =>
       MbxEnds m .badProgram t ∧ t.mbx.result = BitVec.ofNat 2048 i ∧ MbxOnly (hostWrote m.host s) t)) ∧
    (let a := progArgs true m
     zeroFields a (progUnused true) = true → ctxOk s m (bits a 8 8) = true →
     (slotForeign s (bits a 0 3) (bits a 8 8) = false → Completes (.programEmpty m) s (begun (bits a 0 3) (bits a 8 8) none)) ∧
     (slotForeign s (bits a 0 3) (bits a 8 8) = true → Completes (.programEmpty m) s fun t =>
       MbxEnds m .slotBusy t ∧ MbxOnly (hostWrote m.host s) t))) ∧
  (∀ (slot : Nat) (x : SlotLoad) (rest : List SlotLoad) (r : Running) (s : State), s.sys.frozen = false →
    Tab.get? s.work.upd.loading slot = some (x :: rest) →
    (slotInUse s slot = true → exec (.programSlotWrite slot) s = .next s) ∧
    (slotInUse s slot = false → s.mbx.running = some r → r.wait = .programLoad slot x.id →
      Completes (.programSlotWrite slot) s fun t =>
        Tab.getD t.work.upd.loading slot [] = rest ∧ Tab.get? t.work.upd.programs slot = x.program ∧
        (∀ k, k ≠ slot → Tab.get? t.work.upd.programs k = Tab.get? s.work.upd.programs k) ∧
        JobEnds r .ok t ∧ t.tasks = s.tasks ∧ t.mem = s.mem ∧
        t.work = { s.work with upd := { s.work.upd with loading := t.work.upd.loading, programs := t.work.upd.programs } }))

/-- SCATTER and what its rows do (R87, R163, R168, R171 to R182, R229). -/
def Obligations.ScattersUpdateRows : Prop :=
  ∀ (q n : Nat) (x : Task) (s : State), s.sys.frozen = false → task? s q n = some x → x.queue = q → x.seq = n →
    let failed (st : Status) (t : State) : Prop := ∃ y, task? t q n = some y ∧ y.state = .failed ∧ y.status = st
    let onlyWork (t : State) : Prop := t = { s with work := t.work } ∧
      t.work = { s.work with upd := { s.work.upd with works := t.work.upd.works } } ∧
      ∀ k, k ≠ tid q n → Tab.get? t.work.upd.works k = Tab.get? s.work.upd.works k
    (tasksRun s = true → admissible s q n = some x → x.ttype = .scatter →
      (scReleaseOnly x = false → scHeld s x = true → exec (.scatter q n) s = .next s) ∧
      (scReleaseOnly x = false → scHeld s x = false → scReserved x = true → Completes (.scatter q n) s (failed .badReserved)) ∧
      (scReleaseOnly x = false → scHeld s x = false → scReserved x = false →
        (findMap s x.ctx (partBits x 32 32) (partBits x 128 56) = none → Completes (.scatter q n) s (failed .mapUnknown)) ∧
        (∀ m, findMap s x.ctx (partBits x 32 32) (partBits x 128 56) = some m →
          let h := devNat s m.addr 64
          ((areaFenced s m.addr 64).isSome = true → Completes (.scatter q n) s (failed .dataLost)) ∧
          (areaFenced s m.addr 64 = none → startLost s x m h = none → mapCorrupt h m = false → scStrideBad x m.elems = false → scAreaBad s x m h = none →
          (∀ b ∈ x.bindings, (liveTbl s x.ctx b.handle).isSome = true) → shardedFault s x = false → programFault s x = none →
          (partBits x 28 1 = 1 → jobFault s x.ctx (partBits x 16 12) (partBits x 0 1) (some m.elems) = none) →
          partBits x 3 1 = 1 → memGate q n .r (partBits x 192 56) (m.bags * partBits x 256 32) s = none →
          Completes (.scatter q n) s fun t =>
            (let w := scWork s x m h
             work? t q n = (match w.job with
               | none => some w
               | some id => match job? s id with
                 | none => some w
                 | some j => work? (j.results.foldl (fun s g => takeGrad q n g s) (updUpd (fun u => { u with
                     works := Tab.put u.works (tid q n) w }) s)) q n)) ∧
            task? t q n = some { x with
              state := .active, admittedAt := s.clock, bound := (scWork s x m h).handles.map fun h => (h, none) } ∧
            t.mem = s.mem ∧ t.hostMem = s.hostMem ∧ t.work.tbl = s.work.tbl ∧ t.work.upd.maps = s.work.upd.maps ∧
            (partBits x 28 1 = 1 → ∃ j, job? t (partBits x 16 12) = some j ∧ j.contributor = some (q, n) ∧ j.results = [])))) ∧
      (scReleaseOnly x = true → scReserved x = false → ∀ m, findMap s x.ctx (partBits x 32 32) (partBits x 128 56) = some m →
        areaFenced s m.addr 64 = none → mapCorrupt (devNat s m.addr 64) m = false → Completes (.scatterReleaseOnly q n) s fun t =>
          task? t q n = some { x with state := .active, admittedAt := s.clock } ∧
          (∃ w, work? t q n = some w ∧ w.releaseOnly = true ∧ w.released = false) ∧
          findMap t x.ctx (partBits x 32 32) (partBits x 128 56) ≠ some m ∧ t.mem = s.mem)) ∧
    (∀ m ∈ s.work.upd.maps, sameMap m.ctx m.seq m.addr m = true → m.releasing = true →
      (mapBusy s m.ctx m.seq m.addr = true → exec (.retainedMapRelease m.ctx m.seq m.addr) s = .next s) ∧
      (mapBusy s m.ctx m.seq m.addr = false → Completes (.retainedMapRelease m.ctx m.seq m.addr) s fun t =>
        t.work.upd.maps = s.work.upd.maps.filter (fun e => !sameMap m.ctx m.seq m.addr e) ∧ t.mem = s.mem ∧ t.tasks = s.tasks)) ∧
    (x.state = .active → ∀ w, work? s q n = some w → look? s q n = none →
      (∀ key k first c core v, entryFor w key first = some k → w.flush = false → enginesRun s c = true →
        engineHeld s (c * 2048 + core) = false → NoneHeld s →
        let d := w.dir.getD k (0, 0, 0)
        let count := min 64 (d.2.1 + d.2.2 - first)
        let refs := ((List.range count).map fun i => mapRef s w (first + i)).filter fun e => decide (e.bag < w.bags)
        refsLost s w first count = none → (∀ e ∈ refs, bagHasGrad w e.bag = true ∧ gradLost s w e.bag = none) →
        openBucket s w k first c = some v →
        Completes (.rowDeposit q n key first c core) s fun t => onlyWork t ∧ work? t q n = some (bucketAdd k first
          (fun b => refs.foldl (fun b e => depositRef (refTerms s v e) e.slot b) b) v)) ∧
      (∀ key k c, ((List.range w.dir.length).find? fun k => decide ((w.dir.getD k (0, 0, 0)).1 = key) && !w.finished.contains k) = some k →
        w.flush = false → w.job = none → enginesRun s c = true → NoneHeld s →
        let d := w.dir.getD k (0, 0, 0)
        (d.2.2 = 0 ∨ Tab.get? w.homes k = some c) → runCount d.2.2 ≤ (w.runs.filter fun r => decide (r.1 = k)).length →
        Completes (.bucketFinish q n key c) s fun t => onlyWork t ∧ ∃ v, work? t q n = some v ∧ v.finished = w.finished ++ [k] ∧
          v.homes = Tab.del w.homes k ∧ v.whole = Tab.del w.whole k ∧ v.partials = w.partials ∧ v.dir = w.dir ∧ v.runs = w.runs ∧
          v.sharded = w.sharded + (if 4096 < d.2.2 then 1 else 0) ∧
          (keyBound s w key = true → (openEntry w key).isSome = true → (boundProgram w (keyHandle key)).isSome = true → w.skipRow = false →
            v.ready = w.ready ++ [finishGrad key (renormBucket (Tab.getD w.whole k (emptyBucket (if w.plain then 1 else 0) w.elems)))])) ∧
      (∀ key core g data bytes u p, (w.ready.find? fun e => decide (e.key = key)) = some g →
        rowRunning s key = false → coreFor s key core = true → takeRead (tid q n) key none (some (q, n)) s = (.got data bytes, u) →
        boundProgram w (keyHandle key) = some p → Completes (.rowProgramStart q n key { core := core, reads := [] }) s fun t =>
          Tab.get? t.work.upd.runs core = some (newRun q n g p) ∧
          (∀ k, k ≠ core → Tab.get? t.work.upd.runs k = Tab.get? s.work.upd.runs k) ∧
          (∃ v, work? t q n = some v ∧ v = { w with ready := dropFirst (fun e => decide (e.key = key)) w.ready }) ∧
          (readPlace s key none = none → t.work.tbl.rows = s.work.tbl.rows) ∧ t.mem = s.mem ∧ t.tasks = s.tasks)) ∧
    (x.state = .active → ∀ core r, Tab.get? s.work.upd.runs core = some r → r.queue = q → r.seq = n →
      NoneHeld s → s.work.tbl.maints = [] → coreHeld s core = false →
      let key := r.grad.key
      let ended (t : State) : Prop := Tab.get? t.work.upd.runs core = none ∧ (rowOf t key).committing = false
      let u := runWay key s
      (r.phase = .committing → ∀ s' v, commitRow key r.image true u = .done s' →
        ((rowOf s' key).t0 = none → rowUp s' key = true) → throughT4 (.commit core) (keyHandle key) u s' = (true, v) →
        Completes (.commitPoint core) s fun t => ended t ∧ rowOf t key = { rowOf v key with committing := false } ∧ t.mem = v.mem ∧
          counterVal t Ctr.rowsCommitted.index = satAdd 64 (counterVal v Ctr.rowsCommitted.index) 1 ∧
          ∀ w, work? v q n = some w → (w.committed + 1) ∈ (work? t q n).map UpdateWork.committed) ∧
      (r.phase = .committing → commitRow key r.image true u = .deltaFull → Completes (.commitPoint core) s fun t =>
        Tab.get? t.work.upd.runs core = some { r with phase := .deltaWait u.clock } ∧ (rowOf t key).committing = false ∧
        t = { u with work := t.work }) ∧
      (r.phase = .committing → commitRow key r.image true u = .tableFull → Completes (.commitPoint core) s fun t =>
        ended t ∧ t.mem = u.mem ∧ failed .tableFull t) ∧
      (∀ since, r.phase = .deltaWait since →
        (Completes (.deltaPoolWaitExpire (.run core)) s fun t => ended t ∧ t.mem = s.mem ∧ failed .deltaPoolFull t) ∧
        (∀ tb, tbl? s (keyHandle key) = some tb → (∀ d, deltaFor tb (rowOf s key) = some d →
            (placeDelta s (keyHandle key) tb d).isSome = true) → (rowOf s key).migrating = false →
          Completes (.deltaPoolRoom (.run core)) s fun t => Tab.get? t.work.upd.runs core = some { r with phase := .committing } ∧
            (rowOf t key).committing = true ∧ t = { s with work := t.work })) ∧
      (r.phase = .committing ∨ r.phase = .t4Wait → ∀ s', commitRow key r.image true s = .done s' → (rowOf s' key).t0 = none →
        2 ≤ (rowOf s' key).place.tier →
        Completes (.writeBackFail core) s fun t => ended t ∧ t.mem = s.mem ∧ failed .tierUnavailable t ∧
          (rowOf t key).backing = (rowOf s key).backing)) ∧
    (∀ handle row c m u, (rowOf s (mkKey handle row)).t0 = some c → cleanTurn (cleanMarks s) (mkKey handle row) = some (m, u) →
      c.shadow = some m → c.since = u → rowUp s (mkKey handle row) = true → (rowOf s (mkKey handle row)).place.page = none →
      Completes (.cleanWriteDone handle row) s fun t =>
        (rowOf t (mkKey handle row)).backing = c.bytes ∧
        (rowOf t (mkKey handle row)).t0 = some { c with dirty := false, shadow := none } ∧
        (∀ k, k ≠ mkKey handle row → rowOf t k = rowOf s k) ∧ t.mem = s.mem ∧
        (∀ e ∈ t.work.upd.runs, e.2.phase ≠ .shadowWait))

/-- Commits of rows against published generations (R22, R79, R86, R210). The two premises on the row say that its delta
versions are older than its stamp and the stamp at most the next generation; the conclusion says that the commit keeps both. -/
def Obligations.GenerationsAreSnapshots : Prop :=
  ∀ (key : Nat) (bytes : List Byte) (program : Bool) (t : Table) (s s' : State),
    commitRow key bytes program s = .done s' → tbl? s (keyHandle key) = some t →
    (∀ d ∈ (rowOf s key).deltas, d.hi < stampOf t (rowOf s key)) → (rowOf s key).stamp ≤ t.highest + 1 →
    ∃ t', tbl? s' (keyHandle key) = some t' ∧ t'.desc = t.desc ∧ t'.gens = t.gens ∧ t'.highest = t.highest ∧
      t'.baseStamp = t.baseStamp ∧
      (rowOf s' key).written = true ∧ (rowOf s' key).bytes = bytes ∧ (rowOf s' key).fenced = false ∧
      readVersion t' (rowOf s' key) none = (some (bytes.take (dataBytes (shapeOf t.desc))), false) ∧
      stampOf t' (rowOf s' key) = max (t.highest + 1) t.baseStamp ∧
      (∀ d ∈ (rowOf s' key).deltas, d.hi < stampOf t' (rowOf s' key)) ∧ (rowOf s' key).stamp ≤ t'.highest + 1 ∧
      (∀ g, Tab.has t.gens g = true → g ≤ t.highest → readVersion t' (rowOf s' key) (some g) = readVersion t (rowOf s key) (some g)) ∧
      (∀ k, k ≠ key → (keyHandle k ≠ keyHandle key ∨ ((rowOf s k).t0 = none ∧ (rowOf s k).written = true)) → rowOf s' k = rowOf s k)

/-- TABLE_CREATE, its MODIFY form, TABLE_LOAD and deletion (R67, R68, R73, R90 to R93, R214, R383), for tables that are not sharded. -/
def Obligations.TablesCreateLoadDelete : Prop :=
  (∀ (m : MbxCall) (s : State), MbxOpen s → m.defer = false →
    let d := tcDesc m
    let h := bits d 0 16
    let others (k : Nat) (t : State) : Prop := ∀ i, i ≠ k → tbl? t i = tbl? s i
    (h ≠ 0xFFFF → ctxOk s m (tdCtx d) = true →
      let s0 := mbxIn 0x20 m (tcArgs false m) s
      (tdReserved s d = false → zeroFields (tcArgs false m) [(1025, 1023)] = true →
        (Tab.has s.work.tbl.tables h = true → Completes (.tableCreate m) s fun t =>
          MbxEnds m .tableExists t ∧ MbxOnly (hostWrote m.host s) t) ∧
        (Tab.has s.work.tbl.tables h = false → s.work.tbl.tables.length < 65535 → tdFault s0 d = none →
          (newPartition h d s0 = none → Completes (.tableCreate m) s fun t =>
            MbxEnds m .noCapacity t ∧ MbxOnly (hostWrote m.host s) t) ∧
          (∀ p s1, newPartition h d s0 = some (p, s1) → Completes (.tableCreate m) s fun t => MbxEnds m .ok t ∧
            (∃ tb, tbl? t h = some tb ∧ tb.desc = d ∧ tb.ctx = tdCtx d ∧ tb.highest = 0 ∧ tb.gens = [] ∧ tb.deleting = false ∧
              tb.part = p ∧ tb.pinBelow = pinnedRows d) ∧ t.work.tbl.rows = s1.work.tbl.rows ∧
            (tdMode d ≠ 1 → others h t ∧ t.work.tbl.rows = s.work.tbl.rows ∧ MbxOnly { hostWrote m.host s with work := t.work } t))) ∧
        (∀ st, Tab.has s.work.tbl.tables h = false → s.work.tbl.tables.length < 65535 → tdFault s0 d = some st →
          Completes (.tableCreate m) s fun t => MbxEnds m st t ∧ MbxOnly (hostWrote m.host s) t)) ∧
      (tdReserved s d = false → zeroFields (tcArgs true m) [(1025, 1023)] = true →
        ∀ tb, liveTbl s (tdCtx d) h = some tb →
        (tdFixed d ≠ tdFixed tb.desc → Completes (.tableCreateModify m) s fun t =>
          MbxEnds m .badModify t ∧ MbxOnly (hostWrote m.host s) t) ∧
        (tdFixed d = tdFixed tb.desc → s.work.tbl.tables.length < 65535 → tdFault (mbxIn 0x20 m (tcArgs true m) s) d = none → tdMode d ≠ 1 →
          (∀ k ∈ [1, 2, 3, 4], tdLimit d k = noLimit ∨ tierRows s h k ≤ tdLimit d k) → (tdLimit d 0 = noLimit ∨ t0Rows s h ≤ tdLimit d 0) →
          Completes (.tableCreateModify m) s fun t => MbxEnds m .ok t ∧ others h t ∧
            (∃ tb', tbl? t h = some tb' ∧ tb'.desc = d ∧ tb'.gens = tb.gens ∧ tb'.highest = tb.highest ∧ tb'.baseStamp = tb.baseStamp) ∧
            t.work.tbl.rows = s.work.tbl.rows ∧ t.mem = s.mem))) ∧
    (let a := loadArgs false m
     let h := bits a 0 16
     let s0 := mbxIn 0x21 m a s
     loadFault s0 m a = none → ∀ tb, tbl? s h = some tb →
     let img := readImage s0 tb.desc (bits a 64 56) (bits a 128 64)
     let id := s.work.tbl.nextPublish
     ∀ s1 n st left, mergeRows id h tb img.rows 0 { s0 with work := { s0.work with tbl := { s0.work.tbl with nextPublish := id + 1 } } } =
       (s1, n, st, left) →
     let ends (st : Status) (bad : Option Nat) : Prop := Completes (.tableLoadMerge m) s fun t =>
       MbxEnds m st t ∧ t.mbx.result = BitVec.ofNat 2048 (loadResult n bad) ∧ t.work = s1.work ∧ t.mem = s1.mem ∧ t.tasks = s1.tasks
     (left = [] → st ≠ .ok → ends st none) ∧ (st = .ok → img.bad = none → ends .ok none) ∧
     (∀ o, st = .ok → img.bad = some o → ends .badLoadEntry (some o)) ∧
     (left ≠ [] → st ≠ .ok → Completes (.tableLoadMerge m) s fun t =>
       MbxWaits 0x21 m (.tableLoad id) t ∧ t.work.tbl.merges = s1.work.tbl.merges ++
         [{ id := id, handle := h, left := left, done := n, bad := img.bad, since := s1.clock }] ∧
       t.work.tbl.rows = s1.work.tbl.rows ∧ t.work.tbl.tables = s1.work.tbl.tables ∧ t.mem = s1.mem ∧ t.tasks = s1.tasks)) ∧
    (let a := loadArgs true m
     let h := bits a 0 16
     loadFault (mbxIn 0x21 m a s) m a = none → ∀ tb, tbl? s h = some tb → tableDevices s h = [] →
     Completes (.tableLoadReplace m) s fun t => MbxWaits 0x21 m (.tableLoad s.work.tbl.nextPublish) t ∧ others h t ∧
       tbl? t h = some { tb with replaces := tb.replaces ++ [{ id := s.work.tbl.nextPublish, imageAddr := bits a 64 56
                                                               imageBytes := bits a 128 64, ctx := m.issuer % 256 }] } ∧
       t.work.tbl.rows = s.work.tbl.rows ∧ t.mem = s.mem ∧ t.tasks = s.tasks) ∧
    (let a := retArgs true m
     let h := bits a 0 16
     zeroFields a [(24, 1), (26, 2022)] = true → ctxOk s m (bits a 16 8) = true →
     (liveTbl s (bits a 16 8) h = none → Completes (.tableDelete m) s fun t => MbxEnds m .noTable t ∧ MbxOnly (hostWrote m.host s) t) ∧
     (∀ tb, liveTbl s (bits a 16 8) h = some tb → tableDevices s h = [] → Completes (.tableDelete m) s fun t =>
       MbxWaits 0x23 m (.tableDelete h) t ∧ others h t ∧
       tbl? t h = some { tb with deleting := true, gens := tb.gens.map fun g => (g.1, { g.2 with released := true }) } ∧
       t.work.tbl.rows = s.work.tbl.rows ∧ t.mem = s.mem))) ∧
  (∀ (x : MergeLoad) (run : Running) (s : State), s.sys.frozen = false →
    (s.work.tbl.merges.find? fun y => decide (y.id = x.id)) = some x → s.mbx.running = some run → run.wait = .tableLoad x.id →
    let gone (t : State) : Prop := ∀ y ∈ t.work.tbl.merges, y.id ≠ x.id
    (t4Waiting s (.load x.id) = false → Completes (.deltaPoolWaitExpire (.load x.id)) s fun t => JobEnds run .deltaPoolFull t ∧ gone t ∧
      t.mbx.result = BitVec.ofNat 2048 (loadResult x.done none) ∧ t.work.tbl.rows = s.work.tbl.rows ∧ t.mem = s.mem) ∧
    (∀ tb s1 n left, tbl? s x.handle = some tb → mergeRows x.id x.handle tb x.left x.done s = (s1, n, .ok, left) →
      s1.mbx.running = some run → Completes (.deltaPoolRoom (.load x.id)) s fun t => JobEnds run (mergeStatus x.bad) t ∧ gone t ∧
        t.mbx.result = BitVec.ofNat 2048 (loadResult n x.bad) ∧ t.work.tbl.rows = s1.work.tbl.rows ∧ t.mem = s1.mem)) ∧
  (∀ (h : Nat) (tb : Table) (s : State), s.sys.frozen = false → tbl? s h = some tb →
    (∀ r, tb.replaces.head? = some r → r.started = false →
      (workingBusy s h = true ∨ scatterBusy s h = true → exec (.loadReplaceStart h) s = .next s) ∧
      (workingBusy s h = false → scatterBusy s h = false → (∀ e ∈ s.work.upd.runs, keyHandle e.2.grad.key ≠ h) →
        Completes (.loadReplaceStart h) s fun t =>
          tbl? t h = some { tb with replaces := { r with started := true } :: tb.replaces.drop 1 } ∧ t = { s with work := t.work } ∧
          t.work = { s.work with tbl := { s.work.tbl with tables := t.work.tbl.tables } })) ∧
    (∀ r run s1 st res, tb.replaces.head? = some r → r.started = true → r.remote = none →
      (∀ x ∈ s.work.chain.relays, x.id ≠ r.id) → NoneHeld s → s.mbx.running = some run → run.wait = .tableLoad r.id →
      replaceTable h tb r s = (s1, st, res) → ∀ v, (st = .ok → throughT4 (replaceWho h) h s s1 = (true, v)) → (st ≠ .ok → v = s) →
      Completes (.loadReplaceEnd h) s fun t =>
        JobEnds run st t ∧ t.mbx.result = BitVec.ofNat 2048 res ∧ t.work.tbl.rows = v.work.tbl.rows ∧ t.mem = v.mem ∧
        (∃ tb', tbl? t h = some tb' ∧ ∃ tb1, tbl? v h = some tb1 ∧ tb' = { tb1 with replaces := tb1.replaces.drop 1 }) ∧
        (st ≠ .ok → t.work.tbl.rows = s.work.tbl.rows ∧ t.mem = s.mem ∧ ∃ tb', tbl? t h = some tb' ∧ tb'.baseStamp = tb.baseStamp)) ∧
    (tb.deleting = true → (tableBusy s h = true → exec (.tableDeleteFree h) s = .next s) ∧
      (∀ run, tableBusy s h = false → tb.deleteFor = none → (∀ x ∈ s.work.chain.relays, x.job ≠ .tableDelete h) →
        s.mbx.running = some run → run.wait = .tableDelete h → (ctxD s tb.ctx).destroying = false →
        Completes (.tableDeleteFree h) s fun t => JobEnds run .ok t ∧ tbl? t h = none ∧ (∀ i, i ≠ h → tbl? t i = tbl? s i) ∧
          (∀ k, keyHandle k = h → rowOf t k = {}) ∧ (∀ k, keyHandle k ≠ h → rowOf t k = rowOf s k) ∧ t.tasks = s.tasks)))

/-- TABLE_PUBLISH, PUBLISH, PUBLISH_CUT, TABLE_RETIRE, GENERATION_RETIRE and relays (R74 to R76, R81 to R85, R88, R89, R275, R381). -/
def Obligations.PublishesCutAndGenerationsRetire : Prop :=
  let cut (hs : List Nat) (s t : State) : Prop :=
    (∀ h tb, tbl? s h = some tb → tbl? t h = some (if h ∈ hs then
      { tb with highest := tb.highest + 1, gens := Tab.put tb.gens (tb.highest + 1) {} } else tb)) ∧
    t.work.tbl.rows = s.work.tbl.rows ∧ t.mem = s.mem ∧ t.hostMem = s.hostMem ∧
    counterVal t Ctr.publishes.index = satAdd 64 (counterVal s Ctr.publishes.index) 1
  let first (hs : List Nat) (s : State) : Nat := match hs.head? with
    | some h => ((tbl? s h).map fun tb => tb.highest + 1).getD 0
    | none => 0
  (∀ (m : MbxCall) (s : State), MbxOpen s → m.defer = false →
    let a0 := setField m.args 0 1 0
    let ctx := bits m.args 16 8
    let hs := pubTables (bits a0 0 1152)
    pubReserved (bits a0 0 1152) = false → zeroFields a0 [(1152, 896)] = true → ctxOk s m ctx = true →
    (∀ st x, pubFault s ctx hs = some (st, x) →
      (Completes (.tablePublish m) s fun t => MbxEnds m st t ∧ MbxOnly (hostWrote m.host s) t) ∧
      (Completes (.tablePublishCutNow m) s fun t => MbxEnds m st t ∧ MbxOnly (hostWrote m.host s) t)) ∧
    (pubFault s ctx hs = none → (∀ h ∈ hs, tableDevices s h = []) →
      (Completes (.tablePublish m) s fun t => MbxWaits 0x22 m (.publish s.work.tbl.nextPublish) t ∧
        t.work.tbl.publishes = s.work.tbl.publishes ++ [{ id := s.work.tbl.nextPublish, ctx := ctx, tables := hs, cutNow := false, task := none }] ∧
        t.work.tbl.tables = s.work.tbl.tables ∧ t.work.tbl.rows = s.work.tbl.rows ∧ t.mem = s.mem) ∧
      ((∀ h ∈ hs, loading s h = false) → (∀ p ∈ s.work.tbl.publishes, ∀ h ∈ p.tables, h ∉ hs) → NoneHeld s →
        Completes (.tablePublishCutNow m) s fun t => MbxEnds m .ok t ∧ t.mbx.result = BitVec.ofNat 2048 (first hs s) ∧
          cut hs (hostWrote m.host s) t ∧ t.tasks = s.tasks))) ∧
  (∀ (p : Publish) (s : State), s.sys.frozen = false → (s.work.tbl.publishes.find? fun x => decide (x.id = p.id)) = some p →
    (cutReady s p = false → exec (.publishCut p.id) s = .next s) ∧
    (cutReady s p = true → NoneHeld s → p.devices = [] → p.remote = none → p.tables.Nodup →
      (∀ r, p.task = none → s.mbx.running = some r → r.wait = .publish p.id → Completes (.publishCut p.id) s fun t =>
        JobEnds r .ok t ∧ t.mbx.result = BitVec.ofNat 2048 (first p.tables s) ∧ cut p.tables s t ∧
        (∀ x ∈ t.work.tbl.publishes, x.id ≠ p.id) ∧ t.tasks = s.tasks) ∧
      (∀ q n x, p.task = some (q, n) → task? s q n = some x → Completes (.publishCut p.id) s fun t =>
        task? t q n = some { x with effected := true, record := toBytes 64 (first p.tables s % 2 ^ 48) } ∧ cut p.tables s t))) ∧
  (∀ (q n : Nat) (x : Task) (s : State), s.sys.frozen = false → tasksRun s = true → task? s q n = some x → x.queue = q → x.seq = n →
    admissible s q n = some x → x.ttype = .publish →
    let part := ofBytes x.part
    (pubReserved part = true → Completes (.publish q n) s fun t => ∃ y, task? t q n = some y ∧ y.state = .failed ∧ y.status = .badReserved) ∧
    (pubReserved part = false → bitsOf part 16 8 = x.ctx → pubFault s x.ctx (pubTables part) = none →
      (∀ h ∈ pubTables part, tableDevices s h = []) → bitsOf part 0 1 = 0 → Completes (.publish q n) s fun t =>
        task? t q n = some { x with state := .active, admittedAt := s.clock } ∧
        t.work.tbl.publishes = s.work.tbl.publishes ++ [{ id := s.work.tbl.nextPublish, ctx := x.ctx, tables := pubTables part
                                                          cutNow := false, task := some (q, n) }] ∧
        t.work.tbl.tables = s.work.tbl.tables ∧ t.work.tbl.rows = s.work.tbl.rows ∧ t.mem = s.mem)) ∧
  (∀ (m : MbxCall) (s : State), MbxOpen s → m.defer = false →
    let a := retArgs false m
    let h := bits a 0 16
    let g := bits a 192 48
    zeroFields a [(24, 1), (26, 166), (240, 1808)] = true → ctxOk s m (bits a 16 8) = true →
    ∀ tb, liveTbl s (bits a 16 8) h = some tb → tableDevices s h = [] →
      (∀ st, retireFault tb g = some st → Completes (.tableRetire m) s fun t => MbxEnds m st t ∧ MbxOnly (hostWrote m.host s) t) ∧
      (retireFault tb g = none → readers s h g ≠ 0 → Completes (.tableRetire m) s fun t => MbxEnds m .ok t ∧
        t.mbx.result = BitVec.ofNat 2048 0 ∧ tbl? t h = some { tb with gens := Tab.put tb.gens g { released := true } } ∧
        t.work.tbl.rows = s.work.tbl.rows ∧ t.mem = s.mem) ∧
      (retireFault tb g = none → readers s h g = 0 → Completes (.tableRetire m) s fun t => MbxEnds m .ok t ∧
        t.mbx.result = BitVec.ofNat 2048 1 ∧ (∃ tb', tbl? t h = some tb' ∧ tb'.gens = Tab.del tb.gens g ∧ tb'.highest = tb.highest) ∧
        (∀ i, i ≠ h → tbl? t i = tbl? s i) ∧ t.mem = s.mem)) ∧
  (∀ (h g : Nat) (tb : Table) (x : Gen) (s : State), s.sys.frozen = false → tbl? s h = some tb → Tab.get? tb.gens g = some x →
    x.released = true → readers s h g = 0 → Completes (.generationRetire h g) s fun t =>
      (∃ tb', tbl? t h = some tb' ∧ tb'.gens = Tab.del tb.gens g ∧ tb'.highest = tb.highest) ∧ t.mem = s.mem ∧
      LastEvent t .generationRetired (packFields [(0, 16, h), (16, 8, tb.ctx), (64, 48, g)])) ∧
  (∀ (p : PeerPkt) (body : List Byte) (s : State), s.sys.frozen = false →
    let h := bitsOf (ctlHead body) 16 16
    let id := bitsOf (ctlHead body) 32 32
    (CtlTaken .relay p s body → ∀ tb, liveTbl s (pktCtx p) h = some tb →
      (bitsOf (ctlHead body) 8 8 = 4 → Completes (.publishRelay p) s fun t =>
        (∃ r, tbl? t h = some { tb with replaces := tb.replaces ++ [r] } ∧ r.remote = some (pktSrc p, id) ∧ r.started = false) ∧
        t.mem = s.mem ∧ t.work.tbl.rows = s.work.tbl.rows) ∧
      (bitsOf (ctlHead body) 8 8 = 5 → Completes (.publishRelay p) s fun t =>
        tbl? t h = some { tb with deleting := true, deleteFor := some (pktSrc p, id)
                                  gens := tb.gens.map fun g => (g.1, { g.2 with released := true }) } ∧
        t.mem = s.mem ∧ t.work.tbl.rows = s.work.tbl.rows)) ∧
    (CtlTaken .relayReport p s body → bitsOf (ctlHead body) 8 8 ≠ 1 → ∀ r run, s.work.chain.relays = [r] → r.id = id → r.localDone = true →
      r.waiting = [pktSrc p] → r.task = none → s.mbx.running = some run → run.wait = r.job → Completes (.relayReport p) s fun t =>
        JobEnds run r.status t ∧ t.mbx.result = BitVec.ofNat 2048 r.result ∧ t.work.chain.relays = [] ∧ t.work.tbl = s.work.tbl ∧
        t.mem = s.mem))

/-- ORCHARD_MAINT, CODE_TABLE_LOAD and SHARD_MAP_LOAD (R224 to R227, R245, R246, R270, R271, R277, R384). -/
def Obligations.PlacementCommandsAct : Prop :=
  (∀ (m : MbxCall) (s : State), MbxOpen s → m.defer = false →
    let refused (c : Instr) (st : Status) : Prop := Completes c s fun t => MbxEnds m st t ∧ MbxOnly (hostWrote m.host s) t
    let cleaned (k : Nat) (c : T0Copy) (t : State) : Prop :=
      rowOf t k = { rowOf s k with backing := c.bytes, t0 := some { c with dirty := false, shadow := none } }
    let dropped (k : Nat) (c : T0Copy) (t : State) : Prop :=
      (rowOf t k).t0 = none ∧ (c.dirty = true → (rowOf t k).backing = c.bytes)
    (∀ e ∈ [((1 : Nat), Instr.orchardClean m), (2, .orchardInvalidate m), (3, .orchardCleanInvalidate m), (4, .waysOn m)],
      let op := e.1
      let a := orchArgs op m
      let h := bits a 16 16
      (orchReserved a op = true → refused e.2 .badReserved) ∧
      (orchReserved a op = false → ctxOk s m (bits a 8 8) = true →
        (liveTbl s (bits a 8 8) h = none → refused e.2 .noTable) ∧
        (∀ tb, liveTbl s (bits a 8 8) h = some tb →
          (∀ st, orchFault a op tb = some st → refused e.2 st) ∧
          (orchFault a op tb = none →
            let keys := ((tableRows s h).filter fun x =>
              if op = 4 then (match x.2.t0 with
                | some c => decide (bits a 32 5 ≤ c.way)
                | none => false)
              else orchSelects a x).map Prod.fst
            let busy (k : Nat) : Prop := (rowOf s k).committing = true ∨ (rowOf s k).migrating = true ∨ (rowOf s k).leaving = true
            let written (c : T0Copy) : Prop := c.dirty = true ∧ (c.pinned = true ∨ op ≠ 2)
            let goes (c : T0Copy) : Prop := c.pinned = false ∧ op ≠ 1 ∧ (c.dirty = true → op ≠ 2)
            let ready (k : Nat) : Prop := ¬ busy k ∧ ∀ c, (rowOf s k).t0 = some c →
              (written c → rowUp s k = true) ∧ (goes c → (rowOf s k).place.tier = 1 ∨ ((rowOf s k).moving = false ∧ loadOf s k < 8))
            ((∀ k ∈ keys, ready k) → (∀ x ∈ s.work.tbl.cold, keyHandle x.1 = h → x.2.tier ≠ 4) → Completes e.2 s fun t =>
              MbxEnds m .ok t ∧ ((∀ x ∈ s.work.tbl.cold, keyHandle x.1 = h → x.2.tier ≠ 3) → t.mem = s.mem) ∧ t.tasks = s.tasks ∧
              t.work.tbl.maints = s.work.tbl.maints ∧
              (op = 4 → ∃ tb', tbl? t h = some tb' ∧ tb'.part.waysOn = bits a 32 5) ∧
              (∀ k, k ∉ keys → rowOf t k = rowOf s k) ∧
              (∀ k ∈ keys, ∀ c, (rowOf s k).t0 = some c →
                (written c → ¬ goes c → cleaned k c t) ∧
                (¬ written c → ¬ goes c → rowOf t k = rowOf s k) ∧
                (goes c → dropped k c t))) ∧
            ((∃ k ∈ keys, busy k) → Completes e.2 s fun t =>
              MbxWaits 0x25 m (.orchard s.work.tbl.nextPublish) t ∧
              (∀ k, busy k → rowOf t k = rowOf s k) ∧
              ∃ x, t.work.tbl.maints = s.work.tbl.maints ++ [x] ∧ (∀ k ∈ x.keys, k ∈ keys) ∧ ∀ k ∈ keys, busy k → k ∈ x.keys) ∧
            (∀ k c, keys = [k] → ¬ busy k → (rowOf s k).t0 = some c →
              let waits (t : State) : Prop := MbxWaits 0x25 m (.orchard s.work.tbl.nextPublish) t ∧
                ∃ x, t.work.tbl.maints = s.work.tbl.maints ++ [x] ∧ x.keys = [k]
              (written c → (rowUp s k = false ∨
                  (t4Writes s (cleanRow k s) h ≠ [] ∧ t4Wrote s (.clean k) (t4Writes s (cleanRow k s) h) = false)) →
                Completes e.2 s fun t => waits t ∧ rowOf t k = rowOf s k ∧
                  (rowUp s k = true → hostUp s = true → (t4Of s).attached = true → t4Waiting t (.clean k) = true)) ∧
              (∀ p s1, goes c → c.dirty = false → (rowOf s k).place.tier ≠ 1 → (rowOf s k).move = none → offerPlace s k = some (p, s1) →
                Completes e.2 s fun t => waits t ∧ rowOf t k = { rowOf s k with move := some { dest := .place p, leave := true } })))))) ∧
    (let a := ctArgs 0 m
     let ctx := bits a 8 8
     let slot := bits a 0 2
     let s0 := mbxIn 0x26 m a s
     let img := devRead s0 (bits a 64 56) 160
     (zeroFields a (ctUnused 0) = false → refused (.codeTableLoad m) .badReserved) ∧
     (zeroFields a (ctUnused 0) = true → ctxOk s m ctx = true → areaOk s0 (m.issuer % 256) (bits a 64 56) 160 .r .any = true →
       areaFenced s0 (bits a 64 56) 160 = none →
       (codeImageOk img = false → refused (.codeTableLoad m) .badCodeTable) ∧
       (codeImageOk img = true → ((codeSlot s ctx slot).state = .active ∨ codeRefs s ctx slot ≠ 0) →
         refused (.codeTableLoad m) .slotReferenced) ∧
       (codeImageOk img = true → (codeSlot s ctx slot).state ≠ .active → codeRefs s ctx slot = 0 →
         let act := bit a 6
         let id := ((ctxD s ctx).codeLoadId + 1) % 2 ^ 16
         Completes (.codeTableLoad m) s fun t => MbxEnds m .ok t ∧
           codeSlot t ctx slot = { state := if act then .active else .loaded, loadId := id, image := img } ∧
           (ctxD t ctx).codeLoadId = id ∧ t.work.tbl = s.work.tbl ∧ t.mem = s.mem ∧
           (∀ k, k ≠ slot → (codeSlot t ctx k).image = (codeSlot s ctx k).image ∧
             (act = true → (codeSlot t ctx k).state ≠ .active) ∧ (act = false → codeSlot t ctx k = codeSlot s ctx k)) ∧
           (act = true → s.work.chain.valid = true → coldCompress s = true → ∀ d ∈ otherDevices s,
             PeerSentLast t d 4095 10 (ctlBytes .codeNotice 1 slot (crc32c img) 0 []))))) ∧
    (let a := ctArgs 1 m
     let ctx := bits a 8 8
     let slot := bits a 0 2
     (zeroFields a (ctUnused 1) = false → refused (.codeTableRelease m) .badReserved) ∧
     (zeroFields a (ctUnused 1) = true → ctxOk s m ctx = true →
       let ended (t : State) : Prop :=
         (codeRefs t ctx slot = 0 ∧ MbxEnds m .ok t ∧ codeSlot t ctx slot = {}) ∨
           (codeRefs t ctx slot ≠ 0 ∧ MbxWaits 0x26 m (.codeRelease ctx slot) t ∧ (codeSlot t ctx slot).state ≠ .active)
       Completes (.codeTableRelease m) s fun t => ended t ∧
         (∀ k, k ≠ slot → (codeSlot t ctx k).image = (codeSlot s ctx k).image) ∧
         (∀ k, (rowOf t k).stamp = (rowOf s k).stamp ∧ (rowOf t k).place = (rowOf s k).place) ∧
         (∀ k ∈ codedPages t ctx slot, ∃ pg, Tab.get? t.work.tbl.cold k = some pg ∧ pg.shut = true) ∧
         (codedPages s ctx slot = [] → t.work.tbl = s.work.tbl ∧ t.mem = s.mem ∧
           (codeRefs s ctx slot = 0 → MbxEnds m .ok t) ∧ (codeRefs s ctx slot ≠ 0 → MbxWaits 0x26 m (.codeRelease ctx slot) t)))) ∧
    (let a := m.args
     let ctx := bits a 8 8
     let id := bits a 16 16
     let n := bits a 32 13
     let s0 := mbxIn 0x27 m a s
     let addr := bits a 64 56
     let es := smEntries s0 addr n
     let map : ShardMap :=
       { ctx := ctx, mayMove := bit a 7, eligible := bits a 48 16, users := m.users.toNat
         entries := es.map fun e => (bitsOf e 0 48, bitsOf e 48 4) }
     let here := (mapDevices map).contains (me s)
     let others := (mapDevices map).filter fun d => decide (d ≠ me s)
     let up := others.filter fun d => reachable s d
     let readable := areaOk s0 (m.issuer % 256) addr (8 * n) .r .any = true ∧ areaFenced s0 addr (8 * n) = none
     let load := Instr.shardMapLoad m
     ((zeroFields a smUnused = false ∨ id = 0xFFFF ∨ n = 0 ∨ 4096 < n) → refused load .badReserved) ∧
     (readable → smEntriesOk es = false → refused load .badReserved) ∧
     (zeroFields a smUnused = true → id ≠ 0xFFFF → n ≠ 0 → n ≤ 4096 → ctxOk s m ctx = true → readable → smEntriesOk es = true →
       ((s.work.chain.valid = false ∨ ∃ d ∈ mapDevices map, s.work.chain.size ≤ d) → refused load .notChained) ∧
       (s.work.chain.valid = true → (∀ d ∈ mapDevices map, d < s.work.chain.size) →
         let used := (Tab.has s.work.chain.maps id && mapNamed s id) = true
         let full := here = true ∧ mapsFull s id = true
         (used → refused load .mapInUse) ∧
         (¬ used → up = [] → full → refused load .mapLimit) ∧
         (¬ used → up = [] → ¬ full → others ≠ [] → refused load .chainUnreachable) ∧
         (¬ used → ¬ full → others = [] → Completes load s fun t =>
           MbxEnds m .ok t ∧ Tab.get? t.work.chain.maps id = some map ∧
           (∀ k, k ≠ id → Tab.get? t.work.chain.maps k = Tab.get? s.work.chain.maps k) ∧ t.work.tbl = s.work.tbl ∧ t.mem = s.mem) ∧
         (¬ used → up ≠ [] → Completes load s fun t =>
           MbxWaits 0x27 m (.shardMap id) t ∧ t.work.chain.maps = s.work.chain.maps ∧ t.work.tbl = s.work.tbl ∧ t.mem = s.mem ∧
           (∃ x, Tab.get? t.work.chain.installing id = some x ∧ x.map = map ∧ x.left = up ∧ x.agreed = false ∧
             (full → x.worst = 2) ∧ (¬ full → up ≠ others → x.worst = 3) ∧ (¬ full → up = others → x.worst = 0)) ∧
           ∀ d ∈ up, PeerSentLast t d 4095 8 (mapBytes id .ask map)))))) ∧
  (∀ (p : PeerPkt) (body : List Byte) (s : State), s.sys.frozen = false →
    (PeerTaken 8 p s body →
      let id := bitsOf (ofBytes (body.take 16)) 0 16
      let ctx := pktCtx p
      let map := mapOfBytes ctx body
      let op := bitsOf (ofBytes (body.take 16)) 16 2
      let old := s.work.chain
      Completes (.mapUpdate p) s fun t => t.work.tbl = s.work.tbl ∧ t.mem = s.mem ∧ t.tasks = s.tasks ∧
        (∀ k, k ≠ id → Tab.get? t.work.chain.maps k = Tab.get? old.maps k ∧ Tab.get? t.work.chain.mapsAgreed k = Tab.get? old.mapsAgreed k) ∧
        (op = 0 → Tab.get? t.work.chain.maps id =
          (match Tab.get? old.maps id with
           | some was => if was.version < map.version then some map else some was
           | none => none)) ∧
        (op = 1 → t.work.chain.maps = old.maps ∧
          (installAnswer s id ctx = 0 → Tab.get? t.work.chain.mapsAgreed id = some map) ∧
          PeerSentLast t (pktSrc p) 4095 10 (ctlBytes .mapInstalled (installAnswer s id ctx) id 0 0 [])) ∧
        (op = 2 → (∀ m, Tab.get? old.mapsAgreed id = some m → Tab.get? t.work.chain.maps id = some m ∧
            Tab.get? t.work.chain.mapsAgreed id = none ∧ PeerSentLast t (pktSrc p) 4095 10 (ctlBytes .mapInstalled 0 id 0 0 [])) ∧
          (Tab.get? old.mapsAgreed id = none → t.work.chain.maps = old.maps)) ∧
        (op = 3 → t.work.chain.maps = old.maps ∧ Tab.get? t.work.chain.mapsAgreed id = none)) ∧
    (CtlTaken .mapInstalled p s body →
      let id := bitsOf (ctlHead body) 16 16
      ∀ x run, Tab.get? s.work.chain.installing id = some x → s.mbx.running = some run → run.wait = .shardMap id → pktSrc p ∈ x.left →
      let worst := worseAnswer x.worst (bitsOf (ctlHead body) 8 8)
      let left := x.left.filter fun d => decide (d ≠ pktSrc p)
      let others := (mapDevices x.map).filter fun d => decide (d ≠ me s)
      Completes (.shardMapInstalled p) s fun t => t.work.tbl = s.work.tbl ∧
        (left ≠ [] → t.mbx = s.mbx ∧ t.work.chain.maps = s.work.chain.maps ∧
          Tab.get? t.work.chain.installing id = some { x with left := left, worst := worst }) ∧
        (left = [] → worst ≠ 0 → JobEnds run (installStatus worst) t ∧ t.work.chain.maps = s.work.chain.maps ∧
          Tab.get? t.work.chain.installing id = none ∧
          (x.agreed = false → ∀ d ∈ others, reachable s d = true → PeerSentLast t d 4095 8 (mapBytes id .forget x.map))) ∧
        (left = [] → worst = 0 → x.agreed = true → JobEnds run .ok t ∧ t.work.chain.maps = s.work.chain.maps ∧
          Tab.get? t.work.chain.installing id = none) ∧
        (left = [] → worst = 0 → x.agreed = false → t.mbx = s.mbx ∧
          Tab.get? t.work.chain.maps id =
            (if (mapDevices x.map).contains (me s) then some x.map else Tab.get? s.work.chain.maps id) ∧
          Tab.get? t.work.chain.installing id = some { x with left := others, worst := 0, agreed := true } ∧
          ∀ d ∈ others, reachable s d = true → PeerSentLast t d 4095 8 (mapBytes id .install x.map))))

/-- T4_ATTACH, AGENT_COMPLETION_DOORBELL and T4_TIMEOUT (R250 to R252, R385). -/
def Obligations.HostAgentServesT4 : Prop :=
  (∀ (m : MbxCall) (s : State), MbxOpen s → m.defer = false →
    let a := m.args
    let s0 := mbxIn 0x32 m a s
    let cap := bits a 288 48
    let refused (st : Status) : Prop := Completes (.t4Attach m) s fun t => MbxEnds m st t ∧ MbxOnly (hostWrote m.host s) t
    (t4Reserved a = true → refused .badReserved) ∧
    (t4Reserved a = false → Tab.has s.ctxs (m.issuer % 256) = false → refused .badContext) ∧
    (t4Reserved a = false → Tab.has s.ctxs (m.issuer % 256) = true →
      (t4AreasOk s (m.issuer % 256) a = false → refused .badAddress) ∧
      (t4AreasOk s (m.issuer % 256) a = true → Tab.has s.queues (bits a 26 10) = true → refused .queueExists) ∧
      (t4AreasOk s (m.issuer % 256) a = true → Tab.has s.queues (bits a 26 10) = false →
        (cap ≠ 0 → cap < t4Used s → refused .noCapacity) ∧
        (cap ≠ 0 → t4Used s ≤ cap → Completes (.t4Attach m) s fun t => MbxEnds m .ok t ∧
          t4Of t = { t4Of s with
            attached := true, ctx := m.issuer % 256, ringLog2 := bits a 0 4, vector := bits a 16 10, page := bits a 26 10
            reqAddr := bits a 64 56, cplAddr := bits a 128 56, bounce := bits a 192 56, buffers := bits a 256 16, capacity := cap
            timeoutMs := bits a 352 14, taken := 0 } ∧
          t.mem = s.mem ∧ t.work.tbl.rows = s.work.tbl.rows ∧ t.tasks = s.tasks) ∧
        (cap = 0 → (∃ e ∈ s.ranges, e.2.kind = .flash) → refused .noCapacity) ∧
        (cap = 0 → (∀ e ∈ s.ranges, e.2.kind ≠ .flash) →
          let inT4 (p : Place) : Prop := p.tier = 4
          let apart (e : Nat × Row) : Prop := ∀ d ∈ e.2.deltas, ¬ inT4 d.place
          ((∀ e ∈ s.work.tbl.rows, (∀ p ∈ e.2.places, ¬ inT4 p) ∧ apart e) → Completes (.t4Attach m) s fun t =>
            MbxEnds m .ok t ∧ t4Of t = { nextSeq := (t4Of s).nextSeq } ∧ t.work.tbl.rows = s.work.tbl.rows ∧ t.mem = s.mem ∧
            ∀ e ∈ t.work.upd.runs, e.2.phase ≠ .t4Wait) ∧
          (∀ k r tb mv, (k, r) ∈ s.work.tbl.rows → rowOf s k = r → tbl? s (keyHandle k) = some tb → inT4 r.place → r.move = some mv →
            (∀ p, r.target = some p → ¬ inT4 p) → Completes (.t4Attach m) s fun t =>
              MbxWaits 0x32 m (.placing s.work.tbl.nextPublish) t ∧ (t4Of t).attached = (t4Of s).attached ∧
              t.work.tbl.pending = s.work.tbl.pending ++ [{ job := .placing s.work.tbl.nextPublish, kind := .detach }]) ∧
          ((∀ e ∈ s.work.tbl.rows, apart e ∧ (rowOf s e.1).move = none ∧ moveReady s e.1 = false) →
            (∃ e ∈ s.work.tbl.rows, (tbl? s (keyHandle e.1)).isSome = true ∧ inT4 (rowOf s e.1).place) → Completes (.t4Attach m) s fun t =>
              MbxEnds m .noCapacity t ∧ t4Of t = t4Of s ∧ t.work.tbl.rows = s.work.tbl.rows ∧ t.mem = s.mem))))) ∧
  (∀ (n : Word32) (host : List Host.Cell) (s : State), s.sys.frozen = false →
    let k := (n - (t4Of s).taken).toNat
    let s0 := hostWrote host s
    let e := devNat s0 ((t4Of s).cplAddr + 16 * ((t4Of s).taken.toNat % 2 ^ (t4Of s).ringLog2)) 16
    let seq := bitsOf e 0 32
    let st := bitsOf e 32 8
    let bell := Instr.agentCompletionDoorbell n host
    ((t4Of s).attached = false ∨ hostUp s = false ∨ 2 ^ (t4Of s).ringLog2 < k → exec bell s = .next s) ∧
    ((t4Of s).attached = true → hostUp s = true → k ≤ 2 ^ (t4Of s).ringLog2 → s.work.tbl.pending = [] → Completes bell s fun t =>
      (t4Of t).taken = n) ∧
    ((t4Of s).attached = true → hostUp s = true → k = 1 →
      ((Tab.get? (t4Of s).outstanding seq = none ∨ 2 < st) → Completes bell s fun t =>
        counterVal t Ctr.t4BadCompletions.index = satAdd 64 (counterVal s Ctr.t4BadCompletions.index) 1 ∧
        t = { s0 with counters := t.counters, work := { s0.work with tbl := { s0.work.tbl with
                t4 := { (t4Of s) with taken := n } } } }) ∧
      (∀ who b page data, Tab.get? (t4Of s).outstanding seq = some (who, b, page, data) → (t4Of s).waiting = [] →
        let alone := (Tab.del (t4Of s).outstanding seq).any (fun x => decide (x.2.1 = who)) = false
        (st = 0 →
          (∀ q i key pk pg raw, who = .read (tid q i) key → q < 2 ^ 32 → i < 2 ^ 32 → isActive s q i = true → data = [] →
            pageInT4 s page = some (pk, pg) →
            openBlock s (keyHandle pk) (keyIndex pk) pg (devRead s0 ((t4Of s).bounce + 4096 * b) (t4Length s page)) = some raw →
            Completes bell s fun t =>
              (page, raw) ∈ t4Got t who ∧ (t4Of t).outstanding = Tab.del (t4Of s).outstanding seq ∧
              t.work.tbl.rows = s.work.tbl.rows ∧ t.tasks = s.tasks ∧ t.mem = s0.mem) ∧
          (∀ core r, who = .commit core → data ≠ [] → alone → Tab.get? s.work.upd.runs core = some r → r.phase = .t4Wait →
            Completes bell s fun t => (page, data) ∈ t4Got t who ∧
              Tab.get? t.work.upd.runs core = some { r with phase := .t4Done } ∧ t.tasks = s.tasks ∧ t.mem = s0.mem)) ∧
        ((st = 1 ∨ st = 2) →
          (∀ q i key x pk pg, who = .read (tid q i) key → q < 2 ^ 32 → i < 2 ^ 32 → data = [] → pageInT4 s page = some (pk, pg) →
            keyHandle pk = keyHandle key → keyIndex pk ∈ (rowOf s key).place.pages (placedOf s key) → (rowOf s key).t0 = none →
            (rowOf s key).chain = 0 → (key, rowOf s key) ∈ s.work.tbl.rows →
            task? s q i = some x → x.queue = q → x.seq = i → x.state = .active →
            Completes bell s fun t =>
              (∃ y, task? t q i = some y ∧ y.state = .failed ∧ y.status = .dataLost) ∧ (rowOf t key).fenced = true ∧
              ∀ o ∈ (t4Of t).outstanding, o.2.1 ≠ who) ∧
          (∀ core r x, who = .commit core → data ≠ [] → Tab.get? s.work.upd.runs core = some r → r.phase = .t4Wait →
            task? s r.queue r.seq = some x → x.queue = r.queue → x.seq = r.seq → x.state = .active → Completes bell s fun t =>
              Tab.get? t.work.upd.runs core = none ∧
              ∃ y, task? t r.queue r.seq = some y ∧ y.state = .failed ∧ y.status = .tierUnavailable) ∧
          (∀ key mv, who = .move key → data ≠ [] → (rowOf s key).move = some mv → mv.switched = false → s.work.tbl.pending = [] →
            s.faults.retiring = [] → Completes bell s fun t => (rowOf t key).move = none ∧ ∀ i, i ≠ key → rowOf t i = rowOf s i))))) ∧
  (∀ (seq : Nat) (s : State), s.sys.frozen = false →
    (Tab.get? (t4Of s).outstanding seq = none → exec (.t4Timeout seq) s = .next s) ∧
    (∀ who b page data, Tab.get? (t4Of s).outstanding seq = some (who, b, page, data) →
      let left (t : State) : Prop := Tab.get? (t4Of t).outstanding seq = some (.stale, b, page, data) ∧
        ∀ o ∈ (t4Of t).outstanding, o.2.1 = who → who = .stale
      (who = .stale → exec (.t4Timeout seq) s = .next s) ∧
      (∀ q i key x, who = .read (tid q i) key → q < 2 ^ 32 → i < 2 ^ 32 → task? s q i = some x → x.queue = q → x.seq = i →
        x.state = .active → Completes (.t4Timeout seq) s fun t => left t ∧
          (∃ y, task? t q i = some y ∧ y.state = .failed ∧ y.status = .tierUnavailable) ∧ t.work.tbl.rows = s.work.tbl.rows) ∧
      (∀ core r x, who = .commit core → data ≠ [] → Tab.get? s.work.upd.runs core = some r → r.phase = .t4Wait → NoneHeld s →
        s.work.tbl.maints = [] → task? s r.queue r.seq = some x → x.queue = r.queue → x.seq = r.seq → x.state = .active →
        Completes (.t4Timeout seq) s fun t => left t ∧ Tab.get? t.work.upd.runs core = none ∧
          (rowOf t r.grad.key).committing = false ∧ (rowOf t r.grad.key).backing = (rowOf s r.grad.key).backing ∧
          ∃ y, task? t r.queue r.seq = some y ∧ y.state = .failed ∧ y.status = .tierUnavailable) ∧
      (∀ key mv, who = .move key → (rowOf s key).move = some mv → mv.switched = false → s.work.tbl.pending = [] →
        s.faults.retiring = [] → Completes (.t4Timeout seq) s fun t => rowOf t key = { rowOf s key with move := none } ∧
          (∀ i, i ≠ key → rowOf t i = rowOf s i) ∧ t.tasks = s.tasks ∧
          counterVal t Ctr.driftMovesAbandoned.index = satAdd 64 (counterVal s Ctr.driftMovesAbandoned.index) 1) ∧
      (∀ id x, who = .transfer id → Tab.get? s.streams.transfers id = some x → Completes (.t4Timeout seq) s fun t => left t ∧
        Tab.get? t.streams.transfers id = some { x with lost := some true } ∧ t.tasks = s.tasks ∧ t.mem = s.mem) ∧
      (∀ page, who = .free page → Completes (.t4Timeout seq) s fun t => left t ∧ t = { s with work := t.work } ∧
        t.work = { s.work with tbl := { s.work.tbl with t4 := (t4Of t) } })))

/-- Drift, moves and partition sizes (R219, R232 to R239, R277). -/
def Obligations.DriftMovesRows : Prop :=
  ∀ (s : State), s.sys.frozen = false →
    let calm : Prop := s.work.tbl.maints = [] ∧ s.work.tbl.pending = [] ∧ s.faults.retiring = [] ∧ s.work.tbl.swaps = []
    (∀ cycles, Completes (.driftEpoch cycles) s fun t =>
      t.work.tbl.loads = (s.work.tbl.loads.map fun e => (e.1, e.2 / 2)).filter (fun e => decide (0 < e.2)) ∧
      t.work.chain.maps = s.work.chain.maps ∧
      (calm → (∀ e ∈ s.ctxs, e.2.oldKey = none) → releasing s = [] → (∀ e ∈ s.work.tbl.rows, e.2.t0 = none) →
        (∀ e ∈ s.work.tbl.tables, tdMode e.2.desc ≠ 1) → t.tasks = s.tasks ∧
        (∀ k, (rowOf t k).stamp = (rowOf s k).stamp ∧ (rowOf t k).place = (rowOf s k).place ∧ (rowOf t k).t0 = none ∧
          (rowOf t k).chain = (rowOf s k).chain ∧ (rowOf t k).committing = (rowOf s k).committing) ∧
        (∀ k, (rowOf s k).move ≠ none → (rowOf t k).move = (rowOf s k).move ∨ (rowOf t k).fenced = true) ∧
        (∀ k, (rowOf s k).move = none → (rowOf t k).move ≠ none →
          (rowOf s k).written = true ∧ (rowOf s k).fenced = false ∧
            ∃ d, (rowOf t k).move = some { dest := d } ∧
              (∀ a, d = .device a → reachable s a = true) ∧ (∀ p, d = .place p → p.tier ≠ 0 ∧ p.tier ≤ 4)))) ∧
    ((∀ e ∈ s.work.tbl.tables, tdMode e.2.desc ≠ 0 ∨ s.work.tbl.loads = []) → exec .partitionResize s = .next s) ∧
    (∀ h tb, (s.work.tbl.tables.filter fun e => decide (tdMode e.2.desc = 0)) = [(h, tb)] → tbl? s h = some tb → tableLoad s h ≠ 0 →
      let holds := tb.part.nsets * tdWays tb.desc * footprint (shapeOf tb.desc)
      let target := cacheSpace s * tableLoad s h / tableLoad s h
      let twice := max 1 (2 * tb.part.nsets)
      let sets (n : Nat) (t : State) : Prop := (∃ tb', tbl? t h = some tb' ∧ tb'.part.nsets = n ∧ tb'.desc = tb.desc ∧
          tb'.gens = tb.gens) ∧ t.tasks = s.tasks ∧ t.work.tbl.loads = s.work.tbl.loads ∧
        (∀ k, keyHandle k ≠ h → rowOf t k = rowOf s k) ∧
        ∀ k, (rowOf t k).deltas = (rowOf s k).deltas ∧ (rowOf t k).fenced = (rowOf s k).fenced ∧
          ((rowOf s k).t0 = none → rowOf t k = rowOf s k)
      let takes (n : Nat) : Prop :=
        ((partOf s h tb.desc n tb.part).isSome = true → Completes .partitionResize s (sets n)) ∧
        (partOf s h tb.desc n tb.part = none → exec .partitionResize s = .next s)
      (2 * target < holds → tb.part.nsets ≤ 1 → exec .partitionResize s = .next s) ∧
      (2 * target < holds → 1 < tb.part.nsets → takes (tb.part.nsets / 2)) ∧
      (holds ≤ 2 * target → 2 * holds < target → belowLimit (twice * tdWays tb.desc - 1) (tdLimit tb.desc 0) = true → takes twice) ∧
      (holds ≤ 2 * target → (target ≤ 2 * holds ∨ belowLimit (twice * tdWays tb.desc - 1) (tdLimit tb.desc 0) = false) →
        exec .partitionResize s = .next s)) ∧
    (∀ handle row,
      let key := mkKey handle row
      let r := rowOf s key
      let only (t : State) : Prop := (∀ k, k ≠ key → rowOf t k = rowOf s k) ∧ t.tasks = s.tasks
      let counted (c : Ctr) (t : State) : Prop := counterVal t c.index = satAdd 64 (counterVal s c.index) 1
      let abandoned (t : State) : Prop := only t ∧ rowOf t key = { r with move := none, backing := (rowOf t key).backing } ∧
        counted .driftMovesAbandoned t
      (r.move = none → exec (.moveCopyDone handle row) s = .next s ∧ exec (.moveSwitch handle row) s = .next s ∧
        exec (.moveSourceFree handle row) s = .next s) ∧
      (∀ m, r.move = some m →
        ((m.switched = true ∨ m.copied = true) → exec (.moveCopyDone handle row) s = .next s) ∧
        (m.switched = false → m.copied = false → destUp s key m.dest = false → calm → Completes (.moveCopyDone handle row) s abandoned) ∧
        (m.switched = false → m.copied = false → destUp s key m.dest = true →
          (∀ s1, copyStep key m.dest s = (false, s1) → exec (.moveCopyDone handle row) s = .next s1) ∧
          (∀ s1, copyStep key m.dest s = (true, s1) →
            (m.recopy = false → Completes (.moveCopyDone handle row) s fun t => only t ∧ t.mem = s.mem ∧
              rowOf t key = { r with move := some { m with copied := true }, backing := (rowOf t key).backing } ∧
              ((r.t0 ≠ none ∨ r.place.tier ≤ 1) → (rowOf t key).backing = r.backing)) ∧
            (m.recopy = true → 2 ≤ m.recopies → calm → Completes (.moveCopyDone handle row) s abandoned) ∧
            (m.recopy = true → m.recopies < 2 → Completes (.moveCopyDone handle row) s fun t =>
              (rowOf t key).move = some { m with recopy := false, recopies := m.recopies + 1 } ∨ (rowOf t key).fenced = true))) ∧
        ((m.switched = true ∨ m.copied = false ∨ m.recopy = true ∨ r.committing = true) →
          exec (.moveSwitch handle row) s = .next s) ∧
        (m.switched = false → m.copied = true → m.recopy = false → r.committing = false → calm →
          (destUp s key m.dest = false → Completes (.moveSwitch handle row) s abandoned) ∧
          (destUp s key m.dest = true →
            (∀ p, m.dest = .place p →
              let ws := t4Writes s (switchPlace key m p s) handle
              ((ws = [] ∨ t4Wrote s (.move key) ws = true) → Completes (.moveSwitch handle row) s fun t => only t ∧ counted .driftMoves t ∧
                (p.tier ≠ 3 → (∀ e ∈ s.work.tbl.cold, e.2.tier ≠ 3) → t.mem = s.mem) ∧
                rowOf t key = { r with
                  place := p, backing := r.bytes, move := some { m with switched := true, oldPlace := some r.place }
                  t0 := if m.leave then none else r.t0.map fun c => { c with dirty := false, shadow := none } }) ∧
              (ws ≠ [] → t4Wrote s (.move key) ws = false → Completes (.moveSwitch handle row) s fun t => only t ∧
                rowOf t key = { r with move := some { m with copied := false } })) ∧
            (∀ cl core line, m.dest = .cluster cl core line →
              (r.t0 = none → Completes (.moveSwitch handle row) s abandoned) ∧
              (∀ c, r.t0 = some c → switchRoom s key cl line c = false → exec (.moveSwitch handle row) s = .next s) ∧
              (∀ c, r.t0 = some c → switchRoom s key cl line c = true → Completes (.moveSwitch handle row) s fun t => only t ∧
                counted .driftMoves t ∧ t.mem = s.mem ∧ ∃ sh, rowOf t key = { r with
                  t0 := some { c with cluster := cl, core := core, line := line, shadow := sh }
                  move := some { m with switched := true, oldCore := some (c.cluster * 2048 + c.core) } } ∧ (c.shadow = none → sh = none))) ∧
            (∀ a, m.dest = .device a → ownerReduce s (tdCtxOf s handle) = true → exec (.moveSwitch handle row) s = .next s) ∧
            (∀ a, m.dest = .device a → ownerReduce s (tdCtxOf s handle) = false →
              let gone := { r with place := { tier := 5 }, backing := r.bytes, t0 := none, chain := a + 1
                                   move := some { m with switched := true, oldPlace := some r.place } }
              let s1 := updRow key (fun _ => gone) s
              (shardMoved s1 key a = false → Completes (.moveSwitch handle row) s fun t => only t ∧ counted .driftMoves t ∧
                rowOf t key = gone ∧ t.work.chain = s.work.chain) ∧
              (∀ tb mp, shardMoved s1 key a = true → tbl? s handle = some tb → handle < 2 ^ 16 → row < 2 ^ 48 →
                Tab.get? s.work.chain.maps (tdShardMap tb.desc) = some mp →
                let all := (mapShardRows s1 (tdShardMap tb.desc) (row / 4096)).map Prod.fst
                Completes (.moveSwitch handle row) s fun t =>
                  counted .driftMoves t ∧ (∀ k ∈ all, rowOf t k = {}) ∧ (∀ k, k ∉ all → rowOf t k = rowOf s1 k) ∧ t.tasks = s.tasks ∧
                  Tab.get? t.work.chain.maps (tdShardMap tb.desc) = some (splitMap mp row a) ∧
                  ∀ d ∈ mapDevices mp, d ≠ me s →
                    PeerSentLast t d 4095 8 (mapBytes (tdShardMap tb.desc) .newer (splitMap mp row a)))))) ∧
        (m.switched = false → exec (.moveSourceFree handle row) s = .next s) ∧
        (m.switched = true → calm → Completes (.moveSourceFree handle row) s fun t => only t ∧ rowOf t key = { r with move := none }))) ∧
    (∀ (p : PeerPkt) (body : List Byte),
      (PeerTaken 7 p s body →
        let head := ofBytes (body.take 16)
        let key := bitsOf head 0 64
        (pktLast p = false → Completes (.movePkt p) s fun t => t.work.tbl = s.work.tbl ∧ t.tasks = s.tasks ∧
          Tab.get? t.work.chain.movesIn (pktSrc p) = some (match Tab.get? s.work.chain.movesIn (pktSrc p) with
            | some was => was ++ body.drop 16
            | none => body)) ∧
        (pktLast p = true → Tab.get? s.work.chain.movesIn (pktSrc p) = none →
          (tbl? s (keyHandle key) = none → Completes (.movePkt p) s fun t => t.work.tbl = s.work.tbl ∧ t.tasks = s.tasks) ∧
          (∀ tb, tbl? s (keyHandle key) = some tb → bitsOf head 112 16 = 0 →
            let sh := shapeOf tb.desc
            let s0 := updRow key (fun r => { r with deltas := [] }) (pktAccept p s)
            let put (pl : Place) (t : State) : Prop := (∀ k, k ≠ key → rowOf t k = rowOf s k) ∧ t.tasks = s.tasks ∧
              (pl.tier = 1 → t.mem = s.mem) ∧
              rowOf t key = { rowOf s key with
                place := pl, backing := sliceBytes body 16 (footprint sh), stamp := bitsOf head 64 48, deltas := [], t0 := none, chain := 0 }
            ((rowOf s key).written = true → Completes (.movePkt p) s (put (rowOf s key).place)) ∧
            (∀ pl s1, (rowOf s key).written = false → choosePlace s0 key tb (tiersOf s tb) = some (pl, s1) →
              Completes (.movePkt p) s (put pl)) ∧
            ((rowOf s key).written = false → choosePlace s0 key tb (tiersOf s tb) = none →
              Completes (.movePkt p) s fun t => t.work.tbl = s.work.tbl ∧ t.tasks = s.tasks)) ∧
          (∀ tb, tbl? s (keyHandle key) = some tb → (rowOf s key).written = true → Completes (.movePkt p) s fun t =>
            let ds := moveDeltas (dataBytes (shapeOf tb.desc)) (body.drop (16 + roundup16 (footprint (shapeOf tb.desc)))) (bitsOf head 112 16)
            t.work.tbl = s.work.tbl ∨
              ((rowOf t key).deltas.map (fun d => { d with place := {} }) = ds ∧ (rowOf t key).stamp = bitsOf head 64 48)))) ∧
      (CtlTaken .loadReport p s body → Completes (.loadReport p) s fun t =>
        Tab.get? t.work.chain.loads (pktSrc p) = some (bitsOf (ctlHead body) 64 64, roomsOf (body.drop 16)) ∧
        (∀ d, d ≠ pktSrc p → Tab.get? t.work.chain.loads d = Tab.get? s.work.chain.loads d) ∧
        t.work.tbl = s.work.tbl ∧ t.tasks = s.tasks))

/-- RANGE_MAP with MAP, UNMAP and PROTECT, and PAGE_RESOLVE (R329 to R332, R343 to R346). -/
def Obligations.RangesAreMapped : Prop :=
  (∀ (m : MbxCall) (s : State), MbxOpen s → m.defer = false →
    let refused (c : Instr) (st : Status) : Prop := Completes c s fun t => MbxEnds m st t ∧ MbxOnly (hostWrote m.host s) t
    (∀ remoteOk : Bool,
      let a := rmArgs 1 m
      let s0 := mbxIn 0x30 m a s
      let base := rmBase a
      let n := rmLen a
      let no (st : Status) : Prop := refused (.rangeMap m remoteOk) st
      (RangeKind.ofCode (bits a 4 3) = none → no .badReserved) ∧
      (∀ k, RangeKind.ofCode (bits a 4 3) = some k →
        (mapReserved a k = true → no .badReserved) ∧
        (mapReserved a k = false → ctxOk s m (rmCtx a) = true →
          ((base % 4096 ≠ 0 ∨ n % 4096 ≠ 0) → no .badAlign) ∧
          (base % 4096 = 0 → n % 4096 = 0 → ¬(k = .host ∧ bits a 192 64 % 4096 ≠ 0) →
            (inRegion s k base n = false → no .badRegion) ∧
            (inRegion s k base n = true → bit a 22 = true → s.ats.pasidEnabled = false → no .badPasid) ∧
            (inRegion s k base n = true → (bit a 22 = true → s.ats.pasidEnabled = true) →
              let here := decide (k ≠ .peer) || (s.work.chain.valid && decide (bits a 44 4 ≠ s.work.chain.addr) &&
                decide (bits a 44 4 < s.work.chain.size))
              (here = false → no .notChained) ∧
              (here = true → (∃ e ∈ rangesHeld s, meets e.1 e.2 base n = true) → no .rangeOverlap) ∧
              (here = true → (∀ e ∈ rangesHeld s, meets e.1 e.2 base n = false) →
                (65536 ≤ (rangesHeld s).length → no .rangeLimit) ∧
                ((rangesHeld s).length < 65536 → k = .peer → remoteOk = false → no .windowRefused) ∧
                ((rangesHeld s).length < 65536 → (k = .peer → remoteOk = true) →
                  let g : Range :=
                    { kind := k, ctx := rmCtx a, r := bit a 16, w := bit a 17, a := bit a 18, pinned := bit a 19, tierPool := bit a 20
                      migratable := bit a 21, pasidValid := bit a 22, pasid := bits a 24 20, chainAddr := bits a 44 4
                      windowId := bits a 48 12, len := n, hostStart := bits a 192 64 }
                  let zero (t : State) : Prop := memWf s = true → ∀ b, cellGet 0 t.mem b =
                    if base ≤ b ∧ b < base + n then 0 else cellGet 0 s.mem b
                  ((k = .host ∨ k = .peer) → Completes (.rangeMap m remoteOk) s fun t => MbxEnds m .ok t ∧
                    t.ranges = Tab.put s.ranges base g ∧ t.mem = s.mem ∧ t.work = s.work ∧ t.tasks = s.tasks) ∧
                  (k = .flash → ((t4Of s).attached = false ∨ poolRoom s 4 n = false ∨ fitTier s 4 n 4096 = none) → no .noCapacity) ∧
                  (∀ p, k = .flash → (t4Of s).attached = true → poolRoom s 4 n = true → fitTier s 4 n 4096 = some p →
                    Completes (.rangeMap m remoteOk) s fun t => MbxEnds m .ok t ∧ t.ranges = Tab.put s.ranges base { g with hostStart := p } ∧
                      zero t ∧ t.work = s.work ∧ t.tasks = s.tasks) ∧
                  (k = .stack → reachesSlice s base n = true → no .noCapacity) ∧
                  ((k = .stack ∧ reachesSlice s base n = false ∨ k = .expander) →
                    let tier := if k = .stack then 1 else 2
                    let x : Pending := { job := .placing s.work.tbl.nextPublish, kind := .map base g }
                    let s1 := updTables (fun w => { w with pending := w.pending ++ [x], nextPublish := w.nextPublish + 1 }) s0
                    let there (e : Nat × Row) (p : Place) : Bool := placeMeets s e.1 tier base n p
                    let bare : Prop := ∀ y ∈ allPages s, meets y.2.2 4096 base n = false
                    (∀ s2, stepPending (.map base g) s1 = (none, s2) → Completes (.rangeMap m remoteOk) s fun t =>
                      MbxWaits 0x30 m x.job t ∧ x ∈ t.work.tbl.pending ∧ t.work.tbl.rows = s2.work.tbl.rows) ∧
                    (∀ st s2, stepPending (.map base g) s1 = (some st, s2) → Completes (.rangeMap m remoteOk) s fun t =>
                      MbxEnds m st t ∧ t.ranges = s2.ranges ∧ t.mem = s2.mem ∧ t.work.tbl.rows = s2.work.tbl.rows) ∧
                    ((∀ e ∈ s.work.tbl.rows, (∀ p ∈ (rowOf s e.1).places, there e p = false) ∧ ∀ d ∈ (rowOf s e.1).deltas, there e d.place = false) →
                      bare → poolUsed s1 tier ≤ poolBytes s1 tier → Completes (.rangeMap m remoteOk) s fun t => MbxEnds m .ok t ∧
                        t.ranges = Tab.put s.ranges base g ∧ zero t ∧ t.work.tbl.rows = s.work.tbl.rows ∧ t.tasks = s.tasks) ∧
                    ((∀ e ∈ s.work.tbl.rows, (rowOf s e.1).move = none ∧ moveReady s e.1 = false ∧ ∀ d ∈ (rowOf s e.1).deltas, there e d.place = false) →
                      bare → (∃ e ∈ s.work.tbl.rows, (tbl? s (keyHandle e.1)).isSome = true ∧ there e (rowOf s e.1).place = true) →
                      Completes (.rangeMap m remoteOk) s fun t => MbxEnds m .noCapacity t ∧
                        t.ranges = s.ranges ∧ t.mem = s.mem ∧ t.work.tbl.rows = s.work.tbl.rows ∧ t.tasks = s.tasks))))))))) ∧
    (let a := rmArgs 2 m
     (zeroFields a (rmReserved ++ unmapUnused ++ [(16, 3)]) = false → refused (.rangeUnmap m) .badReserved) ∧
     (zeroFields a (rmReserved ++ unmapUnused ++ [(16, 3)]) = true → ctxOk s m (rmCtx a) = true →
       (rmBase a % 4096 ≠ 0 → refused (.rangeUnmap m) .badAlign) ∧
       (rmBase a % 4096 = 0 → namedRange s (rmCtx a) (rmBase a) = none → refused (.rangeUnmap m) .noRange) ∧
       (∀ g, rmBase a % 4096 = 0 → namedRange s (rmCtx a) (rmBase a) = some g → Completes (.rangeUnmap m) s fun t =>
         MbxWaits 0x30 m (.unmap (rmBase a)) t ∧ t.ranges = Tab.put s.ranges (rmBase a) { g with unmapping := true } ∧
         t = { hostWrote m.host s with mbx := t.mbx, ranges := t.ranges }))) ∧
    (let a := rmArgs 3 m
     let named := namedRange s (rmCtx a) (rmBase a)
     (zeroFields a (rmReserved ++ unmapUnused) = false → refused (.rangeProtect m) .badReserved) ∧
     (∀ g, zeroFields a (rmReserved ++ unmapUnused) = true → named = some g → rmRights a = true → g.tierPool = true →
       refused (.rangeProtect m) .badReserved) ∧
     (zeroFields a (rmReserved ++ unmapUnused) = true → ctxOk s m (rmCtx a) = true → rmBase a % 4096 = 0 →
       (named = none → refused (.rangeProtect m) .noRange) ∧
       (∀ g, named = some g → (rmRights a = true → g.tierPool = false) → Completes (.rangeProtect m) s fun t => MbxEnds m .ok t ∧
         t.ranges = Tab.put s.ranges (rmBase a) { g with r := bit a 16, w := bit a 17, a := bit a 18 } ∧
         MbxOnly { hostWrote m.host s with ranges := t.ranges } t))) ∧
    (let a := prArgs 1 m
     let tag := bits a 16 16
     let s0 := mbxIn 0x31 m a s
     (zeroFields a (prReserved ++ [(32, 8), (64, 56), (128, 48)]) = false → refused (.migrateIn m) .badReserved) ∧
     (zeroFields a (prReserved ++ [(32, 8), (64, 56), (128, 48)]) = true →
       (migrateEntry s tag = none → refused (.migrateIn m) .noFault) ∧
       (∀ e, migrateEntry s tag = some e →
         (freePage s = none → refused (.migrateIn m) .noCapacity) ∧
         (∀ p g, freePage s = some p → Tab.get? s.ranges e.space = some g → Completes (.migrateIn m) s fun t =>
           MbxEnds m .ok t ∧ t.tasks = s.tasks ∧ t.work = s.work ∧ t.hostMem = s0.hostMem ∧
           t.ranges = Tab.put s.ranges e.space { g with devicePages := Tab.put g.devicePages e.hostPage p } ∧
           (memWf s = true → (∀ i, i < 4096 → cellGet 0 t.mem (p + i) =
             cellGet 0 s0.hostMem (hostKey g.pasidValid g.pasid (g.hostStart + 4096 * e.hostPage) + i)) ∧
             ∀ b, (b < p ∨ p + 4096 ≤ b) → cellGet 0 t.mem b = cellGet 0 s.mem b) ∧
           (∀ id ∈ e.waiters, ∀ tr, transfer? s id = some tr →
             transfer? t id = some { tr with stalled := false }) ∧
           (∀ id, id ∉ e.waiters → transfer? t id = transfer? s id) ∧
           (∀ k x, Tab.get? t.ats.outFaults k = some x → x.waiters ≠ []))))) ∧
    (let a := prArgs 2 m
     let tag := bits a 16 16
     (zeroFields a (prReserved ++ [(32, 8), (64, 56), (128, 48)]) = false → refused (.pageResolveFail m) .badReserved) ∧
     (zeroFields a (prReserved ++ [(32, 8), (64, 56), (128, 48)]) = true →
       (migrateEntry s tag = none → refused (.pageResolveFail m) .noFault) ∧
       (∀ e, migrateEntry s tag = some e → Completes (.pageResolveFail m) s fun t => MbxEnds m .ok t ∧ t.ranges = s.ranges ∧
         t.mem = s.mem ∧ ∀ id ∈ e.waiters, ∀ tr x, transfer? s id = some tr → task? s tr.queue tr.seq = some x → x.queue = tr.queue →
           x.seq = tr.seq → x.state = .active →
           ∃ y, task? t tr.queue tr.seq = some y ∧ y.state = .aborted ∧ y.status = .streamFault))) ∧
    (let a := prArgs 3 m
     let addr := bits a 64 56
     let n := bits a 128 48
     let bad := !zeroFields a (prReserved ++ [(16, 16)]) || decide (addr % 4096 ≠ 0) || decide (n % 4096 ≠ 0) || decide (n = 0)
     (bad = true → refused (.migrateOut m) .badReserved) ∧
     (bad = false → ctxOk s m (bits a 32 8) = true →
       (ctxRange s (bits a 32 8) addr n = none → refused (.migrateOut m) .noRange) ∧
       (∀ base g, ctxRange s (bits a 32 8) addr n = some (base, g) →
         (g.migratable = false → refused (.migrateOut m) .noRange) ∧
         (g.migratable = true → areaQuiet s addr n = false → Completes (.migrateOut m) s fun t =>
           MbxWaits 0x31 m (.migrateOut addr n) t ∧ t = { hostWrote m.host s with mbx := t.mbx }) ∧
         (g.migratable = true → areaQuiet s addr n = true → Tab.get? s.ranges base = some g → Completes (.migrateOut m) s fun t =>
           let gone (p : Nat × Nat) : Bool := decide ((addr - base) / 4096 ≤ p.1) && decide (p.1 < (addr + n - base) / 4096)
           MbxEnds m .ok t ∧ t.tasks = s.tasks ∧ t.work = s.work ∧
           t.ranges = Tab.put s.ranges base { g with devicePages := g.devicePages.filter fun p => !gone p } ∧
           (∀ p, g.devicePages.filter gone = [p] → memWf s = true → ∀ i, i < 4096 →
             cellGet 0 t.hostMem (hostKey g.pasidValid g.pasid (g.hostStart + 4096 * p.1) + i) = cellGet 0 s.mem (p.2 + i) ∧
             cellGet 0 t.mem (p.2 + i) = 0)))))) ∧
  (∀ (base : Nat) (g : Range) (s : State), s.sys.frozen = false →
    (Tab.get? s.ranges base = none → exec (.unmapDrainDone base) s = .next s) ∧
    (Tab.get? s.ranges base = some g →
      ((g.unmapping = false ∨ rangeRefs s base ≠ 0 ∨ areaQuiet s base g.len = false) → exec (.unmapDrainDone base) s = .next s) ∧
      (∀ run, g.unmapping = true → rangeRefs s base = 0 → areaQuiet s base g.len = true → s.mbx.running = some run →
        run.wait = .unmap base → (ctxD s g.ctx).destroying = false →
        (g.devicePages ≠ [] → hostUp s = false → Completes (.unmapDrainDone base) s fun t => JobEnds run .hostLost t ∧
          Tab.get? t.ranges base = some { g with unmapping := false } ∧ t.mem = s.mem ∧ t.work = s.work) ∧
        ((g.devicePages = [] ∨ hostUp s = true) →
          let s0 := migrateBack base 0 (g.len / 4096) s
          let ended (t : State) : Prop := JobEnds run .ok t ∧ Tab.get? t.ranges base = none ∧
            (∀ k, k ≠ base → Tab.get? t.ranges k = Tab.get? s.ranges k) ∧ t.tasks = s.tasks
          (g.tierPool = false → Completes (.unmapDrainDone base) s fun t => ended t ∧
            t.mem = (if g.kind = .host then s0.mem else cellClear s0.mem base g.len) ∧ t.work = s.work) ∧
          (g.tierPool = true →
            let x : Pending := { job := .unmap base, kind := .unpool base }
            let s1 := updTables (fun w => { w with pending := w.pending ++ [x] }) s0
            (x ∈ s.work.tbl.pending → exec (.unmapDrainDone base) s = .next s0) ∧
            (x ∉ s.work.tbl.pending →
              (∀ s2, stepPending (.unpool base) s1 = (none, s2) → exec (.unmapDrainDone base) s = .next s2) ∧
              (∀ st s2, stepPending (.unpool base) s1 = (some st, s2) → st ≠ .ok → Completes (.unmapDrainDone base) s fun t =>
                JobEnds run st t ∧ ∃ g', Tab.get? t.ranges base = some g' ∧ g'.unmapping = false ∧ g'.kind = g.kind ∧ g'.len = g.len) ∧
              ((∀ e ∈ s.work.tbl.rows, (∀ p ∈ (rowOf s e.1).places, placeMeets s e.1 3 base g.len p = false) ∧
                  ∀ d ∈ (rowOf s e.1).deltas, placeMeets s e.1 3 base g.len d.place = false) →
                (∀ y ∈ allPages s0, meets y.2.2 4096 base g.len = false) → poolUsed s1 3 ≤ poolBytes s1 3 →
                Completes (.unmapDrainDone base) s fun t => ended t ∧ t.work.tbl.rows = s.work.tbl.rows)))))))

/-- WINDOW_OPEN, WINDOW_CLOSE and WINDOW packets (R331, R347 to R350). -/
def Obligations.WindowsServeRequests : Prop :=
  (∀ (m : MbxCall) (s : State), MbxOpen s → m.defer = false →
    let refused (c : Instr) (st : Status) : Prop := Completes c s fun t => MbxEnds m st t ∧ MbxOnly (hostWrote m.host s) t
    (let a := rmArgs 4 m
     let base := rmBase a
     let n := rmLen a
     let bad := !zeroFields a (rmReserved ++ [(4, 3), (19, 29), (192, 64)]) || decide (n = 0)
     (bad = true → refused (.windowOpen m) .badReserved) ∧
     (bad = false → ctxOk s m (rmCtx a) = true →
       ((base % 4096 ≠ 0 ∨ n % 4096 ≠ 0) → refused (.windowOpen m) .badAlign) ∧
       (base % 4096 = 0 → n % 4096 = 0 →
         (s.work.chain.valid = false → refused (.windowOpen m) .notChained) ∧
         (s.work.chain.valid = true → 4096 ≤ s.windows.length → refused (.windowOpen m) .rangeLimit) ∧
         (s.work.chain.valid = true → s.windows.length < 4096 →
           (ctxRange s (rmCtx a) base n = none → refused (.windowOpen m) .noRange) ∧
           (∀ b g, ctxRange s (rmCtx a) base n = some (b, g) →
             let fits := (g.kind = .stack ∨ g.kind = .expander) ∧ (bit a 16 = true → g.r = true) ∧ (bit a 17 = true → g.w = true) ∧
               (bit a 18 = true → g.a = true)
             (¬fits → refused (.windowOpen m) .noRange) ∧
             (fits → Tab.has s.windows (bits a 48 12) = true → refused (.windowOpen m) .windowExists) ∧
             (fits → Tab.has s.windows (bits a 48 12) = false → Completes (.windowOpen m) s fun t => MbxEnds m .ok t ∧
               t.windows = Tab.put s.windows (bits a 48 12)
                 { ctx := rmCtx a, base := base, len := n, r := bit a 16, w := bit a 17, a := bit a 18, mask := bits a 256 16 } ∧
               MbxOnly { hostWrote m.host s with windows := t.windows } t)))))) ∧
    (let a := rmArgs 5 m
     let id := bits a 48 12
     let zs := rmReserved ++ [(4, 3), (16, 32), (64, 56), (128, 48), (192, 80)]
     (zeroFields a zs = false → refused (.windowClose m) .badReserved) ∧
     (zeroFields a zs = true → ctxOk s m (rmCtx a) = true →
       (s.work.chain.valid = false → refused (.windowClose m) .notChained) ∧
       (s.work.chain.valid = true → Tab.get? s.windows id = none → refused (.windowClose m) .noWindow) ∧
       (∀ w, s.work.chain.valid = true → Tab.get? s.windows id = some w →
         (w.ctx ≠ rmCtx a → refused (.windowClose m) .noWindow) ∧
         (w.ctx = rmCtx a → Completes (.windowClose m) s fun t => MbxEnds m .ok t ∧ t.windows = Tab.del s.windows id ∧
           MbxOnly { hostWrote m.host s with windows := t.windows } t))))) ∧
  (∀ (p : PeerPkt) (body : List Byte) (s : State), s.sys.frozen = false → PeerTaken 9 p s body →
    windowBad (ctlHead p.payload) = false →
    let h := ctlHead body
    let op := bitsOf (ctlHead p.payload) 0 4
    let len := bitsOf h 80 16 + 1
    let data := body.drop 16
    let answers (o status : Nat) (bs : List Byte) (t : State) : Prop :=
      PeerSentLast t (pktSrc p) windowJob 9 (windowHead o 0 status (bitsOf h 16 12) (bitsOf h 32 48) len ++ bs)
    let refusals (n : Nat) (t : State) : Prop :=
      counterVal t Ctr.windowRefusals.index = (if n = 6 then counterVal s Ctr.windowRefusals.index
        else satAdd 64 (counterVal s Ctr.windowRefusals.index) 1)
    let same (t : State) : Prop := t.mem = s.mem ∧ t.hostMem = s.hostMem ∧ t.tasks = s.tasks ∧ t.work.tbl = s.work.tbl ∧
      t.windows = s.windows ∧ t.ranges = s.ranges
    (op = 1 →
      let c := windowCheck s p h 1
      (c.1 = 0 → Completes (.readReq p) s fun t => answers 2 0 (devRead s c.2 len) t ∧ same t) ∧
      (c.1 ≠ 0 → Completes (.readReq p) s fun t => answers 2 c.1 [] t ∧ same t ∧ refusals c.1 t)) ∧
    (op = 3 →
      let c := windowCheck s p h 3
      (c.1 = 0 → Completes (.windowWrite p) s fun t => answers 5 0 [] t ∧ t.tasks = s.tasks ∧ t.work.tbl = s.work.tbl ∧
        t.mem = (devWrite c.2 (sliceBytes data 0 len) s).mem ∧ t.hostMem = (devWrite c.2 (sliceBytes data 0 len) s).hostMem) ∧
      (c.1 ≠ 0 → Completes (.windowWrite p) s fun t => answers 5 c.1 [] t ∧ same t ∧ refusals c.1 t)) ∧
    (op = 4 →
      let c := windowCheck s p h 4
      let r := memop (bitsOf h 4 4) (devRead s c.2 len) (sliceBytes data 0 len)
      (c.1 = 0 → Completes (.windowMemop p) s fun t => answers 5 0 [] t ∧ t.tasks = s.tasks ∧ t.work.tbl = s.work.tbl ∧
        t.mem = (devWrite c.2 r.bytes s).mem ∧ t.hostMem = (devWrite c.2 r.bytes s).hostMem) ∧
      (c.1 ≠ 0 → Completes (.windowMemop p) s fun t => answers 5 c.1 [] t ∧ same t ∧ refusals c.1 t)) ∧
    (∀ e ∈ [((2 : Nat), Instr.readData p), (5, .writeAck p)], op = e.1 →
      (oldestWindow s (pktSrc p) = none → Completes e.2 s same) ∧
      (∀ tag w, oldestWindow s (pktSrc p) = some (tag, w) →
        let taken (t : State) : Prop := t.work.chain.windowReqs = Tab.del s.work.chain.windowReqs tag
        let st := bitsOf h 8 4
        (∀ k g, w.cxl = some (k, g) →
          (st = 0 → Completes e.2 s fun t => taken t ∧ same t ∧
            t.sent.getLast? = some (if op = 2 then .cxlData k g (sliceBytes data 0 len) else .cxlDone k g)) ∧
          (st ≠ 0 → (ucieOf s k).up = true → Completes e.2 s fun t => taken t ∧ same t ∧
            t.sent.getLast? = some (.control k (controlMsg 8 0 [(16, 16, cxlReason st), (64, 16, g)])))) ∧
        (w.cxl = none → transfer? s w.transfer = none → Completes e.2 s fun t => taken t ∧ same t) ∧
        (∀ tr x, w.cxl = none → transfer? s w.transfer = some tr → task? s tr.queue tr.seq = some x → x.queue = tr.queue →
          x.seq = tr.seq → x.state = .active →
          (st ≠ 0 → Completes e.2 s fun t => taken t ∧ transfer? t w.transfer = none ∧ ∃ y, task? t tr.queue tr.seq = some y ∧
            (st = 6 → y.state = .failed ∧ y.status = .dataLost) ∧ (st ≠ 6 → y.state = .aborted ∧ y.status = .streamFault)) ∧
          (st = 0 → op = 2 →
            let bs := sliceBytes data 0 tr.len
            (tr.gate.isSome = true → tr.lost = none → tr.sentOut = false → migrateJobs s = [] → Completes e.2 s fun t => taken t ∧
              transfer? t w.transfer = some { tr with data := some [], issued := false } ∧ t.mem = (devWrite tr.src bs s).mem ∧
              t.tasks = s.tasks) ∧
            (tr.gate = none → endKind s tr.dst ≠ .peer → endKind s tr.dst ≠ .flash → tr.op = 0 →
              areaFenced s tr.src tr.len = none → migrateJobs s = [] → Completes e.2 s fun t => taken t ∧
                transfer? t w.transfer = none ∧ t.mem = (devWrite tr.dst bs s).mem ∧
                t.hostMem = (devWrite tr.dst bs s).hostMem) ∧
            (tr.gate = none → endKind s tr.src = .peer → endKind s tr.dst = .peer → tr.sentOut = false → tr.chain = none →
              Completes e.2 s fun t => t.tasks = s.tasks ∧ t.mem = s.mem ∧
                transfer? t w.transfer = some { tr with data := some bs, sentOut := true })) ∧
          (st = 0 → op = 5 → migrateJobs s = [] →
            (tr.gate.isSome = true → (∀ l ∈ s.work.idx.lookups, l.2.writing = []) → Completes e.2 s fun t =>
              taken t ∧ transfer? t w.transfer = none ∧ same t) ∧
            (tr.gate.isSome = true → NoneHeld s → s.streams.transfers = [(w.transfer, tr)] → tr.seq < 2 ^ 32 →
              ∀ lw bag o, s.work.idx.lookups = [(tid tr.queue tr.seq, lw)] → lw.writing = [bag] → Tab.get? lw.done bag = some o →
              Completes e.2 s fun t => taken t ∧ transfer? t w.transfer = none ∧
                look? t tr.queue tr.seq = some { lw with writing := [], delivered := lw.delivered ++ [bag] } ∧
                counterVal t Ctr.bagsDelivered.index = satAdd 64 (counterVal s Ctr.bagsDelivered.index) 1) ∧
            (tr.gate = none → Completes e.2 s fun t => taken t ∧ transfer? t w.transfer = none ∧ t.mem = s.mem ∧
              t.hostMem = s.hostMem ∧ ∀ z, stream? s tr.queue tr.seq = some z →
                (stream? t tr.queue tr.seq).map Stream.bytesWritten = some (satAdd 64 z.bytesWritten tr.len)))))))

/-- Streams, transfers, Headwind and semaphores (R298 to R319, R323). -/
def Obligations.StreamsMoveBytes : Prop :=
  (∀ (m : MbxCall) (s : State), MbxOpen s → m.defer = false →
    let refused (c : Instr) (st : Status) : Prop := Completes c s fun t => MbxEnds m st t ∧ MbxOnly (hostWrote m.host s) t
    (let a := setField m.args 0 4 1
     let bad := !zeroFields a [(10, 6), (48, 2000)] || decide (bits a 16 16 = 0) || decide (bits a 32 16 = 0)
     (bad = true → refused (.streamPolicyPartition m) .badReserved) ∧
     (bad = false → Completes (.streamPolicyPartition m) s fun t => MbxEnds m .ok t ∧
       t.streams = { s.streams with
         policy := Tab.put s.streams.policy (bits a 4 4 * 4 + bits a 8 2) (bits a 16 16, bits a 32 16) } ∧
       MbxOnly { hostWrote m.host s with streams := t.streams } t)) ∧
    (let a := setField m.args 0 4 2
     let p := bits a 48 3
     (zeroFields a [(4, 44), (52, 1996)] = false → refused (.portArb m) .badReserved) ∧
     (zeroFields a [(4, 44), (52, 1996)] = true → populated s p = false → refused (.portArb m) .badPort) ∧
     (zeroFields a [(4, 44), (52, 1996)] = true → populated s p = true → Completes (.portArb m) s fun t => MbxEnds m .ok t ∧
       (p ∈ t.streams.priorityPorts ↔ bit a 51 = true) ∧
       (∀ x, x ≠ p → (x ∈ t.streams.priorityPorts ↔ x ∈ s.streams.priorityPorts)) ∧
       MbxOnly { hostWrote m.host s with streams := t.streams } t))) ∧
  (∀ (s : State), s.sys.frozen = false →
    (∀ part port ns,
      let rate := (policyAt s part port).1
      let top : Int := ((policyAt s part port).2 * 1024 : Nat)
      ((rate = 0xFFFF ∨ 16 ≤ part ∨ 32 ≤ port) → exec (.headwindRefill part port ns) s = .next s) ∧
      (rate ≠ 0xFFFF → part < 16 → port < 32 → Completes (.headwindRefill part port ns) s fun t =>
        Tab.get? t.streams.tokens (part * 32 + port) = some (min top (tokensAt s part port + ((rate * ns : Nat) : Int))) ∧
        (∀ k, k ≠ part * 32 + port → Tab.get? t.streams.tokens k = Tab.get? s.streams.tokens k) ∧
        t = { s with streams := { s.streams with tokens := t.streams.tokens } })) ∧
    (∀ ctx sid, ∀ c, Tab.get? s.ctxs ctx = some c →
      let a := armingOf s ctx sid
      (∀ e w, a.running = some e → a.waiting = some w →
        (retired s e = false → exec (.armingStart ctx sid) s = .next s) ∧
        (retired s e = true → Completes (.armingStart ctx sid) s fun t =>
          armingOf t ctx sid = { a with running := some w, waiting := none } ∧
          (∀ x, stream? s w.1 w.2 = some x → stream? t w.1 w.2 = some { x with started := true }) ∧ t.tasks = s.tasks ∧
          t.streams.transfers = s.streams.transfers ∧ t.mem = s.mem))) ∧
    (∀ ctx sem c, Tab.get? s.ctxs ctx = some c →
      ((ctxD s ctx).waiters.find? (fun w => decide (w.sem = sem)) = none → exec (.semWaitServed ctx sem) s = .next s) ∧
      (∀ w, (ctxD s ctx).waiters.find? (fun w => decide (w.sem = sem)) = some w →
        (semVal s ctx sem < w.count → exec (.semWaitServed ctx sem) s = .next s) ∧
        (w.count ≤ semVal s ctx sem → Completes (.semWaitServed ctx sem) s fun t =>
          semVal t ctx sem = semVal s ctx sem - w.count ∧
          (ctxD t ctx).waiters = dropFirst (fun x => decide (x = w)) (ctxD s ctx).waiters ∧
          (∀ i, i ≠ sem → semVal t ctx i = semVal s ctx i) ∧ t.mem = s.mem ∧
          (∀ q n x, w.who = .task q n → task? s q n = some x → task? t q n = some { x with effected := true }) ∧
          (∀ q n i x, w.who = .entry q n i → stream? s q n = some x → stream? t q n = some { x with entryServed := true }))))) ∧
  (∀ (q n : Nat) (x : Task) (s : State), s.sys.frozen = false → task? s q n = some x → x.queue = q → x.seq = n →
    let ended (st : TaskState) (u : Status) (t : State) : Prop := ∃ y, task? t q n = some y ∧ y.state = st ∧ y.status = u
    let active : Task := { x with state := .active, admittedAt := s.clock }
    (∀ c, tasksRun s = true → admissible s q n = some x → Tab.get? s.ctxs x.ctx = some c →
      (x.ttype = .copy →
        let sid := partBits x 0 12
        let a := armingOf s x.ctx sid
        let num := (a.num + 1) % 65536
        let begun (run : Bool) (t : State) : Prop := task? t q n = some active ∧ t.mem = s.mem ∧
          t.streams.transfers = s.streams.transfers ∧ stream? t q n = some
            { streamId := sid, entries := partBits x 32 24 + 1, listAddr := partBits x 64 56, arming := num, started := run }
        (coReserved x = true → Completes (.copy q n) s (ended .failed .badReserved)) ∧
        (coReserved x = false → a.waiting.isSome = true → exec (.copy q n) s = .next s) ∧
        (coReserved x = false → a.waiting = none →
          (∀ e, a.running = some e → retired s e = false → Completes (.copy q n) s fun t => begun false t ∧
            armingOf t x.ctx sid = { num := num, running := some e, waiting := some (q, n) }) ∧
          ((∀ e, a.running = some e → retired s e = true) → Completes (.copy q n) s fun t => begun true t ∧
            armingOf t x.ctx sid = { num := num, running := some (q, n), waiting := none }))) ∧
      (x.ttype = .semWait → (seReserved x = true → Completes (.semWait q n) s (ended .failed .badReserved)) ∧
        (seReserved x = false → Completes (.semWait q n) s fun t => task? t q n = some active ∧ t.mem = s.mem ∧
          (ctxD t x.ctx).waiters =
            (ctxD s x.ctx).waiters ++ [{ sem := partBits x 0 12, count := partBits x 16 31, who := .task q n }])) ∧
      (x.ttype = .semSignal → (seReserved x = true → Completes (.semSignal q n) s (ended .failed .badReserved)) ∧
        (seReserved x = false → earlierDone s q n = false → Completes (.semSignal q n) s fun t => task? t q n = some active ∧
          t.ctxs = s.ctxs ∧ t.mem = s.mem))) ∧
    (∀ c, tasksRun s = true → x.ttype = .semSignal → x.state = .active → x.effected = false → earlierDone s q n = true →
      Tab.get? s.ctxs x.ctx = some c →
      let v := semVal s x.ctx (partBits x 0 12) + partBits x 16 31
      (v ≤ 0x7FFFFFFF → Completes (.semSignal q n) s fun t => task? t q n = some { x with effected := true } ∧
        semVal t x.ctx (partBits x 0 12) = v ∧ (∀ i, i ≠ partBits x 0 12 → semVal t x.ctx i = semVal s x.ctx i) ∧ t.mem = s.mem) ∧
      (0x7FFFFFFF < v → Completes (.semSignal q n) s fun t => ended .failed .semOverflow t ∧
        semVal t x.ctx (partBits x 0 12) = semVal s x.ctx (partBits x 0 12))) ∧
    (∀ z c, x.state = .active → stream? s q n = some z → Tab.get? s.ctxs x.ctx = some c →
      ((z.started = false ∨ z.entries ≤ z.nextEntry) → exec (.streamEntryIssue q n) s = .next s) ∧
      (z.started = true → z.nextEntry < z.entries →
        let issues (b : State) (e : Nat) (t : State) : Prop := t.tasks = s.tasks ∧ t.ctxs = s.ctxs ∧ t.mem = s.mem ∧
          (∃ z', stream? t q n = some z' ∧ z'.nextEntry = z.nextEntry + 1 ∧ z'.reached = none) ∧
          (∀ id, id < s.streams.nextTransfer → transfer? t id = transfer? b id) ∧
          (∀ id u, transfer? t id = some u → id < s.streams.nextTransfer ∨ transfer? b id = some u ∨ ∃ j, j < beReplicas e ∧
            ∃ p ∈ replicaPieces e j, u = { queue := q, seq := n, entry := z.nextEntry, replica := j, src := p.1, dst := p.2.1
                                           len := p.2.2, op := beOp e, critical := bitsOf e 158 1 == 1, since := s.clock
                                           chain := if (beChain e).contains j then ((beChain e).filter fun i => decide (i < j)).getLast? else none
                                           feeds := (beChain e).contains j && (beChain e).any fun i => decide (j < i) }) ∧
          (∀ j, j < beReplicas e → ∀ p ∈ replicaPieces e j, ∃ id u, transfer? t id = some u ∧ u.entry = z.nextEntry ∧
            u.replica = j ∧ u.src = p.1 ∧ u.dst = p.2.1 ∧ u.len = p.2.2)
        (∀ e, z.reached = some e → z.entryServed = true → Completes (.streamEntryIssue q n) s (issues s e)) ∧
        (∀ e, z.reached = some e → z.entryServed = false → exec (.streamEntryIssue q n) s = .next s) ∧
        (z.reached = none → entriesIssued s q n = false → exec (.streamEntryIssue q n) s = .next s) ∧
        (let a := z.listAddr + 32 * z.nextEntry
         let e := devNat s a 32
         z.reached = none → entriesIssued s q n = true → memGate q n .r a 32 s = none → areaFenced s a 32 = none →
         (∀ r, entryFault e = some r → Completes (.streamEntryIssue q n) s fun t => ended .failed .badBlockEntry t ∧
           ∃ z', stream? t q n = some z' ∧ z'.badEntry = z.nextEntry ∧ z'.badReason = r) ∧
         (entryFault e = none → bitsOf e 156 1 = 0 → Completes (.streamEntryIssue q n) s (issues (takeGates q n s) e)) ∧
         (entryFault e = none → bitsOf e 156 1 = 1 → Completes (.streamEntryIssue q n) s fun t =>
           (ctxD t x.ctx).waiters =
             (ctxD s x.ctx).waiters ++ [{ sem := bitsOf e 160 12, count := 1, who := .entry q n z.nextEntry }] ∧
           stream? t q n = some { z with reached := some e } ∧ t.tasks = s.tasks ∧ t.mem = s.mem)))) ∧
    (∀ id tr, transfer? s id = some tr → tr.queue = q → tr.seq = n →
      let moved (mem' : State) (t : State) : Prop := transfer? t id = none ∧ t.mem = mem'.mem ∧ t.hostMem = mem'.hostMem ∧
        ∀ z, stream? s q n = some z → (stream? t q n).map Stream.bytesWritten = some (satAdd 64 z.bytesWritten tr.len)
      let none' (t : State) : Prop := transfer? t id = none ∧ t.mem = s.mem
      (x.state = .active → tr.issued = false → tr.stalled = false → (tr.gate = none ∨ tr.data = none) → inOrder s id tr = true →
        (hasTokens s tr = false → tr.held = true → exec (.transferIssue id) s = .next s) ∧
        (hasTokens s tr = false → tr.held = false → Completes (.transferIssue id) s fun t =>
          transfer? t id = some { tr with held := true } ∧ t.tasks = s.tasks ∧ t.mem = s.mem) ∧
        (hasTokens s tr = true → mayIssue s id tr = true → isChosen s id tr = true →
          (∀ f, transferCheck s x.ctx tr = some f → Completes (.transferIssue id) s (ended .aborted .streamFault)) ∧
          (transferCheck s x.ctx tr = none →
            let away := ((tr.chain.isNone && needsHost s tr.src tr.len) || needsHost s tr.dst tr.len) && !hostUp s
            let cut := (tr.chain.isNone && endUnreachable s tr.src) || endUnreachable s tr.dst
            (away = true → Completes (.transferIssue id) s (ended .failed .hostLost)) ∧
            (away = false → cut = true → Completes (.transferIssue id) s (ended .failed .tierUnavailable)) ∧
            (away = false → cut = false → transferNeed s tr = none →
              ((endKind s tr.src ≠ .peer ∧ endKind s tr.src ≠ .flash) ∨ tr.chain.isSome = true) →
              endKind s tr.dst ≠ .peer → endKind s tr.dst ≠ .flash → Completes (.transferIssue id) s fun t =>
                transfer? t id = some { tr with issued := true } ∧ (∀ k, k ≠ id → transfer? t k = transfer? s k) ∧
                t.tasks = s.tasks ∧ t.mem = s.mem ∧ t.hostMem = s.hostMem) ∧
            (∀ base g, away = false → cut = false → transferNeed s tr = none → endKind s tr.src = .peer →
              tr.chain = none → tr.gate ≠ some true →
              rangeAt s tr.src tr.len = some (base, g) → Completes (.transferIssue id) s fun t =>
                transfer? t id = some { tr with issued := true } ∧ t.tasks = s.tasks ∧ t.mem = s.mem ∧
                PeerSentLast t g.chainAddr windowJob 9
                  (windowHead 1 0 0 g.windowId (g.hostStart + (tr.src - base)) tr.len ++ [])) ∧
            (∀ need, away = false → cut = false → transferNeed s tr = some need → need.migrate = false →
              s.ats.requests.length < 1024 → Completes (.transferIssue id) s fun t =>
                transfer? t id = some { tr with stalled := true } ∧ (need.space, need.page) ∈ t.ats.requests ∧
                t.tasks = s.tasks ∧ t.mem = s.mem)))) ∧
      (∀ poisoned, (tr.issued = false ∨ t4Waiting s (.transfer id) = true ∨ windowOpenFor s id = true) →
        exec (.transferComplete id poisoned) s = .next s) ∧
      (tr.issued = true → t4Waiting s (.transfer id) = false → windowOpenFor s id = false → tr.gate = none → migrateJobs s = [] →
        (tr.lost = none → x.state = .active → tr.chain = none → Completes (.transferComplete id true) s fun t => none' t ∧ ended .failed .dataLost t) ∧
        (∀ poisoned, tr.lost = some true → x.state = .active → Completes (.transferComplete id poisoned) s fun t => none' t ∧
          ended .failed .tierUnavailable t) ∧
        (∀ poisoned, tr.lost = some false → x.state = .active → Completes (.transferComplete id poisoned) s fun t => none' t ∧
          ended .failed .dataLost t) ∧
        (tr.lost = none → endKind s tr.dst ≠ .peer → endKind s tr.dst ≠ .flash →
          (∀ loc, tr.chain = none → endKind s tr.src ≠ .peer → areaFenced s tr.src tr.len = some loc → x.state = .active →
            Completes (.transferComplete id false) s fun t => none' t ∧ ended .failed .dataLost t) ∧
          (∀ bs, ((tr.chain = none ∧ endKind s tr.src ≠ .peer ∧ areaFenced s tr.src tr.len = none ∧ bs = devRead s tr.src tr.len) ∨
              (∃ j, tr.chain = some j ∧ relayed s tr j = some bs)) →
            (tr.op = 0 → Completes (.transferComplete id false) s (moved (devWrite tr.dst bs s))) ∧
            (tr.op ≠ 0 → areaFenced s tr.dst tr.len = none →
              Completes (.transferComplete id false) s (moved (devWrite tr.dst (memop tr.op (devRead s tr.dst tr.len) bs).bytes s)))))) ∧
      (tr.issued = true → t4Waiting s (.transfer id) = false → windowOpenFor s id = false → tr.gate.isSome = true → tr.sentOut = false →
        tr.lost = none → x.state = .active → migrateJobs s = [] → Completes (.transferComplete id false) s fun t =>
          transfer? t id = some { tr with data := some [], issued := false } ∧ t.tasks = s.tasks ∧ t.mem = s.mem ∧
          t.hostMem = s.hostMem)))

/-- CHAIN_ENUM and the enumeration (R260 to R264, R386). -/
def Obligations.EnumerationFindsChain : Prop :=
  (∀ (m : MbxCall) (s : State), MbxOpen s → m.defer = false →
    let refused (c : Instr) (st : Status) : Prop := Completes c s fun t => MbxEnds m st t ∧ MbxOnly (hostWrote m.host s) t
    (let a := setField m.args 0 1 0
     let s0 := mbxIn 0x40 m a s
     let addr := bits a 64 56
     (zeroFields a [(1, 63), (120, 1928)] = false → refused (.readTopology m) .badReserved) ∧
     (zeroFields a [(1, 63), (120, 1928)] = true → areaOk s0 (m.issuer % 256) addr 400 .w .stackOrPinned = false →
       refused (.readTopology m) .badAddress) ∧
     (zeroFields a [(1, 63), (120, 1928)] = true → areaOk s0 (m.issuer % 256) addr 400 .w .stackOrPinned = true →
       Completes (.readTopology m) s fun t => MbxEnds m .ok t ∧ t.mem = (writeTopology addr s0).mem ∧
         t.hostMem = (writeTopology addr s0).hostMem ∧ t.work = s.work ∧ t.tasks = s.tasks)) ∧
    (∀ elsewhere : Bool,
      let a := setField m.args 0 1 1
      let ports := (s.links.peers.filter fun e => e.2.up).map Prod.fst
      (zeroFields a [(1, 2047)] = false → refused (.reenumerate m elsewhere) .badReserved) ∧
      (zeroFields a [(1, 2047)] = true → s.sys.chainRoot = false → refused (.reenumerate m elsewhere) .notRoot) ∧
      (zeroFields a [(1, 2047)] = true → s.sys.chainRoot = true → (chainHeld s = true ∨ elsewhere = true) →
        refused (.reenumerate m elsewhere) .chainBusy) ∧
      (zeroFields a [(1, 2047)] = true → s.sys.chainRoot = true → chainHeld s = false → elsewhere = false →
        (∀ p rest, ports = p :: rest → Completes (.reenumerate m elsewhere) s fun t => MbxWaits 0x40 m .reenumerate t ∧
          t.work.chain = { s.work.chain with
            addr := 0, valid := false, size := 0, enumStatus := 1, epoch := s.work.chain.epoch + 1, token := true, nextAddr := 1
            parent := none, offered := some p, usedPorts := [p], found := [], silent := [] } ∧
          t.sent.getLast? = some (.peerEnum p 1 [1, (s.work.chain.epoch + 1).toNat, 0, p])) ∧
        (ports = [] → Completes (.reenumerate m elsewhere) s fun t => MbxEnds m .ok t ∧ t.work.chain = { s.work.chain with
          addr := 0, valid := true, size := 1, enumStatus := 2, epoch := s.work.chain.epoch + 1, token := false, nextAddr := 1
          parent := none, offered := none, usedPorts := [], found := [], links := [], silent := [] }))) ) ∧
  (∀ (s : State), s.sys.frozen = false →
    let c := s.work.chain
    let only (t : State) : Prop := t = { s with work := t.work, sent := t.sent } ∧ t.work = { s.work with chain := t.work.chain }
    let conflict (t : State) : Prop :=
      t.work.chain = { c with enumStatus := 4, valid := false, addr := 0, size := 0, token := false, offered := none, parent := none } ∧
      t.work.tbl = s.work.tbl ∧ t.tasks = s.tasks ∧ (∀ e ∈ s.links.peers, e.2.up = true → OutMsg.peerEnum e.1 4 [] ∈ t.sent) ∧
      ∀ r, s.mbx.running = some r → r.wait = .reenumerate → JobEnds r .ok t
    (∀ port fromRoot next epoch,
      let held := (c.enumStatus = 1 ∨ s.sys.chainRoot = true) ∧ c.epoch = epoch
      let run := Instr.enumTokenOffer port fromRoot next epoch
      ((peerLink s port).up = false → exec run s = .next s) ∧
      ((peerLink s port).up = true → s.sys.chainRoot = true → fromRoot = true →
        (c.enumStatus = 4 → exec run s = .next s) ∧ (c.enumStatus ≠ 4 → Completes run s conflict)) ∧
      ((peerLink s port).up = true → (s.sys.chainRoot && fromRoot) = false →
        (c.enumStatus = 4 → exec run s = .next s) ∧
        (c.enumStatus ≠ 4 → held → Completes run s fun t => only t ∧ t.work.chain = { c with usedPorts := c.usedPorts ++ [port] } ∧
          t.sent.getLast? = some (.peerEnum port 3 [next, 1, c.addr, port])) ∧
        (c.enumStatus ≠ 4 → ¬held → 16 ≤ next → Completes run s fun t => only t ∧
          t.work.chain = { c with enumStatus := 5, valid := false, addr := 0, size := 0 } ∧
          t.sent.getLast? = some (.peerEnum port 3 [next, 2, 0, port])) ∧
        (c.enumStatus ≠ 4 → ¬held → next < 16 →
          let c' := { c with
            addr := next, enumStatus := 1, epoch := epoch, nextAddr := next + 1, parent := some port, found := [], valid := false
            size := 0 }
          let ports := (s.links.peers.filter fun e => e.2.up && !decide (e.1 = port)).map Prod.fst
          (∀ p rest, ports = p :: rest → Completes run s fun t => only t ∧
            t.work.chain = { c' with token := true, offered := some p, usedPorts := [port, p] } ∧
            t.sent.getLast? = some (.peerEnum p 1 [next + 1, epoch.toNat, next, p])) ∧
          (ports = [] → Completes run s fun t => only t ∧
            t.work.chain = { c' with token := false, offered := none, usedPorts := [port] } ∧
            t.sent.getLast? = some (.peerEnum port 2 [next + 1, 0, next, port]))))) ∧
    (∀ port next r links,
      let run := Instr.enumTokenReturn port next r links
      let found : List Word32 := match r with
        | .taken a q => c.found ++ foundLink s port a q ++ links
        | .refused a q => c.found ++ foundLink s port a q
        | _ => c.found
      let c' : Chain := { c with
        nextAddr := (match r with
          | .taken _ _ => next
          | _ => c.nextAddr)
        found := found, silent := if r = .full then c.silent ++ [port] else c.silent }
      (r = .conflict → ((peerLink s port).up = false ∨ c.enumStatus ∈ [0, 3, 4]) → exec run s = .next s) ∧
      (r = .conflict → (peerLink s port).up = true → c.enumStatus ∉ [0, 3, 4] → Completes run s conflict) ∧
      (r ≠ .conflict → (c.token = false ∨ c.offered ≠ some port) → exec run s = .next s) ∧
      (r ≠ .conflict → c.token = true → c.offered = some port →
        (∀ p rest, enumPorts s = p :: rest → Completes run s fun t => only t ∧
          t.work.chain = { c' with offered := some p, usedPorts := c.usedPorts ++ [p] } ∧
          t.sent.getLast? = some (.peerEnum p 1 [c'.nextAddr, c.epoch.toNat, c.addr, p])) ∧
        (∀ up, enumPorts s = [] → c.parent = some up → Completes run s fun t => only t ∧
          t.work.chain = { c' with token := false, offered := none } ∧
          t.sent.getLast? = some (.peerEnum up 2 ([c'.nextAddr, 0, c.addr, up] ++ found.map BitVec.toNat))) ∧
        (enumPorts s = [] → c.parent = none → Completes run s fun t =>
          t.work.chain.valid = true ∧ t.work.chain.addr = 0 ∧ t.work.chain.size = c'.nextAddr ∧ t.work.chain.enumStatus = 2 ∧
          t.work.chain.links = found ∧ t.work.chain.token = false ∧ t.work.tbl = s.work.tbl ∧ t.tasks = s.tasks ∧
          (∀ d, d ≠ 0 → d < c'.nextAddr → PeerSentLast t d 4095 10 (ctlBytes .chainTable 0 c'.nextAddr c.epoch.toNat
            found.length (found.flatMap fun w => toBytes 4 w.toNat))) ∧
          (∀ r, s.mbx.running = some r → r.wait = .reenumerate → JobEnds r .ok t)))) ∧
    (∀ p,
      (awaitsTable s p = true → Completes (.chainTable p.port p.hdr p.payload) s fun t => t.work.chain.size = bitsOf (ctlHead p.payload) 16 16 ∧
        t.work.chain.links = linksOf p.payload ∧ t.work.chain.valid = true ∧ t.work.chain.enumStatus = 2 ∧ t.work.chain.token = false ∧
        t.work.chain.addr = c.addr ∧ t.work.tbl = s.work.tbl ∧ t.tasks = s.tasks) ∧
      (∀ body, awaitsTable s p = false → CtlTaken .chainTable p s body → Completes (.chainTable p.port p.hdr p.payload) s fun t =>
        t.work.chain.size = c.size ∧ t.work.chain.valid = c.valid ∧ t.work.chain.addr = c.addr ∧
        t.work.chain.links = if bitsOf (ctlHead body) 32 32 = c.epoch.toNat then newLinks (linksOf body) c.links else c.links)) ∧
    ((c.enumStatus = 0 ∧ s.sys.chainRoot = false ∧ 12 ≤ s.sys.bootStep) → Completes .enumNoRoot s fun t => only t ∧
      t.work.chain = { c with enumStatus := 3, valid := false, size := 0 }) ∧
    (¬(c.enumStatus = 0 ∧ s.sys.chainRoot = false ∧ 12 ≤ s.sys.bootStep) → exec .enumNoRoot s = .next s))

/-- CAL_READ, CAL_WRITE and FW_UPDATE (R494 to R499, R511, R513). -/
def Obligations.FlashCommandsAct : Prop :=
  (∀ (m : MbxCall) (s : State), m.defer = false →
    let refused (c : Instr) (st : Status) : Prop := Completes c s fun t => MbxEnds m st t ∧ MbxOnly (hostWrote m.host s) t
    (MbxServes false true s →
      (∀ e ∈ [((1 : Nat), Instr.calReadStored m, calStored), (2, .calReadInUse m, calUsed)],
        let a := opArgs e.1 m
        let s0 := mbxIn 0x51 m a s
        let addr := bits a 64 56
        let n := bits a 128 32
        (zeroFields a calReserved = false → refused e.2.1 .badReserved) ∧
        (zeroFields a calReserved = true → areaOk s0 m.issuer addr n .w .stackOrPinned = false → refused e.2.1 .badAddress) ∧
        (zeroFields a calReserved = true → areaOk s0 m.issuer addr n .w .stackOrPinned = true → Completes e.2.1 s fun t =>
          MbxEnds m .ok t ∧ t.mbx.result = BitVec.ofNat 2048 (e.2.2 s).length ∧ t.flash = s.flash ∧ t.sys = s.sys ∧
          t.mem = (devWrite addr ((e.2.2 s).take n) s0).mem ∧ t.hostMem = (devWrite addr ((e.2.2 s).take n) s0).hostMem)) ∧
      (let a := opArgs 1 m
       let s0 := mbxIn 0x53 m a s
       let t' := fwTarget m
       let area := stageArea s t'
       let off := bits a 128 32
       let n := bits a 160 32
       let bad := !zeroFields a (fwReserved 1) || decide (off % 4096 ≠ 0) || decide (0x1000000 < n) || decide (area.2 < off + n)
       let fresh := if t' = 0 then !s.fw.stagedFw else !s.fw.stagedCfg
       (bad = true → refused (.fwStage m) .badReserved) ∧
       (bad = false → areaOk s0 m.issuer (bits a 64 56) n .r .any = false → refused (.fwStage m) .badAddress) ∧
       (bad = false → areaOk s0 m.issuer (bits a 64 56) n .r .any = true → s.fw.activating = true → refused (.fwStage m) .updateBusy) ∧
       (bad = false → areaOk s0 m.issuer (bits a 64 56) n .r .any = true → s.fw.activating = false →
         (areaFenced s (bits a 64 56) n).isSome = true → refused (.fwStage m) .dataLost) ∧
       (bad = false → areaOk s0 m.issuer (bits a 64 56) n .r .any = true → s.fw.activating = false →
         areaFenced s (bits a 64 56) n = none → Completes (.fwStage m) s fun t =>
         MbxEnds m .ok t ∧ t.mem = s.mem ∧ t.sys = s.sys ∧
         t.flash = cellWrite 0xFF (if fresh then cellClear s.flash area.1 area.2 else s.flash) (area.1 + off)
           (devRead s0 (bits a 64 56) n) ∧
         t.fw = (if t' = 0 then { s.fw with stagedFw := true, verifiedFw := false }
           else { s.fw with stagedCfg := true, verifiedCfg := false }) ∧
         (memWf s = true → ∀ b, (b < area.1 ∨ area.1 + area.2 ≤ b) → cellGet 0xFF t.flash b = cellGet 0xFF s.flash b))) ∧
      (∀ sigOk : Bool,
        let a := opArgs 2 m
        let t' := fwTarget m
        (zeroFields a (fwReserved 2) = false → refused (.fwVerify m sigOk) .badReserved) ∧
        (zeroFields a (fwReserved 2) = true → s.fw.activating = true → refused (.fwVerify m sigOk) .updateBusy) ∧
        (zeroFields a (fwReserved 2) = true → s.fw.activating = false → fwPresent s t' = false → refused (.fwVerify m sigOk) .noStagedImage) ∧
        (zeroFields a (fwReserved 2) = true → s.fw.activating = false → fwPresent s t' = true →
          (fwCheck t' sigOk s ≠ .ok → refused (.fwVerify m sigOk) (checkStatus (fwCheck t' sigOk s))) ∧
          (fwCheck t' sigOk s = .ok → Completes (.fwVerify m sigOk) s fun t => MbxEnds m .ok t ∧
            t.fw = (if t' = 0 then { s.fw with verifiedFw := true } else { s.fw with verifiedCfg := true }) ∧
            MbxOnly { hostWrote m.host s with fw := t.fw } t))) ∧
      (let a := opArgs 4 m
       let t' := fwTarget m
       let slot := stagedSlot s
       let svn := bitsOf (imageHeader s (.slot slot)) 96 16
       (zeroFields a (fwReserved 4) = false → refused (.fwCommit m) .badReserved) ∧
       (zeroFields a (fwReserved 4) = true → s.fw.activating = true → refused (.fwCommit m) .updateBusy) ∧
       (zeroFields a (fwReserved 4) = true → s.fw.activating = false →
         ((if t' = 0 then s.fw.stagedFw else s.fw.stagedCfg) = false → refused (.fwCommit m) .noStagedImage) ∧
         (t' = 0 → s.fw.stagedFw = true → Completes (.fwCommit m) s fun t => MbxEnds m .ok t ∧
           t.flash = (writeDir (fun d => { d with fwSlot := slot }) s).flash ∧
           t.fw = { s.fw with stagedFw := false } ∧ t.sys = s.sys ∧ t.mem = s.mem ∧
           t.fuses = (if bit a 4 then { s.fuses with minSvn := max s.fuses.minSvn (min svn 64) } else s.fuses)) ∧
         (t' ≠ 0 → s.fw.stagedCfg = true → Completes (.fwCommit m) s fun t => MbxEnds m .ok t ∧
           t.flash = (writeDir (fun d => { d with cfgCopy := 1 - d.cfgCopy }) s).flash ∧
           t.fw = { s.fw with stagedCfg := false, verifiedCfg := false } ∧ t.sys = s.sys ∧ t.mem = s.mem ∧ t.fuses = s.fuses))) ∧
      (let a := opArgs 5 m
       (zeroFields a (fwReserved 5) = false → refused (.fwAbort m) .badReserved) ∧
       (zeroFields a (fwReserved 5) = true → s.fw.activating = true → refused (.fwAbort m) .updateBusy) ∧
       (zeroFields a (fwReserved 5) = true → s.fw.activating = false → Completes (.fwAbort m) s fun t => MbxEnds m .ok t ∧
         t.fw = (if fwTarget m = 0 then { s.fw with stagedFw := false, verifiedFw := false }
           else { s.fw with stagedCfg := false, verifiedCfg := false }) ∧
         MbxOnly { hostWrote m.host s with fw := t.fw } t))) ∧
    (MbxOpen s →
      (let a := opArgs 1 m
       let s0 := mbxIn 0x52 m a s
       let addr := bits a 64 56
       let n := bits a 128 32
       let img := devRead s0 addr n
       (zeroFields a calReserved = false → refused (.writeSet m) .badReserved) ∧
       (zeroFields a calReserved = true → areaOk s0 m.issuer addr n .r .stackOrPinned = false → refused (.writeSet m) .badAddress) ∧
       (zeroFields a calReserved = true → areaOk s0 m.issuer addr n .r .stackOrPinned = true →
         (updateBusy s = true → refused (.writeSet m) .updateBusy) ∧
         (updateBusy s = false → (areaFenced s addr n).isSome = true → refused (.writeSet m) .dataLost) ∧
         (updateBusy s = false → areaFenced s addr n = none → n < 32 → refused (.writeSet m) .calInvalid) ∧
         (updateBusy s = false → areaFenced s addr n = none → 32 ≤ n →
           let good := calLength img ≤ n ∧ calLength img ≤ 131072 ∧ calOk s (img.take (calLength img)) = true
           (¬good → refused (.writeSet m) .calInvalid) ∧
           (good → Completes (.writeSet m) s fun t => MbxEnds m .ok t ∧
             t.flash = (storeCal (withOrigin 2 (img.take (calLength img))) s).flash ∧ t.mem = s.mem ∧ t.sys = s.sys ∧
             t.fw = s.fw)))) ∧
      ((zeroFields (opArgs 2 m) [(4, 2044)] = false → refused (.recalibrate m) .badReserved) ∧
       (zeroFields (opArgs 2 m) [(4, 2044)] = true → updateBusy s = true → refused (.recalibrate m) .updateBusy) ∧
       (zeroFields (opArgs 2 m) [(4, 2044)] = true → updateBusy s = false → Completes (.recalibrate m) s fun t => MbxEnds m .ok t ∧
         t.flash = (writeDir (fun d => { d with recal := true }) s).flash ∧
         MbxOnly { hostWrote m.host s with flash := t.flash } t)) ∧
      (let a := opArgs 3 m
       let bad := !zeroFields a (fwReserved 3) || decide (fwTarget m = 1)
       let here := bitsOf (imageHeader s (.slot (stagedSlot s))) 48 8
       (bad = true → refused (.fwActivate m) .badReserved) ∧
       (bad = false → s.fw.activating = true → refused (.fwActivate m) .updateBusy) ∧
       (bad = false → s.fw.activating = false → s.fw.verifiedFw = false → refused (.fwActivate m) .noStagedImage) ∧
       (bad = false → s.fw.activating = false → s.fw.verifiedFw = true →
         (here ≠ s.sys.protocol → refused (.fwActivate m) .protocolChange) ∧
         (here = s.sys.protocol → Completes (.fwActivate m) s fun t => MbxWaits 0x53 m .fwActivate t ∧
           t.fw = { s.fw with activating := true, activateStep := 0, activateFails := 0 } ∧
           t.tasks = s.tasks ∧ t.work = s.work ∧
           (s.sys.lowerUp = true → t.sys = { s.sys with engState := .updating, upperUp := false } ∧
             t.mpUpper = { s.mpUpper with restarting := true, failedAt := s.clock, failed := false, gaveUp := false }) ∧
           (s.sys.lowerUp = false → t.sys = { s.sys with engState := .updating } ∧ t.mpUpper = s.mpUpper))))) ) ∧
  (∀ (r : Running) (s : State), s.sys.frozen = false → s.mbx.running = some r → r.wait = .fwActivate →
    let svn := bitsOf (imageHeader s (.slot (stagedSlot s))) 96 16
    (¬(s.fw.activating = true ∧ s.fw.activateStep = 2) → exec .fwActivated s = .next s) ∧
    (s.fw.activating = true → s.fw.activateStep = 2 → Completes .fwActivated s fun t => JobEnds r .ok t ∧
      t.fw = { s.fw with activating := false, activateStep := 0 } ∧ t.sys = { s.sys with
        engState := .ready, runningImage := some (.slot (stagedSlot s)), runningSvn := svn } ∧
      LastEvent t .fwActivated svn ∧ t.tasks = s.tasks ∧ t.work = s.work))

/-- DEBUG_UNLOCK and CTX_KEY_LOAD (R503 to R505). -/
def Obligations.SecretsChangeByCheck : Prop :=
  (∀ (m : MbxCall) (s : State), MbxOpen s → m.defer = false →
    let refused (c : Instr) (st : Status) : Prop := Completes c s fun t => MbxEnds m st t ∧ MbxOnly (hostWrote m.host s) t
    (let z := zeroFields (opArgs 1 m) [(4, 2044)]
     (z = false → refused (.getChallenge m) .badReserved) ∧
     (z = true → Completes (.getChallenge m) s fun t => MbxEnds m .ok t ∧ t.fw.nonce = some (Config.nonce s.freeCtr) ∧
       t.mbx.result = BitVec.ofNat 2048 ((Config.nonce s.freeCtr).toNat + serial s * 2 ^ 256) ∧
       t.fw = { s.fw with nonce := t.fw.nonce, nonceAt := s.clock } ∧
       MbxOnly { hostWrote m.host s with fw := t.fw, freeCtr := s.freeCtr + 1 } t)) ∧
    (∀ keyOk sigOk : Bool,
      let a := opArgs 2 m
      let sel := bits a 4 2
      let st := unlockStatus sel keyOk sigOk s
      let run := Instr.debugUnlock m keyOk sigOk
      (zeroFields a [(6, 58), (1608, 440)] = false → refused run .badReserved) ∧
      (zeroFields a [(6, 58), (1608, 440)] = true →
        (st = .ok → Completes run s fun t => MbxEnds m .ok t ∧
          t.sys = { s.sys with debugUnlocked := true, debugKeySel := sel } ∧ t.fw = { s.fw with nonce := none } ∧
          LastEvent t .debugState (packFields [(0, 1, 1), (1, 2, sel)]) ∧
          SameButReports { hostWrote m.host s with sys := t.sys, fw := t.fw, mbx := t.mbx } t) ∧
        (st ≠ .ok → Completes run s fun t => MbxEnds m st t ∧ t.sys = s.sys ∧
          t.fw = { s.fw with
            unlockRefusals := s.fw.unlockRefusals + 1, nonce := if st = .unlockRefused then none else s.fw.nonce } ∧
          MbxOnly { hostWrote m.host s with fw := t.fw } t)) ∧
      (s.ctxs ≠ [] → st = .contextsExist) ∧ (s.ctxs = [] → 8 ≤ s.fw.unlockRefusals → st = .unlockLockedOut) ∧
      (s.ctxs = [] → s.fw.unlockRefusals < 8 → s.fw.nonce = none → st = .challengeStale) ∧
      (s.ctxs = [] → s.fw.unlockRefusals < 8 → s.fw.nonce ≠ none → (sigOk = false ∨ keyOk = false) → st = .unlockRefused)) ∧
    (let z := zeroFields (opArgs 3 m) [(4, 2044)]
     (z = false → refused (.debugLock m) .badReserved) ∧
     (z = true → Completes (.debugLock m) s fun t => MbxEnds m .ok t ∧ t.sys = { s.sys with debugUnlocked := false } ∧
       LastEvent t .debugState (packFields [(0, 1, 0), (1, 2, s.sys.debugKeySel)]) ∧
       SameButReports { hostWrote m.host s with sys := t.sys, mbx := t.mbx } t)) ∧
    (∀ (key : Option (BitVec 512)),
      (∀ op ∈ [(1 : Nat), 2, 3],
        let run := if op = 1 then Instr.ctxKeyLoad m key else if op = 2 then .ctxKeyRekey m key else .ctxKeyClear m
        ∀ st, ckFault op (ckArgs op m) m (if op = 3 then none else key) s = some st → refused run st) ∧
      (let ctx := bits (ckArgs 1 m) 8 8
       ∀ c, ckFault 1 (ckArgs 1 m) m key s = none → Tab.get? s.ctxs ctx = some c → Completes (.ctxKeyLoad m key) s fun t =>
         MbxEnds m .ok t ∧ Tab.get? t.ctxs ctx = some { c with key := key } ∧
         (∀ k, k ≠ ctx → Tab.get? t.ctxs k = Tab.get? s.ctxs k) ∧ t.work = s.work ∧ t.mem = s.mem) ∧
      (let ctx := bits (ckArgs 3 m) 8 8
       ∀ c, ckFault 3 (ckArgs 3 m) m none s = none → Tab.get? s.ctxs ctx = some c → Completes (.ctxKeyClear m) s fun t =>
         MbxEnds m .ok t ∧ Tab.get? t.ctxs ctx = some { c with key := none } ∧
         (∀ k, k ≠ ctx → Tab.get? t.ctxs k = Tab.get? s.ctxs k) ∧ t.work = s.work ∧ t.mem = s.mem) ∧
      (let ctx := bits (ckArgs 2 m) 8 8
       let pages := ctxPages s ctx ColdPage.encrypted
       ∀ c, ckFault 2 (ckArgs 2 m) m key s = none → Tab.get? s.ctxs ctx = some c →
         (pages = [] → Completes (.ctxKeyRekey m key) s fun t => MbxEnds m .ok t ∧
           Tab.get? t.ctxs ctx = some { c with key := key } ∧ t.work = s.work ∧ t.mem = s.mem) ∧
         (pages ≠ [] → Completes (.ctxKeyRekey m key) s fun t => MbxWaits 0x54 m (.rekey ctx) t ∧
           Tab.get? t.ctxs ctx = some { c with key := key, oldKey := c.key } ∧
           (∀ p, Tab.get? t.work.tbl.cold p = (Tab.get? s.work.tbl.cold p).map fun x =>
             if p ∈ pages then { x with oldKey := true } else x) ∧
           t.work.tbl.rows = s.work.tbl.rows ∧ t.mem = s.mem)))) ∧
  (∀ (s : State), s.sys.frozen = false → exec .nonceExpire s = .next { s with fw := { s.fw with nonce := none } })

/-- REDUCE, FLUSH, and the packets and deadlines of jobs (R278 to R294). -/
def Obligations.JobsReduceBuckets : Prop :=
  (∀ (q n : Nat) (x : Task) (s : State), s.sys.frozen = false → tasksRun s = true → admissible s q n = some x → task? s q n = some x →
    x.queue = q → x.seq = n →
    let id := partBits x 0 12
    let ended (st : Status) (t : State) : Prop := ∃ y, task? t q n = some y ∧ y.state = .failed ∧ y.status = st
    let active (t : State) : Prop := ∃ y, task? t q n = some y ∧ y.state = .active ∧ y.admittedAt = s.clock
    (x.ttype = .reduce →
      let j := rdJob x
      let size := j.count * (if j.format = 1 then 2 else 4)
      (∀ st, rdFault s x j id = some st → st ≠ .residualMismatch ∨ rdHeaderLost s j = none → Completes (.reduce q n) s (ended st)) ∧
      (rdFault s x j id = some .residualMismatch → (rdHeaderLost s j).isSome = true → Completes (.reduce q n) s (ended .dataLost)) ∧
      (rdFault s x j id = none → j.array = false → rdLost s j = none → Completes (.reduce q n) s fun t => active t ∧
        (∃ j', job? t id = some j' ∧ j'.queue = q ∧ j'.seq = n ∧ j'.ctx = x.ctx ∧ j'.ranks = j.ranks ∧ j'.owner = j.owner ∧
          j'.crc = j.crc ∧ j'.contributor = none) ∧
        (∀ k, k ≠ id → k < 4096 → job? t k = job? s k) ∧
        (∀ old, job? s id = some old → ∃ k, 4096 ≤ k ∧ job? t k = some { old with closed := true, aborted := true }) ∧
        t.mem = (if j.residBytes ≠ 0 ∧ devNat s j.residAddr 4 = 0 then
          (devWrite j.residAddr (residHeader j.ctx (jobMode j) j.elems 0) s).mem else s.mem)) ∧
      (rdFault s x j id = none → j.array = true → memGate q n .r j.inAddr size s = none →
        (rdLost s j = none → Completes (.reduce q n) s fun t => active t ∧
          ∃ j', job? t id = some j' ∧ j'.queue = q ∧ j'.seq = n ∧ j'.doneSent = true ∧ j'.outAddr = j.outAddr) ∧
        ((areaFenced s j.inAddr size).isSome = true → Completes (.reduce q n) s (ended .dataLost)))) ∧
    (x.ttype = .flush →
      let addr := partBits x 64 56
      (flReserved x = true → Completes (.flush q n) s (ended .badReserved)) ∧
      (flReserved x = false →
        (job? s id = none → Completes (.flush q n) s (ended .reduceJobUnknown)) ∧
        (∀ j, job? s id = some j →
          (∀ st, jobFault s x.ctx id (b2n j.plain) none = some st → Completes (.flush q n) s (ended st)) ∧
          (jobFault s x.ctx id (b2n j.plain) none = none →
            ((areaFenced s addr 64).isSome = true → Completes (.flush q n) s (ended .dataLost)) ∧
            (areaFenced s addr 64 = none → residBad s x.ctx addr (jobMode j) j.elems (partBits x 128 64) = true →
              Completes (.flush q n) s (ended .residualMismatch)) ∧
            (residBad s x.ctx addr (jobMode j) j.elems (partBits x 128 64) = false → residLost s addr (jobMode j) j.elems = none →
              Completes (.flush q n) s fun t => active t ∧
              t.mem = (devWrite addr (residHeader j.ctx (jobMode j) j.elems 0) s).mem ∧
              (∃ w, work? t q n = some w ∧ w.flush = true ∧ w.job = some id ∧ w.sent = true) ∧
              ∃ j', job? t id = some j' ∧ j'.contributor = some (q, n) ∧ j'.doneSent = true)))))) ∧
  (∀ (p : PeerPkt) (body : List Byte) (s : State), s.sys.frozen = false →
    let id := pktJob p
    let src := pktSrc p
    (∀ e ∈ [((3 : Nat), Instr.contrib p), (5, .rankDone p)], PeerTaken e.1 p s body → job? s id = none →
      Completes e.2 s fun t => t = { s with work := { s.work with chain := { s.work.chain with
        withheld := s.work.chain.withheld ++ [p] } } }) ∧
    (∀ j, job? s id = some j →
      (PeerTaken 3 p s body →
        let g := groupOf (jobMode j) body
        let key := g.1
        let stays (r : Nat) : Prop := hasPassed j r key = false ∧ r ∉ j.mismatched ∧ r ∉ j.abortedRanks ∧ reachable s r = true
        g.2.1 = false → j.aborted = false → j.doneReported = false → key ∉ j.ended → j.seenFrom.contains src = true → pktLast p = true →
        s.work.chain.gathering = [] → j.buckets = [] → src ∈ ranksOf j.ranks → stays src →
        (∀ r, r ∈ ranksOf j.ranks → r ≠ src → stays r → Completes (.contrib p) s fun t => ∃ j' b, job? t id = some j' ∧
          j'.released = j.released ∧ Tab.get? j'.buckets key = some b ∧
          Tab.get? b.slots src = some { state := .filled, data := some g.2.2.1 } ∧
          (Tab.get? b.slots r).map RankSlot.state = some .opened ∧ t.tasks = s.tasks ∧ t.mem = s.mem ∧ t.work.tbl = s.work.tbl) ∧
        ((∀ r ∈ ranksOf j.ranks, r ≠ src → hasPassed j r key = true ∧ r ∉ j.mismatched) → Completes (.contrib p) s fun t =>
          ∃ j', job? t id = some j' ∧ Tab.get? j'.buckets key = none ∧ key ∈ j'.ended ∧ j'.missing = j.missing ∧
            (checkedElems key j.elems = [] → j'.released = satAdd 32 j.released 1) ∧
            (j'.released = satAdd 32 j.released 1 ∨ j'.checkFailed = satAdd 16 j.checkFailed 1))) ∧
      (PeerTaken 5 p s body → Completes (.rankDone p) s fun t => ∃ j', job? t id = some j' ∧ src ∈ j'.ranksDone ∧
        (bitsOf (ofBytes (body.take 16)) 0 1 = 1 → src ∈ j'.abortedRanks) ∧
        (j.seenFrom.contains src = false → bitsOf (ofBytes (body.take 16)) 32 32 ≠ j.crc → src ∈ j'.mismatched ∧ src ∈ j'.abortedRanks)) ∧
      (PeerTaken 6 p s body →
        (bitsOf (ofBytes (body.take 16)) 1 1 = 0 → Completes (.combinerDone p) s fun t => t.tasks = s.tasks ∧ t.mem = s.mem ∧
          ∃ j', job? t id = some j' ∧ src ∈ j'.combinersDone ∧ j'.buckets = j.buckets) ∧
        (∀ x, bitsOf (ofBytes (body.take 16)) 1 1 = 1 → task? s j.queue j.seq = some x → x.queue = j.queue → x.seq = j.seq →
          x.state = .active → Completes (.combinerDone p) s fun t =>
            ∃ y, task? t j.queue j.seq = some y ∧ y.state = .failed ∧ y.status = .jobConfigMismatch)) ∧
      (PeerTaken 4 p s body →
        let g := resultOf body
        j.array = false → j.aborted = false → pktLast p = true → s.work.chain.gathering = [] →
        (j.contributor = none → Completes (.resultPkt p) s fun t => t.tasks = s.tasks ∧ t.mem = s.mem ∧ t.work.tbl = s.work.tbl ∧
          job? t id = some { j with results := j.results ++ [g] }) ∧
        (∀ q n w, j.contributor = some (q, n) → work? s q n = some w → keyBound s w g.key = true →
          (dirIndex w g.key = none ∨ (openEntry w g.key).isSome = true) → (boundProgram w (keyHandle g.key)).isSome = true →
          (g.nonfinite = 0 ∨ w.skipRow = false) →
          Completes (.resultPkt p) s fun t => t.tasks = s.tasks ∧ t.mem = s.mem ∧ t.work.tbl = s.work.tbl ∧
            ∃ w', work? t q n = some w' ∧ w'.ready = w.ready ++ [g] ∧ w'.ovf = w.ovf + g.ovf))) ∧
    (CtlTaken .resend p s body →
      let id := bitsOf (ctlHead body) 16 16
      let key := bitsOf (ctlHead body) 64 64
      (job? s id = none → Completes (.bucketResendRequest p) s fun t => t.work.tbl = s.work.tbl ∧ t.tasks = s.tasks ∧
        t.work.chain.flows = s.work.chain.flows) ∧
      (∀ j q n w b, job? s id = some j → j.contributor = some (q, n) → work? s q n = some w → Tab.get? w.local' key = some b →
        combinerOf s j key ≠ me s → Completes (.bucketResendRequest p) s fun t => t.tasks = s.tasks ∧ t.mem = s.mem ∧
          t.work.tbl = s.work.tbl ∧ ∃ payload, PeerSentLast t (combinerOf s j key) id 3 payload))) ∧
  (∀ (id : Nat) (j : Job) (s : State), s.sys.frozen = false → job? s id = some j →
    (∀ key rank b sl, Tab.get? j.buckets key = some b → Tab.get? b.slots rank = some sl →
      let slotIs (st : SlotState) (t : State) : Prop := ∃ j' b' sl', job? t id = some j' ∧ Tab.get? j'.buckets key = some b' ∧
        Tab.get? b'.slots rank = some sl' ∧ sl'.state = st
      let ends (t : State) : Prop := ∃ j', job? t id = some j' ∧ Tab.get? j'.buckets key = none ∧
        j'.missing = satAdd 32 j.missing 1 ∧ j'.released = j.released ∧ j'.firstMissing.isSome = true ∧ rank ∈ j'.missed ∧ key ∈ j'.ended
      let waits := ∃ r u, r ≠ rank ∧ Tab.get? b.slots r = some u ∧ u.state = .opened
      let settled := ∀ e ∈ b.slots, e.1 = rank ∨ e.2.state = .filled ∨ e.2.state = .closed
      (∀ a, sl.state = .opened → j.backups.getD rank none = some a → Tab.get? b.backups rank = none →
        (hasPassed j a key = false ∨ a ∈ b.asked) → Completes (.slotDeadline id key rank) s fun t =>
          slotIs .late t ∧ t.tasks = s.tasks ∧ t.mem = s.mem) ∧
      (sl.state = .opened → j.backups.getD rank none = none → waits → Completes (.slotDeadline id key rank) s (slotIs .missing)) ∧
      (sl.state = .opened → j.backups.getD rank none = none → settled → (b.slots.map Prod.fst).Nodup →
        Completes (.slotDeadline id key rank) s ends) ∧
      (sl.state = .late → waits → Completes (.backupDeadline id key rank) s (slotIs .missing)) ∧
      (sl.state = .late → settled → (b.slots.map Prod.fst).Nodup → Completes (.backupDeadline id key rank) s ends)) ∧
    (∀ c,
      (((combiners s j).contains c = false ∨ reachable s c = true ∨ waitsOn s id j c = false) →
        exec (.combinerUnreachableDeadline id c) s = .next s) ∧
      ((combiners s j).contains c = true → reachable s c = false → waitsOn s id j c = true →
        Completes (.combinerUnreachableDeadline id c) s fun t => job? t id = some { j with lost := insertNew c j.lost } ∧
          t.mem = s.mem ∧ ∀ q n x, j.contributor = some (q, n) → task? s q n = some x → x.queue = q → x.seq = n → x.state = .active →
            ∃ y, task? t q n = some y ∧ y.state = .failed ∧ y.status = .chainUnreachable)))

/-- TASK_BEGIN, PROBE_REQ and TASK_END (R273 to R275). The packets' layouts are the model's own (log entry 16). -/
def Obligations.RemoteLookupsArePooled : Prop :=
  ∀ (p : PeerPkt) (body : List Byte) (s : State), s.sys.frozen = false →
    let k := remoteKey (pktSrc p) (pktJob p)
    let same (t : State) : Prop := t.tasks = s.tasks ∧ t.mem = s.mem ∧ t.hostMem = s.hostMem ∧ t.ranges = s.ranges ∧
      t.queues = s.queues ∧ t.ctxs = s.ctxs
    let others (t : State) : Prop := ∀ i, i ≠ k → Tab.get? t.work.chain.remotes i = Tab.get? s.work.chain.remotes i
    (CtlTaken .taskBegin p s body →
      let x := remoteOf p body
      let head := ctlHead body
      (x.seq = bitsOf head 32 32 ∧ x.elems = bitsOf head 16 16 + 1 ∧ x.poolMode = bitsOf head 8 4 ∧ x.replyTo = bitsOf head 64 4 ∧
        x.held = [] ∧ x.frames = []) ∧
      (namesRetired s x = true → Completes (.taskBegin p) s fun t => same t ∧ t.work.tbl = s.work.tbl ∧
        t.work.chain.remotes = s.work.chain.remotes ∧
        PeerSentLast t x.replyTo x.replyTag 10 (ctlBytes .genRetired 0 0 x.seq 0 [])) ∧
      (namesRetired s x = false → Completes (.taskBegin p) s fun t => same t ∧ t.work.tbl = s.work.tbl ∧ others t ∧
        Tab.get? t.work.chain.remotes k = some x)) ∧
    (PeerTaken 1 p s body →
      (Tab.get? s.work.chain.remotes k = none → Completes (.probeReq p) s fun t => t = pktAccept p s ∧ same t) ∧
      (∀ x, Tab.get? s.work.chain.remotes k = some x →
        let weighted := decide (x.poolMode = 2)
        let group := poolGroup x.poolMode x.plain
        (remoteReady s x = false → Completes (.probeReq p) s fun t => same t ∧ others t ∧
          t.work.tbl = s.work.tbl ∧ Tab.get? t.work.chain.remotes k = some { x with held := x.held ++ [(pktLast p, body)] }) ∧
        (∀ key refs tb, x.held = [] → remoteReady s x = true → pktLast p = false → probeRows weighted body.length body = [(key, refs)] →
          tbl? s (keyHandle key) = some tb →
          let gen := remoteGen x (keyHandle key)
          let reader := 2 ^ 64 + k
          let quiet (x' : RemoteTask) (t : State) : Prop := same t ∧ others t ∧ t.work.tbl = s.work.tbl ∧
            Tab.get? t.work.chain.remotes k = some x'
          let inRange := keyIndex key ≤ tdRowLimit tb.desc ∧ tdElems tb.desc = x.elems
          (¬ inRange → Completes (.probeReq p) s fun t => same t ∧ others t ∧ t.work.tbl = s.work.tbl ∧
            Tab.get? t.work.chain.remotes k = some { x with
              beyond := refs.foldl (fun n r => Tab.put n r.bag (Tab.getD n r.bag 0 + 1)) x.beyond }) ∧
          (∀ d, inRange → strayOwner s key = some d → Completes (.probeReq p) s fun t => same t ∧ others t ∧
            t.work.tbl = s.work.tbl ∧ Tab.get? t.work.chain.remotes k = some { x with
              passing := Tab.put x.passing d (Tab.getD x.passing d [] ++ [probeEntry weighted key refs]) }) ∧
          (inRange → strayOwner s key = none →
            (readFor s key gen = .lost → Completes (.probeReq p) s fun t => quiet x t ∧
              PeerSentLast t x.replyTo x.replyTag 10
                (ctlBytes .genRetired 1 0 x.seq (lostWord s key gen).1 (toBytes 4 (lostWord s key gen).2))) ∧
            (readFor s key gen = .away → Completes (.probeReq p) s fun t => quiet x t ∧
              PeerSentLast t x.replyTo x.replyTag 10 (ctlBytes .genRetired 2 0 x.seq key [])) ∧
            (readFor s key gen = .wait → Completes (.probeReq p) s
              (quiet { x with held := [(false, probeEntry weighted key refs)] })) ∧
            (∀ data bytes s1 s2 r c, refs = [r] → takeRead reader key gen none (pktAccept p s) = (.got data bytes, s1) →
              enterRow reader key gen (!x.seen.contains key) bytes s1 = (true, s2) → (∀ y ∈ x.pooled, y.1 ≠ key) →
              (∀ u ∈ [s1, s2], (homesFor u key gen data).head? = some c ∧ enginesRun u c = true ∧ accumRoom u c (freshBytes x c [r]) = true) →
              let f := frameAdd group x.elems (r.bag * 512 + c) (key % 2048) r.slot
                (poolTerms (shapeOf tb.desc) data weighted r) (x.frames, x.engines)
              Completes (.probeReq p) s fun t => t.tasks = s.tasks ∧ others t ∧ Tab.get? t.work.chain.remotes k = some { x with
                frames := f.1, engines := f.2, pooled := x.pooled ++ [(key, refs)], seen := insertNew key x.seen }))) ∧
        (x.held = [] → remoteReady s x = true → pktLast p = true → probeRows weighted body.length body = [] →
          (∀ bag c b, c < 512 → x.frames = [(bag * 512 + c, b)] → x.beyond = [] → x.passing = [] →
            let part := closeFrame group x.elems (bag * 512 + c) (x.frames, x.engines)
            let out := if group = 0 then (renormBucket (mergeBucket (emptyBucket 0 x.elems) part), 0) else (part, c)
            Completes (.probeReq p) s fun t => same t ∧ others t ∧ t.work.tbl = s.work.tbl ∧
              Tab.get? t.work.chain.remotes k = some { x with frames := [], engines := [], pooled := [] } ∧
              ∀ e, (groupPackets bag out.1 false out.2 true).getLast? = some e → PeerSentLast t x.replyTo x.replyTag 2 e) ∧
          (∀ d es e, x.frames = [] → x.beyond = [] → x.passing = [(d, es)] → reachable s d = true → es.getLast? = some e →
            let tag := s.work.chain.nextTag % 4095
            Completes (.probeReq p) s fun t => same t ∧ others t ∧ t.work.tbl = s.work.tbl ∧
              Tab.get? t.work.chain.remotes k = some { x with engines := [], pooled := [], passing := [], forwards := Tab.put x.forwards d tag } ∧
              PeerSentLast t d tag 1 e)))) ∧
    (CtlTaken .taskEnd p s body →
      (Tab.get? s.work.chain.remotes k = none → Completes (.taskEnd p) s fun t => t = pktAccept p s) ∧
      (∀ x, Tab.get? s.work.chain.remotes k = some x → Completes (.taskEnd p) s fun t => same t ∧ others t ∧
        t.work.tbl = s.work.tbl ∧ Tab.get? t.work.chain.remotes k = none ∧
        ∀ d tag, x.forwards = [(d, tag)] → PeerSentLast t d tag 10 (ctlBytes .taskEnd 0 0 x.seq 0 [])))

/-- The rows of CXL and debug traffic, expander links and peer links. A CXL.mem response takes no credit, and the headers' size of one
credit is the family's (PRESUMED in the log). -/
def Obligations.PortsServeAndLinksChange : Prop :=
  (∀ (m : Nat) (s : State), s.sys.frozen = false →
    (∀ r : CxlReq,
      let n := if r.write then r.data.length else r.len
      let ctx := cxlContext s m
      let base := (ucieOf s m).hdmBase
      let a := r.addr - base
      let right : Right := if r.write then .w else .r
      let credit := OutMsg.control m (creditMsg 1 0 (1 + (if r.write then unitsOfMsg r.data else 0)))
      let refused (kind : Nat) : Prop := Completes (.cxlMemRequest m r) s fun t => SameButReports s t ∧
        (s.sent ++ [credit, .control m (controlMsg 8 0 [(16, 16, kind - 2), (64, 16, r.tag)])]) <+: t.sent ∧
        t.fq.recordSeq = seqNext 32 s.fq.recordSeq
      (carries s m 1 = false → exec (.cxlMemRequest m r) s = .next s) ∧
      (carries s m 1 = true → n ≠ 0 →
        (r.addr < base → refused 3) ∧
        (∀ kind at', base ≤ r.addr → accessFault s ctx right a n = some (kind, at') → refused kind) ∧
        (∀ b g, base ≤ r.addr → accessFault s ctx right a n = none → rangeAt s a n = some (b, g) →
          (g.kind = .peer → Completes (.cxlMemRequest m r) s fun t => t.mem = s.mem ∧ t.tasks = s.tasks ∧
            PeerSentLast t g.chainAddr windowJob 9 (windowHead (if r.write then 3 else 1) 0 0 g.windowId (g.hostStart + (a - b)) n ++
              (if r.write then r.data else [])) ∧
            t.work.chain.windowReqs = Tab.put s.work.chain.windowReqs s.work.chain.nextTag
              { transfer := 0, dst := g.chainAddr, cxl := some (m, r.tag) }) ∧
          (g.kind ≠ .peer → endUnreachable s a = false → needsHost s a n = false →
            (r.write = false → areaFenced s a n = none → Completes (.cxlMemRequest m r) s fun t =>
              t = { s with links := t.links, sent := s.sent ++ [credit, .cxlData m r.tag (devRead s a n)] }) ∧
            (∀ loc, r.write = false → areaFenced s a n = some loc → Completes (.cxlMemRequest m r) s fun t =>
              t = { s with links := t.links
                           sent := s.sent ++ [credit, .control m (controlMsg 8 0 [(16, 16, 4), (64, 16, r.tag)])] }) ∧
            (r.write = true → Completes (.cxlMemRequest m r) s fun t =>
              t = { s with mem := (devWrite a r.data s).mem, hostMem := (devWrite a r.data s).hostMem, links := t.links
                           faults := (clearFences a n s).faults, sent := s.sent ++ [credit, .cxlDone m r.tag] }))))) ∧
    (∀ base,
      (carries s m 3 = false → exec (.cxlIoTlp m base) s = .next s) ∧
      (carries s m 3 = true → Completes (.cxlIoTlp m base) s fun t => (ucieOf t m).hdmBase = base ∧
        t = { s with links := t.links, sent := s.sent ++ [.control m (creditMsg 3 0 2)] }))) ∧
  (∀ (m off : Nat) (value : Word64) (s : State),
    let run (write : Bool) := Instr.ucieDebugAccess m off write value
    (∀ w, carries s m 5 = false → exec (run w) s = .next s) ∧
    (∀ w, carries s m 5 = true → s.sys.cfg.ucieDebug = false → Completes (run w) s fun t => t = { s with counters := t.counters } ∧
      counterVal t Ctr.ucieDebugDiscarded.index = satAdd 64 (counterVal s Ctr.ucieDebugDiscarded.index) 1) ∧
    (carries s m 5 = true → s.sys.cfg.ucieDebug = true → off % 8 = 0 → off < 4096 →
      let credit := OutMsg.control m (creditMsg 5 0 1)
      let word := if off = 8 then s.dbg.index.toNat
        else if off = 0 then s.dbg.selector.toNat + s.dbg.ctx.toNat * 2 ^ 16 + s.dbg.offset.toNat * 2 ^ 40
        else if 256 ≤ off then ofBytes (sliceBytes s.dbg.snapshot (s.dbg.offset.toNat + (off - 256)) 8)
        else windowRead s off
      (Completes (run false) s fun t =>
        t = { s with links := t.links, sent := s.sent ++ [credit, .debugReply m off (BitVec.ofNat 64 word)] }) ∧
      (off = 0 → Completes (run true) s fun t => t = { s with
        links := t.links, sent := s.sent ++ [credit]
        dbg := { s.dbg with selector := BitVec.ofNat 16 value.toNat, ctx := BitVec.ofNat 8 (value.toNat / 2 ^ 16)
                            offset := BitVec.ofNat 24 (value.toNat / 2 ^ 40) } }) ∧
      (off = 8 → Completes (run true) s fun t => t = { s with
        links := t.links, sent := s.sent ++ [credit], dbg := { s.dbg with index := value } }) ∧
      (off = 16 → value.toNat.testBit 0 = true → s.sys.engState ≠ .reset → windowSelector s s.dbg.selector.toNat = false →
        Completes (run true) s fun t => t = { s with
          links := t.links, sent := s.sent ++ [credit]
          dbg := { s.dbg with status := BitVec.ofNat 16 Status.badSelector.code, length := 0, snapshot := [] } }))) ∧
  (∀ (port : Nat) (s : State), s.sys.frozen = false →
    let l := expander s port
    let others (t : State) : Prop := ∀ p, p ≠ port → expander t p = expander s p
    (l.up = false → exec (.expanderLinkDown port) s = .next s) ∧
    (l.up = true → Completes (.expanderLinkDown port) s fun t =>
      expander t port = { l with up := false, lanes := 0 } ∧ others t ∧ LastEvent t .linkDegraded (linkFields 5 port l.lanes 0 0) ∧
      (s.streams.transfers = [] → migrateJobs s = [] → SameButReports { s with links := { s.links with expanders := t.links.expanders } } t) ∧
      (∀ id tr x, s.streams.transfers = [(id, tr)] → tr.issued = true → 8 + port ∈ transferPorts s tr → migrateJobs s = [] →
        task? s tr.queue tr.seq = some x → x.queue = tr.queue → x.seq = tr.seq → x.state = .active →
        transfer? t id = none ∧
        ∃ y, task? t tr.queue tr.seq = some y ∧ y.state = .failed ∧ y.status = .tierUnavailable)) ∧
    ((l.up = true ∨ Tab.has s.links.expanders port = false) → exec (.expanderLinkUp port) s = .next s) ∧
    (l.up = false → Tab.has s.links.expanders port = true → Completes (.expanderLinkUp port) s fun t =>
      expander t port = { l with up := true, lanes := 8 } ∧ others t ∧
      t = { s with links := { s.links with expanders := t.links.expanders } }) ∧
    (∀ lanes, l.up = true → lanes ≠ 0 → lanes ≤ 8 → lanes ≠ l.lanes → Completes (.expanderLinkDegrade port lanes) s fun t =>
      expander t port = { l with lanes := lanes } ∧ others t ∧ LastEvent t .linkDegraded (linkFields 5 port l.lanes lanes 0) ∧
      SameButReports { s with links := { s.links with expanders := t.links.expanders } } t ∧
      t.fq.recordSeq = (if lanes < l.lanes then seqNext 32 s.fq.recordSeq else s.fq.recordSeq))) ∧
  (∀ (port : Nat) (s : State), s.sys.frozen = false →
    let l := peerLink s port
    let others (t : State) : Prop := ∀ p, p ≠ port → peerLink t p = peerLink s p
    let resent (lanes : Nat) (up : Bool) (t : State) : Prop := ∀ dst job f p q, s.work.chain.flows = [(flowKey dst job, f)] → job < 4096 →
      f.unacked = [p] → (p.gone = false ∨ routePort s dst ≠ none) → routePort (markLink port lanes up s) dst = some q →
      routePort s dst ≠ some q → OutMsg.peer q p.hdr p.payload ∈ t.sent
    let held : Prop := s.work.chain.token = true ∧ s.work.chain.offered = some port
    let told (lanes : Nat) (up : Bool) (t : State) : Prop :=
      let m := markLink port lanes up s
      let ws := portLinks port lanes up m
      t.work.chain.links = m.work.chain.links ∧ (s.work.chain.valid = true → ∀ d ∈ otherDevices s, PeerSentLast t d 4095 10
        (ctlBytes .chainTable 0 s.work.chain.size s.work.chain.epoch.toNat ws.length (ws.flatMap fun w => toBytes 4 w.toNat)))
    let calm (lanes : Nat) (up : Bool) (t : State) : Prop :=
      s.work.idx.lookups = [] → s.work.chain.jobs = [] → s.work.chain.installing = [] → t.tasks = s.tasks ∧ t.mem = s.mem ∧
        t.work.tbl = s.work.tbl ∧ t.work.idx = s.work.idx ∧ t.work.upd = s.work.upd ∧
        (s.work.chain.valid = false → s.work.chain.flows = [] → t.work = (markLink port lanes up s).work)
    (l.up = true → Completes (.peerLinkDown port) s fun t =>
      peerLink t port = { l with up := false, lanes := 0 } ∧ others t ∧ LastEvent t .linkDegraded (linkFields 3 port l.lanes 0 0) ∧
      resent 0 false t ∧ (held → t.work.chain.offered ≠ some port) ∧ (¬held → told 0 false t ∧ calm 0 false t) ∧
      (∀ q n w x key, s.work.idx.lookups = [(tid q n, w)] → n < 2 ^ 32 → task? s q n = some x → x.queue = q → x.seq = n →
        x.state = .active → ¬held →
        strandedKey (markLink port 0 false s) w = some key → ∃ y, task? t q n = some y ∧ y.state = .failed ∧ y.status = .tierUnavailable)) ∧
    (∀ lanes, l.up = false → roleOf s.sys.cfg.roleTable port = 3 → lanes ∈ [4, 8, 16] → 11 ≤ s.sys.bootStep →
      Completes (.peerLinkUp port lanes) s fun t => peerLink t port = { l with up := true, lanes := lanes } ∧ others t ∧
        resent lanes true t ∧ told lanes true t ∧ calm lanes true t) ∧
    (∀ lanes, l.up = true → lanes ∈ [4, 8] → lanes < l.lanes → Completes (.peerLinkDegrade port lanes) s fun t =>
      peerLink t port = { l with lanes := lanes } ∧ others t ∧ LastEvent t .linkDegraded (linkFields 3 port l.lanes lanes 0) ∧
      told lanes true t ∧ calm lanes true t ∧ (s.work.chain.jobs = [] → t.fq.recordSeq = seqNext 32 s.fq.recordSeq)))

/-- What holds of every packet row, and the rows of flows and links (R257, R258, R266, R269, R417). CONTROL layouts are the model's own
(log entry 16). -/
def Obligations.PeerPacketsFollowTheirFlow : Prop :=
  ∀ (p : PeerPkt) (s : State), s.sys.frozen = false →
    let src := pktSrc p
    let key := flowKey src (pktJob p)
    let kind := bitsOf (ctlHead p.payload) 0 8
    let open' : Prop := (job? s (pktJob p)).isSome = true
    let ended : Prop := open' ∨ s.work.chain.jobsOver.contains (pktJob p) = true
    let window (op : Nat) : Prop := pktType p = 9 ∧ bitsOf (ctlHead p.payload) 0 4 = op ∧ windowBad (ctlHead p.payload) = false
    let control (k : Ctl) : Prop := pktType p = 10 ∧ kind = k.code
    let rows : List (Instr × Prop × Prop) :=
      [(.probeReq p, pktType p = 1, True), (.partialPkt p, pktType p = 2, True), (.contrib p, pktType p = 3, open'),
       (.resultPkt p, pktType p = 4, ended), (.rankDone p, pktType p = 5, open'), (.combinerDone p, pktType p = 6, ended),
       (.movePkt p, pktType p = 7, True), (.mapUpdate p, pktType p = 8, True), (.readReq p, window 1, True),
       (.readData p, window 2, True), (.windowWrite p, window 3, True), (.windowMemop p, window 4, True), (.writeAck p, window 5, True),
       (.taskBegin p, control .taskBegin, True), (.taskEnd p, control .taskEnd, True), (.codeNotice p, control .codeNotice, True),
       (.publishRelay p, control .relay, True), (.relayReport p, control .relayReport, True), (.loadReport p, control .loadReport, True),
       (.shardMapInstalled p, control .mapInstalled, True), (.uncodedResendRequest p, control .uncoded, True),
       (.bucketResendRequest p, control .resend, True), (.generationRetiredAnswer p, control .genRetired, True),
       (.chainTable p.port p.hdr p.payload, control .chainTable ∧ awaitsTable s p = false, True)]
    let out (dst : Nat) (hdr : Word128) (bs : List Byte) : List OutMsg := match routePort s dst with
      | some q => [.peer q hdr bs]
      | none => []
    let ackHdr (seq : Nat) := peerHeader 11 s.work.chain.addr src (pktJob p) 0 seq 0 0 true none
    let highest := (Tab.getD s.work.chain.accepted key 0 + 2 ^ 32 - 1) % 2 ^ 32
    (peerUp s p.port = true → s.work.chain.valid = true → pktBad p = false →
      (∀ e ∈ rows, e.2.1 →
        (pktDst p ≠ s.work.chain.addr → exec e.1 s = .next { s with sent := s.sent ++ out (pktDst p) p.hdr p.payload }) ∧
        (pktDst p = s.work.chain.addr → pktOld s p = true → exec e.1 s = .next { s with sent := s.sent ++ out src (ackHdr highest) [] }) ∧
        (pktDst p = s.work.chain.addr → e.2.2 → pktOld s p = false → pktAhead s p = true → exec e.1 s = .next s) ∧
        (pktDst p = s.work.chain.addr → e.2.2 → pktOld s p = false → pktAhead s p = false → pktBody s p = none →
          Completes e.1 s fun t => t = { s with work := t.work, sent := t.sent, counters := t.counters } ∧
            t.work.chain.accepted = s.work.chain.accepted ∧ t.work.tbl = s.work.tbl ∧
            counterVal t Ctr.peerDecodeRetries.index = satAdd 64 (counterVal s Ctr.peerDecodeRetries.index) 1 ∧
            PeerSentLast t src 4095 10 (ctlBytes .uncoded 0 (pktJob p) (pktSeq p) 0 []))) ∧
      (pktType p = 11 → pktDst p = s.work.chain.addr → ∀ f, Tab.get? s.work.chain.flows key = some f →
        Completes (.ack p) s fun t =>
          Tab.get? t.work.chain.flows key = some { f with unacked := f.unacked.filter fun x => seqBefore 32 (pktAux p) x.seq } ∧
          (∀ k, k ≠ key → Tab.get? t.work.chain.flows k = Tab.get? s.work.chain.flows k) ∧ t.mem = s.mem ∧ t.tasks = s.tasks ∧
          t.work.tbl = s.work.tbl ∧
          (∀ x r ctx slot, f.unacked = [x] → seqBefore 32 (pktAux p) x.seq = false → s.mbx.running = some r →
            r.wait = .codeRelease ctx slot → bit x.hdr 40 = true → bits x.hdr 32 8 = ctx → bits x.hdr 41 2 = slot →
            codeRefs { s with work := { s.work with chain := { s.work.chain with
              flows := Tab.put s.work.chain.flows key { f with unacked := [] } } } } ctx slot = 0 → JobEnds r .ok t))) ∧
    (peerUp s p.port = true → s.work.chain.valid = true → (pktBad p = true ∨ windowPktBad p = true ∨ groupPktBad s p = true) →
      let counted (seq : Nat) (t : State) : Prop := t = { s with work := t.work, sent := s.sent ++ out src (ackHdr seq) [], counters := t.counters } ∧
        counterVal t Ctr.peerBadPackets.index = satAdd 64 (counterVal s Ctr.peerBadPackets.index) 1
      (pktDst p ≠ s.work.chain.addr → exec (.peerBadPacket p) s = .next { s with sent := s.sent ++ out (pktDst p) p.hdr p.payload }) ∧
      (pktDst p = s.work.chain.addr → pktOld s p = true → Completes (.peerBadPacket p) s fun t => counted highest t ∧ t.work = s.work) ∧
      (pktDst p = s.work.chain.addr → pktOld s p = false → pktAhead s p = true → exec (.peerBadPacket p) s = .next s) ∧
      (pktDst p = s.work.chain.addr → pktOld s p = false → pktAhead s p = false → Completes (.peerBadPacket p) s fun t => counted (pktSeq p) t ∧
        t.work = { s.work with chain := { s.work.chain with
          accepted := Tab.put s.work.chain.accepted key (seqNext 32 (pktSeq p)) } })) ∧
    (∀ body,
      let k := src * 256 + pktCtx p
      let h := ctlHead body
      (CtlTaken .codeNotice p s body → Completes (.codeNotice p) s fun t => t = { s with work := t.work, sent := t.sent } ∧
        t.work = { s.work with chain := { s.work.chain with notices := t.work.chain.notices, accepted := t.work.chain.accepted } } ∧
        (bitsOf h 8 8 = 1 → Tab.get? t.work.chain.notices k = some (bitsOf h 16 16, bitsOf h 32 32)) ∧
        (bitsOf h 8 8 ≠ 1 → Tab.get? t.work.chain.notices k = none) ∧
        (∀ i, i ≠ k → Tab.get? t.work.chain.notices i = Tab.get? s.work.chain.notices i)) ∧
      (CtlTaken .uncoded p s body →
        let fk := flowKey src (bitsOf h 16 16)
        (∀ f, Tab.get? s.work.chain.flows fk = some f → (f.unacked.find? fun x => decide (x.seq = bitsOf h 32 32)) = none →
          Completes (.uncodedResendRequest p) s fun t => t = pktAccept p s) ∧
        (∀ f x q, Tab.get? s.work.chain.flows fk = some f → (f.unacked.find? fun x => decide (x.seq = bitsOf h 32 32)) = some x →
          routePort s src = some q →
          let hdr := peerHeader (bits x.hdr 0 4) (bits x.hdr 4 4) (bits x.hdr 8 4) (bits x.hdr 16 12) (bits x.hdr 32 8) 0 x.seq
            (x.raw.length / 16) (bit x.hdr 43) none
          Completes (.uncodedResendRequest p) s fun t => OutMsg.peer q hdr x.raw ∈ t.sent ∧ t.mem = s.mem ∧ t.tasks = s.tasks ∧
            t.work.tbl = s.work.tbl ∧ Tab.get? t.work.chain.flows fk = some { f with
              unacked := f.unacked.map fun y => if y.seq = x.seq then { x with hdr := hdr, payload := x.raw } else y }))) ∧
    (∀ (port : Nat) (ws : List CodeWord), (peerLink s port).up = true → ws.length = 16 →
      (lostIn ws ≠ [] → exec (.peerFlitReceive port ws) s = .next { s with sent := s.sent ++ [.peerResend port] }) ∧
      (lostIn ws = [] → Completes (.peerFlitReceive port ws) s fun t => t = { s with counters := t.counters, faults := t.faults } ∧
        t.faults = { s.faults with sinceSummary := t.faults.sinceSummary } ∧
        (correctedIn ws ≠ [] → counterVal t (corrIndex .peer) = satAdd 64 (counterVal s (corrIndex .peer)) (correctedIn ws).length) ∧
        (correctedIn ws = [] → t = s)))

/-- ATS and PRI at the host port (R336 to R341). That a Response Failure ends the tasks of every entry, and that the tasks end ABORTED
with STREAM_FAULT, are the model's readings (DEDUCED in the log). -/
def Obligations.TranslationsAndPageRequests : Prop :=
  ∀ (s : State), s.sys.frozen = false →
    let aborted (t : State) (tr : Transfer) : Prop := ∃ y, task? t tr.queue tr.seq = some y ∧ y.state = .aborted ∧ y.status = .streamFault
    let live' (tr : Transfer) : Prop := ∃ x, task? s tr.queue tr.seq = some x ∧ x.queue = tr.queue ∧ x.seq = tr.seq ∧ x.state = .active
    (∀ r : AtsReply,
      let covers (q : Nat × Nat) : Bool :=
        decide (q.1 = r.pasid) && decide (r.hostAddr ≤ 4096 * q.2) && decide (4096 * q.2 < r.hostAddr + r.len)
      (s.ats.requests.find? covers = none → exec (.atsTranslationComplete r) s = .next s) ∧
      (∀ q, s.ats.requests.find? covers = some q → hostUp s = true →
        let kept := installCopy r { s with ats := { s.ats with requests := dropFirst (fun e => decide (e = q)) s.ats.requests } }
        (s.streams.transfers = [] → s.ats.outFaults = [] → Completes (.atsTranslationComplete r) s fun t => t = kept ∧
          t = { s with ats := { s.ats with requests := dropFirst (fun e => decide (e = q)) s.ats.requests, copies := t.ats.copies } } ∧
          (r.read = false → r.write = false → t.ats.copies = s.ats.copies) ∧
          ((r.read = true ∨ r.write = true) →
            (∀ ha w, r.hostAddr ≤ ha → ha < r.hostAddr + r.len → hasCopy t r.pasid ha w = (if w then r.write else r.read)) ∧
            (∀ c ∈ s.ats.copies, c.pasid ≠ r.pasid → s.ats.copies.length < 32768 → c ∈ t.ats.copies))) ∧
        (∀ id tr, s.streams.transfers = [(id, tr)] → s.ats.outFaults = [] → tr.stalled = true →
          (transferNeed kept tr = none → Completes (.atsTranslationComplete r) s fun t => t.tasks = s.tasks ∧ t.mem = s.mem ∧
            transfer? t id = some { tr with stalled := false } ∧ t.ats = kept.ats) ∧
          (∀ need, transferNeed kept tr = some need → need.migrate = false → (need.space, need.page) = q →
            ((need.pinned = true ∨ s.ats.priEnabled = false) → live' tr → Completes (.atsTranslationComplete r) s fun t =>
              aborted t tr) ∧
            (need.pinned = false → s.ats.priEnabled = true → fqFull s.fq = false → live' tr →
              Completes (.atsTranslationComplete r) s fun t => t.tasks = s.tasks ∧ t.mem = s.mem ∧
                t.fq.recordSeq = seqNext 32 s.fq.recordSeq ∧ OutMsg.pageRequest q.1 q.2 (!need.write) need.write ∈ t.sent ∧
                ∃ k e, t.ats.outFaults = [(k, e)] ∧ e.space = q.1 ∧ e.hostPage = q.2 ∧ e.waiters = [id] ∧ e.requested = true ∧
                  e.devAddr = need.addr ∧ e.recorded = true))) ∧
        (∀ k e id tr, s.streams.transfers = [(id, tr)] → s.ats.outFaults = [(k, e)] → (e.space, e.hostPage) = q → e.migrate = false →
          e.recorded = true → e.requested = false → e.waiters = [id] → tr.stalled = true →
          (stillNeeds kept e id = false → transferNeed kept tr = none → Completes (.atsTranslationComplete r) s fun t =>
            t.ats.outFaults = [] ∧ t.tasks = s.tasks ∧ t.mem = s.mem ∧
            transfer? t id = some { tr with stalled := false }) ∧
          (stillNeeds kept e id = true → e.further = false →
            Completes (.atsTranslationComplete r) s fun t => t.tasks = s.tasks ∧ t.mem = s.mem ∧ t.ats.outFaults = [(k, { e with
              further := true, requested := true, accR := !needsWrite kept id, accW := needsWrite kept id })] ∧
              OutMsg.pageRequest q.1 q.2 (!needsWrite kept id) (needsWrite kept id) ∈ t.sent) ∧
          (stillNeeds kept e id = true → e.further = true → live' tr → Completes (.atsTranslationComplete r) s fun t => aborted t tr)))) ∧
    (∀ k e, requestedEntry s k = some e →
      (¬ (s.ats.requests.contains (e.space, e.hostPage) = true ∨ 1024 ≤ s.ats.requests.length) →
        Completes (.priResponse k 0) s fun t => t = { s with ats := t.ats, sent := s.sent ++ [.atsRequest e.space e.hostPage] } ∧
          Tab.get? t.ats.outFaults k = some { e with requested := false } ∧
          t.ats.requests = s.ats.requests ++ [(e.space, e.hostPage)] ∧
          (∀ w, hasCopy t e.space (4096 * e.hostPage) w = false) ∧
          (∀ c ∈ s.ats.copies, c.pasid ≠ e.space → c ∈ t.ats.copies)) ∧
      (∀ id tr, e.waiters = [id] → transfer? s id = some tr → live' tr →
        Completes (.priResponse k 1) s (fun t => aborted t tr ∧ t.ats.priEnabled = s.ats.priEnabled) ∧
        Completes (.priResponseTimeout k) s (fun t => aborted t tr ∧ t.ats.priEnabled = s.ats.priEnabled) ∧
        (∀ code, 2 ≤ code → s.ats.outFaults = [(k, e)] → Completes (.priResponse k code) s fun t => aborted t tr ∧
          t.ats.priEnabled = false))) ∧
    (∀ k code, requestedEntry s k = none → exec (.priResponse k code) s = .next s ∧ exec (.priResponseTimeout k) s = .next s) ∧
    exec .priEnable s = .next { s with ats := { s.ats with priEnabled := true } } ∧
    (∀ pasid,
      (hostUp s = true → Completes (.atsInvalidation pasid) s fun t => t = { s with ats := t.ats } ∧
        (∀ c, c ∈ t.ats.copies ↔ (c ∈ s.ats.copies ∧ pasid ≠ 0 ∧ c.pasid ≠ pasid)) ∧
        ∃ ids, t.ats = { s.ats with copies := t.ats.copies, invalidating := s.ats.invalidating ++ [(pasid, ids)] } ∧
          ∀ id, id ∈ ids ↔ ∃ tr, (id, tr) ∈ s.streams.transfers ∧ usesSpace s pasid tr = true) ∧
      (∀ e, hostUp s = true → (s.ats.invalidating.find? fun x => decide (x.1 = pasid)) = some e →
        ((∃ id ∈ e.2, (transfer? s id).isSome = true) → exec (.atsInvalidationComplete pasid) s = .next s) ∧
        ((∀ id ∈ e.2, transfer? s id = none) → Completes (.atsInvalidationComplete pasid) s fun t =>
          t = { s with sent := s.sent ++ [.atsInvalidationDone pasid]
                       ats := { s.ats with invalidating := dropFirst (fun x => decide (x = e)) s.ats.invalidating } })))

/-- Scrubbing, repair and bond flits (R420 to R460). A lost word that holds no row is fenced as it stands, and a lost flit that feeds no
task counts as sent again from its source: the model's readings (DEDUCED in the log). -/
def Obligations.WordsAreScrubbedAndRepaired : Prop :=
  (∀ (core word : Nat) (key : Option Nat) (read : CodeWord) (s : State), s.sys.frozen = false → 10 ≤ s.sys.bootStep →
    core / 2048 ∈ serviceClusters s → word < 384 → (∀ k, key = some k → wordHolds s core word k = true) →
    (lullOf s (core / 2048 % 256)).state < 2 →
    let run := Instr.patrolScrubBank core word key read
    let loc := locBank core word
    let replacing (t : State) : Prop := Tab.has t.faults.replacing core = true
    let mayReplace : Prop := s.faults.replacing = [] ∧ s.faults.leaving = [] ∧ spareList s (core / 2048) ≠ []
    let kept (t : State) : Prop := t.mem = s.mem ∧ t.tasks = s.tasks
    (decodeWord read = .good → exec run s = .next { s with faults := { s.faults with marks := Tab.del s.faults.marks loc } }) ∧
    (∀ j w, decodeWord read = .corrected j w →
      (counterVal s (corrIndex .bank) < 2 ^ 64 - 1 → Completes run s fun t =>
        counterVal t (corrIndex .bank) = counterVal s (corrIndex .bank) + 1 ∧ t = { s with counters := t.counters, faults := t.faults }) ∧
      (Tab.get? s.faults.marks loc ≠ some j → Completes run s fun t =>
        Tab.get? t.faults.marks loc = some j ∧ t.faults.hard = s.faults.hard) ∧
      (Tab.get? s.faults.marks loc = some j → Completes run s fun t => loc ∈ t.faults.hard ∧
        (mayReplace → 8 ≤ (t.faults.hard.filter fun l => inBank core l).length → replacing t))) ∧
    (decodeWord read = .uncorrectable →
      (key = none → Tab.has s.faults.fences loc = false → s.faults.fences.length < 65536 → Completes run s fun t => kept t ∧
        Tab.get? t.faults.fences loc = some s.fq.recordSeq ∧ t.fq.recordSeq = seqNext 32 s.fq.recordSeq ∧ t.work = s.work ∧
        (mayReplace → replacing t)) ∧
      (key = none → Tab.has s.faults.fences loc = false → 65536 ≤ s.faults.fences.length → Completes run s fun t => kept t ∧
        t.faults.fences = s.faults.fences ∧ LastEvent t .fenceTableFull 0) ∧
      (∀ k c, key = some k → (rowOf s k).t0 = some c → copyHolds s core word c = true →
        ((homeWord s word = false ∨ c.dirty = false ∨ c.shadow.isSome = true) → Completes run s fun t => kept t ∧ t.work = s.work ∧
          Tab.get? t.faults.rebuilds s.faults.nextRebuild = some { loc := loc, path := 2, key := some k } ∧
          (mayReplace → (∃ at', (core, at') ∈ s.faults.recent ∧ s.clock < at' + dayTicks) → replacing t)) ∧
        (homeWord s word = true → c.dirty = true → c.shadow = none → Completes run s fun t => kept t ∧
          (rowOf t k).fenced = true ∧ (rowOf t k).fencedBy = s.fq.recordSeq ∧ (∀ i, i ≠ k → rowOf t i = rowOf s i) ∧
          t.fq.recordSeq = seqNext 32 s.fq.recordSeq ∧ (mayReplace → replacing t))) ∧
      (∀ k d, key = some k → (rowOf s k).t0 = none → (rowOf s k).deltas = [d] → (d.shadow.isSome = true → Completes run s fun t => kept t ∧ t.work = s.work ∧
          Tab.get? t.faults.rebuilds s.faults.nextRebuild = some { loc := loc, path := 2, key := some k }) ∧
        (homeWord s word = true → d.shadow = none → (tbl? s (keyHandle k)).isSome = true → Completes run s fun t => kept t ∧
          (rowOf t k).fenced = (rowOf s k).fenced ∧
          (rowOf t k).deltas = [{ d with fenced := true, lostAt := loc, fencedBy := s.fq.recordSeq }] ∧
          (∀ i, i ≠ k → rowOf t i = rowOf s i) ∧ t.fq.recordSeq = seqNext 32 s.fq.recordSeq ∧ (mayReplace → replacing t))))) ∧
  (∀ (a : Nat) (w g : CodeWord) (s : State), s.sys.frozen = false → 10 ≤ s.sys.bootStep → a % 64 = 0 → inStack s a 64 = true →
    decodeWord g = .good →
    let run := Instr.patrolScrubHbm a [w, g, g, g]
    let kept (t : State) : Prop := t.mem = s.mem ∧ t.tasks = s.tasks ∧ t.faults.repairing = s.faults.repairing
    (decodeWord w = .good → Completes run s fun t => t = { s with faults := { s.faults with marks := t.faults.marks } } ∧
      ∀ i, i < 4 → Tab.get? t.faults.marks (locDev (a + 16 * i)) = none) ∧
    (∀ j x, decodeWord w = .corrected j x →
      (Tab.get? s.faults.marks (locDev a) ≠ some j → Completes run s fun t => kept t ∧ t.work = s.work ∧
        Tab.get? t.faults.marks (locDev a) = some j) ∧
      (Tab.get? s.faults.marks (locDev a) = some j → Completes run s fun t => a ∈ t.faults.repairing ∧ locDev a ∈ t.faults.hard ∧
        t.mem = s.mem ∧ t.work = s.work)) ∧
    (decodeWord w = .uncorrectable →
      (rowAt s a = none → deltaAt s a = none → Tab.has s.faults.fences (locDev a) = false → s.faults.fences.length < 65536 → Completes run s fun t => kept t ∧
        Tab.get? t.faults.fences (locDev a) = some s.fq.recordSeq ∧ t.work = s.work) ∧
      (∀ k, rowAt s a = some k → (rowOf s k).written = true → (rowOf s k).t0.isSome = true → Completes run s fun t => kept t ∧
        Tab.get? t.faults.rebuilds s.faults.nextRebuild = some { loc := locDev a, path := 2, key := some k } ∧
        (rowOf t k).bytes = (rowOf s k).bytes ∧ (rowOf t k).fenced = (rowOf s k).fenced ∧ t.faults.fences = s.faults.fences) ∧
      (∀ k, rowAt s a = some k → (rowOf s k).t0 = none → (rowOf s k).fenced = false → Completes run s fun t => kept t ∧
        (rowOf t k).fenced = true ∧ (∀ i, i ≠ k → rowOf t i = rowOf s i)) ∧
      (∀ k d, rowAt s a = none → deltaAt s a = some (k, d) → (rowOf s k).deltas = [d] → d.fenced = false → Completes run s fun t => kept t ∧
        (rowOf t k).fenced = (rowOf s k).fenced ∧
        (rowOf t k).deltas = [{ d with fenced := true, lostAt := locDev a, fencedBy := s.fq.recordSeq }] ∧
        (∀ i, i ≠ k → rowOf t i = rowOf s i)))) ∧
  (∀ (s : State), s.sys.frozen = false →
    (∀ id,
      (Tab.get? s.faults.rebuilds id = none → exec (.rebuildDone id) s = .next s) ∧
      (∀ x, Tab.get? s.faults.rebuilds id = some x → Completes (.rebuildDone id) s fun t => Tab.get? t.faults.rebuilds id = none ∧
        t.fq.recordSeq = seqNext 32 s.fq.recordSeq ∧
        SameButReports { s with faults := { s.faults with rebuilds := t.faults.rebuilds } } t)) ∧
    (∀ kind,
      let n := Tab.getD s.faults.sinceSummary kind 0
      let due : Prop := ∀ at', Tab.get? s.faults.lastSummary kind = some at' → at' + 100000000 ≤ s.clock
      ((n = 0 ∨ ¬ due) → exec (.correctedSummary kind) s = .next s) ∧
      (n ≠ 0 → due → Completes (.correctedSummary kind) s fun t => Tab.get? t.faults.sinceSummary kind = none ∧
        Tab.get? t.faults.lastSummary kind = some s.clock ∧ t.fq.recordSeq = seqNext 32 s.fq.recordSeq ∧
        SameButReports { s with faults := { s.faults with
          sinceSummary := t.faults.sinceSummary, lastSummary := t.faults.lastSummary } } t)) ∧
    (∀ a left,
      let p := stackOf a
      let ch := channelOf a
      let k := Tab.getD (stackPort s p).rowRepairs ch 0 + 1
      (a ∉ s.faults.repairing → exec (.rowRepairDone a left) s = .next s) ∧
      (a ∈ s.faults.repairing → Completes (.rowRepairDone a left) s fun t => a ∉ t.faults.repairing ∧ t.mem = s.mem ∧ t.work = s.work) ∧
      (∀ n x, a ∈ s.faults.repairing → left = some n → Tab.get? s.stackTab p = some x → k < 32 → Completes (.rowRepairDone a left) s fun t =>
        Tab.get? t.stackTab p = some { x with rowRepairs := Tab.put x.rowRepairs ch k } ∧ locDev a ∉ t.faults.hard ∧
        Tab.get? t.faults.marks (locDev a) = none ∧ t.faults.retiring = s.faults.retiring) ∧
      (∀ x, a ∈ s.faults.repairing → left = none → Tab.get? s.stackTab p = some x → x.retiredChannel = none → x.retireBlocked = none →
        (∀ e ∈ s.faults.retiring, e / 32 ≠ p) →
        (sliceRange s p = none → Completes (.rowRepairDone a left) s fun t => p * 32 + ch ∈ t.faults.retiring ∧ t.stackTab = s.stackTab) ∧
        (∀ b g, sliceRange s p = some (b, g) → Completes (.rowRepairDone a left) s fun t =>
          Tab.get? t.stackTab p = some { x with retireBlocked := some ch } ∧ t.faults.retiring = s.faults.retiring ∧
          LastEvent t .channelRetireBlocked (packFields [(0, 3, p), (8, 8, g.ctx), (64, 56, b)])))) ∧
    (∀ p ch,
      let emptied := emptyArea 1 (sliceOf s p).1 (sliceOf s p).2 s
      (p * 32 + ch ∉ s.faults.retiring → exec (.channelRetireDone p ch) s = .next s) ∧
      (p * 32 + ch ∈ s.faults.retiring → emptied.1 ≠ .gone → exec (.channelRetireDone p ch) s = .next emptied.2) ∧
      (∀ x, p * 32 + ch ∈ s.faults.retiring → emptied.1 = .gone → Tab.get? emptied.2.stackTab p = some x →
        Completes (.channelRetireDone p ch) s fun t =>
          stackPort t p = { x with retiredChannel := some ch } ∧ p * 32 + ch ∉ t.faults.retiring ∧
          t.work.tbl.rows = emptied.2.work.tbl.rows ∧ t.mem = emptied.2.mem)) ∧
    (∀ p,
      ((populated s p = false ∨ (stackPort s p).lost = true) → exec (.stackLost p) s = .next s) ∧
      (∀ x, populated s p = true → Tab.get? s.stackTab p = some x → x.lost = false → Completes (.stackLost p) s fun t =>
        (stackPort t p) = { x with lost := true } ∧ t.mem = s.mem ∧ t.tasks = s.tasks ∧
        (∀ k r, Tab.get? s.work.tbl.rows k = some r → r.place.tier = 1 → stackOf r.place.addr = p → (rowOf t k).fenced = true) ∧
        ((s.work.tbl.rows.map Prod.fst).Nodup → ∀ k, ¬ ((rowOf s k).place.tier = 1 ∧ stackOf (rowOf s k).place.addr = p) →
          rowOf t k = rowOf s k)))) ∧
  (∀ (ch dir : Nat) (ws : List CodeWord) (resent : Bool) (task : Option (Nat × Nat)) (s : State), s.sys.frozen = false → ch < 256 → dir < 2 →
    ws.length = 64 → (bondOf s ch).lost = false → 10 ≤ s.sys.bootStep →
    let run := Instr.bondFlitReceive ch dir ws resent task
    let b := bondOf s ch
    (lostIn ws = [] → correctedIn ws = [] → exec run s = .next s) ∧
    (∀ word j, lostIn ws = [] → correctedIn ws = [(word, j)] →
      let wire := wireOf b dir word j
      let slot := ch * 2048 + dir * 1024 + wire
      let ts := (Tab.getD s.faults.wireHits slot []).filter fun t => decide (s.clock < t + 100000)
      (ts.length < 15 → Completes run s fun t => Tab.get? t.faults.wireHits slot = some (ts ++ [s.clock]) ∧ t.links = s.links ∧
        t = { s with counters := t.counters, faults := t.faults }) ∧
      (15 ≤ ts.length → Completes run s fun t => bondOf t ch = bondSettle (failWire dir wire b) ∧
        (∀ c, c ≠ ch → bondOf t c = bondOf s c) ∧ Tab.get? t.faults.wireHits slot = none ∧ t.work = s.work ∧
        t.fq.recordSeq = seqNext 32 s.fq.recordSeq)) ∧
    (lostIn ws ≠ [] → correctedIn ws = [] →
      (resent = false → exec run s = .next { s with sent := s.sent ++ [.bondResend ch dir] }) ∧
      (resent = true → task = none → Completes run s fun t => t = { s with faults := t.faults } ∧
        Tab.get? t.faults.rebuilds s.faults.nextRebuild = some { loc := locBond ch dir 0, path := 3 }) ∧
      (∀ q n x, resent = true → task = some (q, n) → task? s q n = some x → x.queue = q → x.seq = n → x.state = .active →
        (x.recomputed = false → Completes run s fun t => task? t q n = some { x with recomputed := true } ∧ t.work = s.work ∧
          t.mem = s.mem ∧ Tab.get? t.faults.rebuilds s.faults.nextRebuild = some { loc := locBond ch dir 0, path := 3, task := some (q, n) }) ∧
        (x.recomputed = true → Completes run s fun t => ∃ y, task? t q n = some y ∧ y.state = .failed ∧ y.status = .dataLost))))

/-- Sparing and host loss (R241, R396 to R398, R453, R454, R519). That a function-level reset leaves the link up, and the substitute
cluster, are the model's readings (in the log). -/
def Obligations.UnitsAndHostAreLost : Prop :=
  ∀ (s : State), s.sys.frozen = false →
    (∀ c,
      (c ∈ serviceClusters s → c ∉ s.faults.leaving → exec (.islandClockLockLoss c) s =
        .next { s with faults := { s.faults with leaving := s.faults.leaving ++ [c] } }) ∧
      ((c ∉ serviceClusters s ∨ c ∈ s.faults.leaving) → exec (.islandClockLockLoss c) s = .next s)) ∧
    (∀ core,
      let c := core / 2048
      let m := Tab.getD s.faults.coreMaps c {}
      (Tab.get? s.faults.replacing core = none → exec (.coreReplaceDone core) s = .next s) ∧
      (∀ p, Tab.get? s.faults.replacing core = some p → Completes (.coreReplaceDone core) s fun t =>
        Tab.get? t.faults.replacing core = none ∧ t.work = s.work ∧ t.mem = s.mem ∧ t.tasks = s.tasks ∧
        Tab.get? t.faults.coreMaps c = some { m with
          replaced := Tab.put m.replaced (core % 2048) p, worn := insertBy id (physicalOf s c (core % 2048)) m.worn } ∧
        (∀ e ∈ t.faults.fences, inBank core e.1 = false) ∧ (∀ l ∈ t.faults.hard, inBank core l = false) ∧
        (∀ e ∈ s.faults.fences, inBank core e.1 = false → e ∈ t.faults.fences))) ∧
    (∀ c,
      let run := Instr.clusterLeaveService c
      let bond := (bondOf s (c % 256)).lost
      let s' : State := { s with faults := { s.faults with
        retiredClusters := insertBy id c s.faults.retiredClusters
        leaving := s.faults.leaving.filter fun x => decide (x ≠ c)
        replacing := s.faults.replacing.filter fun e => decide (e.1 / 2048 ≠ c) } }
      (c ∉ s.faults.leaving → exec run s = .next s) ∧
      (c ∈ s.faults.leaving → c < 512 → Completes run s fun t => c ∈ t.faults.retiredClusters ∧ c ∉ t.faults.leaving ∧
        (bond = true → mirror c ∈ serviceClusters s → mirror c ∈ t.faults.retiredClusters) ∧
        (t.sys.engState ≠ .safe → t.power.budget ≤ budgetCap t)) ∧
      (c ∈ s.faults.leaving → serviceClusters s = [c] → Completes run s fun t =>
        t.sys.engState = .safe ∧ t.sys.frozen = true ∧ t.sys.safeCause = .recoveryFailed) ∧
      (∀ k r x tb, c ∈ s.faults.leaving → bond = false → serviceClusters s' ≠ [] → s.work.tbl.rows = [(k, r)] → r.t0 = some x →
        r.written = true → x.cluster = c → r.move = none → r.deltas = [] → r.committing = false → tbl? s (keyHandle k) = some tb →
        s.work.upd.runs = [] → s.work.chain.jobs = [] → s.work.chain.remotes = [] → s.work.tbl.maints = [] → s.work.tbl.pending = [] →
        s.faults.retiring = [] → (∀ e ∈ s.work.tbl.tables, homeless s' e.2 = false) →
        Completes run s fun t => t.tasks = s.tasks ∧
          (x.dirty = false → isPinned tb (keyIndex k) = false → (rowOf t k).t0 = none ∧ (rowOf t k).fenced = r.fenced ∧
            (rowOf t k).backing = r.backing) ∧
          (x.dirty = false → isPinned tb (keyIndex k) = true → r.fenced = false → r.chain = 0 → r.place.tier = 1 →
            ∃ y, (rowOf t k).t0 = some y ∧ y.bytes = r.backing ∧ y.dirty = false ∧ (rowOf t k).fenced = false) ∧
          (x.dirty = true → x.shadow = none → (rowOf t k).t0 = none ∧ (rowOf t k).fenced = true) ∧
          (∀ u, x.dirty = true → x.shadow ≠ none → x.shadow ≠ some c →
            (x.line = none ∧ u = keyIndex k ∧ u < tb.pinBelow ∨
              ∃ way, x.line = some (u, way) ∧ u = setOf tb.part.nsets k ∧ tb.part.nsets ≠ 0) →
            ∃ y, (rowOf t k).t0 = some y ∧ y.cluster = (homeOf tb.part u).1 ∧ y.bytes = x.bytes ∧ y.dirty = true ∧ y.line = x.line ∧
              (rowOf t k).fenced = r.fenced))) ∧
    (∀ kind : LossKind,
      let run := Instr.hostLoss kind
      (hostUp s = false → exec run s = .next s) ∧
      (hostUp s = true → Completes run s fun t =>
        hostUp t = false ∧ t.attach.lost = true ∧ t.attach.lossSinceAttach = true ∧ t.sys.hostAttached = false ∧
        t.spdm.sessions = [] ∧ t.fq.enable = false ∧ t.irq.msixEnable = false ∧ t.irq.msixTable = [] ∧
        (t4Of t).attached = false ∧ (t4Of t).outstanding = [] ∧
        (kind ≠ .flr → t.links.host.up = false ∧ t.links.host.lanes = 0 ∧
          LastEvent t .linkDegraded (linkFields 4 0 s.links.host.lanes 0 0)) ∧
        (kind = .flr → t.links.host = s.links.host)) ∧
      (hostUp s = true → hostVictims s = [] → s.streams.transfers = [] → (t4Of s).outstanding = [] → (t4Of s).waiting = [] →
        migrateJobs s = [] →
        Completes run s fun t => t.tasks = s.tasks ∧ t.mem = s.mem ∧ t.ranges = s.ranges ∧ t.ctxs = s.ctxs ∧ t.ats = {} ∧
          t.journal = s.journal ∧ t.work.tbl.rows = s.work.tbl.rows ∧ t.work.idx = s.work.idx ∧ t.work.upd = s.work.upd ∧
          ∀ n q, Tab.get? s.queues n = some q →
            let held := hostRing s q.sqAddr || hostRing s q.cqAddr
            Tab.get? t.queues n = some (if held = false then q else
              if q.state = .destroying then { q with ringLost := q.ringLost || hostRing s q.cqAddr }
              else { q with state := .hostHold, ringLost := q.ringLost || hostRing s q.cqAddr })) ∧
      (∀ q n x a, hostUp s = true → s.tasks = [(tid q n, x)] → x.queue = q → x.seq = n → hostNeed s x = some a →
        Completes run s fun t => (∃ y, task? t q n = some y ∧ y.state = .failed ∧ y.status = .hostLost) ∧
          (∀ w, x.hostWrites = [w] → s.streams.transfers = [] → s.journal.markers = [] → s.journal.ranges.length < 4096 →
            t.journal.ranges = s.journal.ranges ++ [{ ctx := x.ctx, queue := q, seq := n, allRanges := false, first := w.2.1, last := w.2.2
                                                      epoch := s.sys.attachEpoch.toNat }] ∧
            t.irq.causes.toNat.testBit Cause.hostJournal.index = true))) ∧
    (∀ lanes,
      let old := s.links.host.lanes
      ((hostUp s = false ∨ lanes = 0 ∨ lanes = old) → exec (.hostLinkRetrain lanes) s = .next s) ∧
      (hostUp s = true → lanes ≠ 0 → lanes ≠ old → Completes (.hostLinkRetrain lanes) s fun t =>
        t.links.host = { s.links.host with lanes := lanes } ∧ LastEvent t .linkDegraded (linkFields 4 0 old lanes 0) ∧
        t.fq.recordSeq = (if lanes < old then seqNext 32 s.fq.recordSeq else s.fq.recordSeq) ∧
        SameButReports { s with links := { s.links with host := t.links.host } } t) ∧
      (hostUp s = false → lanes ≠ 0 → 7 ≤ s.sys.bootStep → exec (.hostLinkUp lanes) s = .next { s with
        links := { s.links with host := { s.links.host with up := true, lanes := lanes } }, attach := { s.attach with lost := false } }) ∧
      ((hostUp s = true ∨ lanes = 0 ∨ s.sys.bootStep < 7) → exec (.hostLinkUp lanes) s = .next s))

/-- The I3C target (R433, R487 to R491). GETSTATUS's contents are a free value (log entry 27); the order of GETPID's bytes, ENINT as bit 0,
and the effect of SETMWL and SETMRL are the family's (PRESUMED in the log). -/
def Obligations.I3cTargetAnswers : Prop :=
  (∀ (s : State), i3cAnswers s = false →
    (∀ bs n a b, ∀ c ∈ [Instr.i3cPrivateWrite bs, .i3cPrivateRead n, .rstdaa, .setnewda a, .getpid, .getbcr, .getdcr, .getstatus, .enec b,
      .disec b, .setmwl n, .getmwl, .setmrl n, .getmrl, .rstact b], exec c s = .next s) ∧
    (∀ addr, s.sys.engState ≠ .reset → s.i3c.dynAddr = none → addr < 128 → Completes (.entdaa addr) s fun t =>
      i3cAnswers t = true ∧ t = { s with i3c := { s.i3c with dynAddr := some addr }
                                         sent := s.sent ++ [.i3c (busBytes 6 (i3cPid s) ++ [0x06, 0x00])] })) ∧
  (∀ (s : State),
    bitsOf (i3cPid s) 0 32 = bits s.fuses.lowerId 16 32 ∧ (i3cPid s).testBit 32 = false ∧
    bitsOf (i3cPid s) 33 15 = bits s.fuses.lowerId 59 15 ∧ i3cPid s < 2 ^ 48 ∧
    (∀ i, i < 6 → (busBytes 6 (i3cPid s)).getD i 0 = BitVec.ofNat 8 (i3cPid s / 256 ^ (5 - i)))) ∧
  (∀ (s : State), i3cAnswers s = true →
    let answers (c : Instr) (bs : List Byte) : Prop := exec c s = .next { s with sent := s.sent ++ [.i3c bs] }
    let sets (c : Instr) (i : I3c) : Prop := exec c s = .next { s with i3c := i }
    answers .getpid (busBytes 6 (i3cPid s)) ∧ answers .getbcr [0x06] ∧ answers .getdcr [0x00] ∧
    answers .getmwl (busBytes 2 s.i3c.mwl) ∧ answers .getmrl (busBytes 2 s.i3c.mrl) ∧
    (Completes .getstatus s fun t => ∃ bs, bs.length = 2 ∧ t = { s with freeCtr := t.freeCtr, sent := s.sent ++ [.i3c bs] }) ∧
    sets .rstdaa { s.i3c with dynAddr := none } ∧
    (∀ a, a < 128 → sets (.setnewda a) { s.i3c with dynAddr := some a }) ∧
    (∀ n, n < 65536 → sets (.setmwl n) { s.i3c with mwl := n } ∧ sets (.setmrl n) { s.i3c with mrl := n }) ∧
    (∀ b : Byte,
      sets (.rstact b) { s.i3c with rstAction := b.toNat } ∧
      (bit b 0 = true → sets (.disec b) { s.i3c with ibiEnabled := false } ∧
        exec (.enec b) s = .next { s with
          i3c := { s.i3c with ibiEnabled := true, pending := [] }, sent := s.sent ++ s.i3c.pending.map OutMsg.ibi }) ∧
      (bit b 0 = false → exec (.disec b) s = .next s ∧ exec (.enec b) s = .next s)) ∧
    (∀ bs, bs.length < 2 → exec (.i3cPrivateWrite bs) s = .next s) ∧
    (∀ off data, off < 65536 → 2 + data.length ≤ s.i3c.mwl →
      let w := Instr.i3cPrivateWrite (toBytes 2 off ++ data)
      let at' : State := { s with i3c := { s.i3c with offset := off } }
      ((data = [] ∨ off + data.length ≤ 0x400 ∨ (0x408 ≤ off ∧ off + data.length ≤ 0x500) ∨ (0x600 ≤ off ∧ off + data.length ≤ 0x1000) ∨
        (0x1100 ≤ off)) → exec w s = .next at') ∧
      (off = 0x400 → data.length = 4 → imgWaits s = true → exec w s = .next { at' with sys := { s.sys with
        imgOffset := BitVec.ofNat 32 (ofBytes data) } }) ∧
      (off = 0x400 → data.length = 4 → imgWaits s = false → exec w s = .next at') ∧
      (off = 0x500 → data ≠ [] → data.length ≤ 256 → imgWaits s = true → exec w s = exec (.imgDataWrite data) at') ∧
      (off = 0x1008 → data.length = 8 → exec w s = .next { at' with dbg := { s.dbg with index := BitVec.ofNat 64 (ofBytes data) } })) ∧
    (∀ n,
      let m := min n s.i3c.mrl
      exec (.i3cPrivateRead n) s = .next { s with
        i3c := { s.i3c with offset := (s.i3c.offset + m) % 65536 }
        sent := s.sent ++ [.i3c ((List.range m).map fun i => i3cByte s (s.i3c.offset + i))] }) ∧
    (∀ i,
      let byte (x : Nat) : Byte := BitVec.ofNat 8 (x / 256 ^ i)
      (i < 8 → i3cByte s i = byte (engId s) ∧ i3cByte s (0x8 + i) = byte (engVersion s) ∧ i3cByte s (0x20 + i) = byte (engStateWord s) ∧
        i3cByte s (0x28 + i) = byte (engChainAddr s) ∧ i3cByte s (0x1008 + i) = byte s.dbg.index.toNat) ∧
      (i < 16 → i3cByte s (0x40 + i) = byte s.fuses.lowerId.toNat ∧ i3cByte s (0x50 + i) = byte s.fuses.upperId.toNat) ∧
      (i < 32 → i3cByte s (0x100 + i) = byte (telemetry s)) ∧
      (i < 4 → i3cByte s (0x400 + i) = byte s.sys.imgOffset.toNat) ∧
      (i < 16 → i3cByte s (0x10 + i) = 0 ∧ i3cByte s (0x30 + i) = 0 ∧ i3cByte s (0x500 + i) = 0)))

/-- The test access port (R403, R424, R435). That BYPASS captures 0 is IEEE 1149.1's (PRESUMED in the log). -/
def Obligations.TestPortShiftsRegisters : Prop :=
  ∀ (s : State),
    let only (t : State) : Prop := t = { s with tap := t.tap, sent := t.sent }
    (Completes .bypass s fun t => only t ∧ t.tap = { s.tap with instr := .bypass } ∧ t.sent = s.sent ++ [.tap [false]]) ∧
    (Completes .idcode s fun t => only t ∧ t.tap = { s.tap with instr := .idcode } ∧ ∃ out, t.sent = s.sent ++ [.tap out] ∧
      out.length = 32 ∧ out.getD 0 false = true ∧
      (∀ i, i < 11 → out.getD (1 + i) false = s.fuses.lowerId.toNat.testBit (48 + i)) ∧
      (∀ i, i < 16 → out.getD (12 + i) false = (0x8400 : Nat).testBit i) ∧
      (∀ i, i < 4 → out.getD (28 + i) false = s.fuses.lowerId.toNat.testBit (2 + i))) ∧
    (Completes .fuseRead s fun t => only t ∧ t.tap = { s.tap with instr := .fuseRead } ∧ ∃ out, t.sent = s.sent ++ [.tap out] ∧
      out.length = 256 ∧ ∀ i, i < 128 →
        out.getD i false = s.fuses.lowerId.toNat.testBit i ∧ out.getD (128 + i) false = s.fuses.upperId.toNat.testBit i) ∧
    (∀ cells, exec (.preload cells) s = .next { s with tap := { instr := .preload, cells := cells } }) ∧
    (∀ e ∈ [(Instr.sample, TapInstr.sample), (.extest, .extest), (.clamp, .clamp), (.highz, .highz)],
      exec e.1 s = .next { s with tap := { s.tap with instr := e.2 } })

/-- The SPDM responder (R501, R502). Codes, order and errors are the family's (PRESUMED), and bodies with digests, keys or signatures are
free values (log entry 7); the statement rests on no value of them. -/
def Obligations.SpdmResponderAnswers : Prop :=
  ∀ (s : State) (id : Word32),
    let later := [Instr.getDigests, .getCertificate 0, .challenge, .getMeasurements 0, .keyExchange id]
    let inside := [Instr.finish id true, .finish id false, .heartbeat id, .keyUpdate id, .endSession id]
    let serves := (s.sys.lowerUp = true ∨ s.sys.upperUp = true) ∧ hostUp s = true ∧ s.sys.frozen = false
    let answers (c : Instr) (code : Nat) (p : Spdm) : Prop := Completes c s fun t => ∃ body,
      t = { s with spdm := p, freeCtr := t.freeCtr, sent := s.sent ++ [.spdm code body] }
    let errs (c : Instr) (e : Nat) : Prop := exec c s = .next { s with sent := s.sent ++ [.spdm 0x7F [BitVec.ofNat 8 e]] }
    let p := s.spdm
    let open' (ready : Bool) : Prop := ∃ x ∈ p.sessions, x.id = id.toNat ∧ x.established = ready
    (¬ serves → ∀ c ∈ [Instr.getVersion, .getCapabilities, .negotiateAlgorithms] ++ later ++ inside, exec c s = .next s) ∧
    (serves →
      exec .getVersion s = .next { s with spdm := { versionDone := true }, sent := s.sent ++ [.spdm 0x04 [0x13]] } ∧
      (p.versionDone = true → answers .getCapabilities 0x61 { p with capsDone := true }) ∧
      (p.versionDone = false → errs .getCapabilities 4) ∧
      (p.capsDone = true → answers .negotiateAlgorithms 0x63 { p with algDone := true }) ∧
      (p.capsDone = false → errs .negotiateAlgorithms 4) ∧
      (p.algDone = false → ∀ c ∈ later, errs c 4) ∧
      (p.algDone = true →
        answers .getDigests 0x01 p ∧ answers (.getCertificate 0) 0x02 p ∧ (∀ slot, slot ≠ 0 → errs (.getCertificate slot) 1) ∧
        answers .challenge 0x03 p ∧
        exec (.getMeasurements 0) s = .next { s with sent := s.sent ++ [.spdm 0x60 [6]] } ∧
        (∀ i, 1 ≤ i → i ≤ 6 → Completes (.getMeasurements i) s fun t => ∃ body, body.length = 48 ∧
          t = { s with sent := s.sent ++ [.spdm 0x60 body] }) ∧
        (Completes (.getMeasurements 0xFF) s fun t => ∃ body, body.length = 288 ∧ t = { s with sent := s.sent ++ [.spdm 0x60 body] }) ∧
        (∀ i, 7 ≤ i → i ≠ 0xFF → errs (.getMeasurements i) 1) ∧
        (4 ≤ p.sessions.length → errs (.keyExchange id) 0x0A) ∧
        (p.sessions.length < 4 → (∀ x ∈ p.sessions, x.id ≠ id.toNat) → answers (.keyExchange id) 0x64 { p with
          sessions := p.sessions ++ [{ id := id.toNat, established := false }] })) ∧
      (¬ open' false → errs (.finish id true) 2 ∧ errs (.finish id false) 2) ∧
      (open' false → (answers (.finish id true) 0x65 { p with
          sessions := p.sessions.map fun x => if x.id = id.toNat then { x with established := true } else x }) ∧
        exec (.finish id false) s = .next { s with
          spdm := { p with sessions := p.sessions.filter fun x => decide (x.id ≠ id.toNat) }
          sent := s.sent ++ [.spdm 0x7F [6]] }) ∧
      (¬ open' true → ∀ c ∈ [Instr.heartbeat id, .keyUpdate id, .endSession id], errs c 2) ∧
      (open' true → answers (.heartbeat id) 0x68 p ∧
        answers (.keyUpdate id) 0x69 { p with
          sessions := p.sessions.map fun x => if x.id = id.toNat then { x with keyGen := x.keyGen + 1 } else x } ∧
        answers (.endSession id) 0x6C { p with sessions := p.sessions.filter fun x => decide (x.id ≠ id.toNat) }))

/-- The freeze of R463, R464 and R471 under every step. Mailbox refusals, register access, sensor readings, I3C and the test port go on.
That readings still reach telemetry is the model's reading (DEDUCED in the log). -/
def Obligations.FrozenStateHoldsUntilReset : Prop :=
  let held (s : State) : Prop := s.sys.frozen = true ∧ s.sys.engState = .safe ∧ s.sys.safeCause ≠ .bootImageInvalid
  let resets (c : Instr) : Prop := c = .coldResetAssert ∨ (∃ st, c = .coldResetRelease st) ∨ c = .warmReset
  (∀ s t : State, held s → (∀ c rest, s.pending = c :: rest → ¬ resets c) → Machine.step s = .next t →
    held t ∧ t.sys.safeCause = s.sys.safeCause ∧ t.sys.bootStep = s.sys.bootStep ∧ t.ctxs = s.ctxs ∧ t.queues = s.queues ∧
    t.tasks = s.tasks ∧ t.ranges = s.ranges ∧ t.windows = s.windows ∧ t.streams = s.streams ∧ t.work = s.work ∧ t.mem = s.mem ∧
    t.flash = s.flash ∧ t.faults = s.faults ∧ t.journal = s.journal ∧ t.ats = s.ats) ∧
  (∀ s : State, 3 ≤ s.sys.bootStep → s.sys.engState ≠ .reset → Completes .warmReset s fun t =>
    t.sys.frozen = false ∧ t.sys.engState = .booting)

/-- State.reset (R354, R431, R515): the invariants hold there. That flash reads erased is the model's choice (log entry 3). -/
def Obligations.ResetIsCanonical : Prop :=
  memWf State.reset = true ∧ State.reset.sys.frozen = false ∧ State.reset.sys.engState = .reset ∧ State.reset.pending = [] ∧
  State.reset.tasks = [] ∧ State.reset.queues = [] ∧ State.reset.ctxs = [] ∧ State.reset.ranges = [] ∧ State.reset.windows = [] ∧
  State.reset.work.tbl.tables = [] ∧ State.reset.work.tbl.rows = [] ∧ (∀ a, devGet State.reset a = 0)

/-- Memory in canonical form: addresses rise, and no cell holds what an unlisted address reads as. The form is the model's own. -/
def Obligations.MemoriesStayCanonical : Prop :=
  ∀ s t : State, memWf s = true → Machine.step s = .next t → memWf t = true

/-- The code of R439. -/
def Obligations.CodeCorrectsOneSymbol : Prop :=
  ∀ data : Word128,
    let w := encodeWord data
    let err (j e : Nat) : CodeWord := BitVec.ofNat 144 (e * 2 ^ (4 * j))
    let check (f : Nat × Nat × Nat × Nat → Nat) : Nat :=
      (List.range 32).foldl (fun acc j => acc ^^^ gfMul (f (codeColumn j)) (bits data (4 * j) 4)) 0
    bits w 0 128 = data.toNat ∧
    bits w 128 4 = check (fun c => c.1) ∧ bits w 132 4 = check (fun c => c.2.1) ∧
    bits w 136 4 = check (fun c => c.2.2.1) ∧ bits w 140 4 = check (fun c => c.2.2.2) ∧
    decodeWord w = .good ∧
    (∀ j e, j < 36 → 1 ≤ e → e < 16 → decodeWord (w ^^^ err j e) = .corrected j w) ∧
    (∀ j k e f, j < k → k < 36 → 1 ≤ e → e < 16 → 1 ≤ f → f < 16 → decodeWord (w ^^^ err j e ^^^ err k f) = .uncorrectable)
end

