-- ==== Sys2Proof/Laws/Memory.lean ====
section
/-! SUPPORT. What the memory operations do: a read after a write, the bytes a write leaves alone, and the canonical form that every
operation keeps. -/

namespace Sys2Proof.Machine

/-- A read after a write of the same address gives the byte written. -/
@[simp] theorem cellGet_set_same (d v : Byte) (a : Nat) : ∀ cs : List Host.Cell, cellsWf d cs = true →
    cellGet d (cellSet d cs a v) a = v := by
  have above : ∀ (cs : List Host.Cell) (lo : Nat), cellsAbove d lo cs = true → a ≤ lo → cellGet d cs a = d := by
    intro cs
    cases cs with
    | nil => intros; rfl
    | cons c rest =>
      intro lo h hlo
      obtain ⟨k, u⟩ := c
      simp only [cellsAbove, Bool.and_eq_true, decide_eq_true_eq] at h
      have : ¬ k = a := by omega
      have : a < k := by omega
      simp [cellGet, *]
  intro cs
  induction cs with
  | nil => intro _; by_cases h : v = d <;> simp [cellSet, cellGet, h]
  | cons c rest ih =>
    intro h
    obtain ⟨k, u⟩ := c
    simp only [cellsWf, Bool.and_eq_true, decide_eq_true_eq] at h
    unfold cellSet
    by_cases h1 : a < k
    · have : ¬ k = a := by omega
      by_cases hv : v = d <;> simp [cellGet, h1, hv, this]
    · by_cases h2 : a = k
      · subst h2
        by_cases hv : v = d
        · simpa [hv] using above rest a h.2 (Nat.le_refl a)
        · simp [cellGet, hv]
      · have hk : ¬ k = a := fun e => h2 e.symm
        simp only [h1, h2, if_false, cellGet, beq_iff_eq, hk]
        apply ih
        cases rest with
        | nil => rfl
        | cons c' r' =>
          obtain ⟨k', u'⟩ := c'
          simp only [cellsAbove, Bool.and_eq_true, decide_eq_true_eq] at h
          simp [cellsWf, h.2.1.2, h.2.2]

/-- A read of another address gives what it gave before the write. -/
@[simp] theorem cellGet_set_other (d v : Byte) (a b : Nat) (hab : b ≠ a) : ∀ cs : List Host.Cell, cellsWf d cs = true →
    cellGet d (cellSet d cs a v) b = cellGet d cs b := by
  have above : ∀ (cs : List Host.Cell) (lo : Nat), cellsAbove d lo cs = true → b ≤ lo → cellGet d cs b = d := by
    intro cs
    cases cs with
    | nil => intros; rfl
    | cons c rest =>
      intro lo h hlo
      obtain ⟨k, u⟩ := c
      simp only [cellsAbove, Bool.and_eq_true, decide_eq_true_eq] at h
      have : ¬ k = b := by omega
      have : b < k := by omega
      simp [cellGet, *]
  intro cs
  have hba : ¬ a = b := fun e => hab e.symm
  induction cs with
  | nil => intro _; by_cases h : v = d <;> simp [cellSet, cellGet, h, hba]
  | cons c rest ih =>
    intro h
    obtain ⟨k, u⟩ := c
    simp only [cellsWf, Bool.and_eq_true, decide_eq_true_eq] at h
    unfold cellSet
    by_cases h1 : a < k
    · by_cases hv : v = d
      · simp [h1, hv]
      · by_cases hb : b < a
        · have : ¬ k = b := by omega
          have : b < k := by omega
          simp [cellGet, *]
        · simp [cellGet, h1, hv, hba, hb]
    · by_cases h2 : a = k
      · subst h2
        by_cases hv : v = d
        · simp only [hv, if_true, cellGet, beq_iff_eq, hba, if_false, Nat.lt_irrefl]
          by_cases hb : b < a
          · simp [hb, above rest a h.2 (Nat.le_of_lt hb)]
          · simp [hb]
        · simp [cellGet, hv, hba]
      · simp only [h1, h2, if_false, cellGet, beq_iff_eq]
        have ih' := ih (by
          cases rest with
          | nil => rfl
          | cons c' r' =>
            obtain ⟨k', u'⟩ := c'
            simp only [cellsAbove, Bool.and_eq_true, decide_eq_true_eq] at h
            simp [cellsWf, h.2.1.2, h.2.2])
        rw [ih']

/-- Addresses above `lo` are above anything lower. -/
theorem cellsAbove_mono (d : Byte) {lo lo' : Nat} (h : lo' ≤ lo) : ∀ {cs : List Host.Cell}, cellsAbove d lo cs = true →
    cellsAbove d lo' cs = true
  | [], _ => rfl
  | (k, v) :: rest, hc => by
    simp only [cellsAbove, Bool.and_eq_true, decide_eq_true_eq] at hc ⊢
    exact ⟨⟨by omega, hc.1.2⟩, hc.2⟩

/-- The tail of a canonical memory lies above its head. -/
theorem cellsWf_of_above (d : Byte) {lo : Nat} : ∀ {cs : List Host.Cell}, cellsAbove d lo cs = true → cellsWf d cs = true
  | [], _ => rfl
  | (k, v) :: rest, h => by
    simp only [cellsAbove, Bool.and_eq_true, decide_eq_true_eq] at h
    simp [cellsWf, h.1.2, h.2]

theorem cellsAbove_set (d v : Byte) (a : Nat) : ∀ (cs : List Host.Cell) (lo : Nat), lo < a → cellsAbove d lo cs = true →
    cellsAbove d lo (cellSet d cs a v) = true := by
  intro cs
  induction cs with
  | nil => intro lo hlo _; by_cases h : v = d <;> simp [cellSet, cellsAbove, h, hlo]
  | cons c rest ih =>
    intro lo hlo h
    obtain ⟨k, u⟩ := c
    simp only [cellsAbove, Bool.and_eq_true, decide_eq_true_eq] at h
    obtain ⟨⟨hk, hu⟩, hr⟩ := h
    unfold cellSet
    by_cases h1 : a < k
    · by_cases hv : v = d <;> simp [cellsAbove, h1, hv, hk, hu, hr, hlo]
    · by_cases h2 : a = k
      · subst h2
        by_cases hv : v = d
        · simpa [hv] using cellsAbove_mono d (Nat.le_of_lt hk) hr
        · simp [cellsAbove, hv, hk, hr]
      · have : k < a := by omega
        simp [h1, h2, cellsAbove, hk, hu, ih k this hr]

/-- Setting a byte keeps the canonical form. -/
@[simp] theorem cellsWf_set (d v : Byte) (a : Nat) : ∀ cs : List Host.Cell, cellsWf d cs = true →
    cellsWf d (cellSet d cs a v) = true := by
  intro cs h
  cases cs with
  | nil => by_cases hv : v = d <;> simp [cellSet, cellsWf, cellsAbove, hv]
  | cons c rest =>
    obtain ⟨k, u⟩ := c
    simp only [cellsWf, Bool.and_eq_true, decide_eq_true_eq] at h
    unfold cellSet
    by_cases h1 : a < k
    · by_cases hv : v = d <;> simp [cellsWf, cellsAbove, h1, hv, h.1, h.2]
    · by_cases h2 : a = k
      · subst h2
        by_cases hv : v = d
        · simpa [hv] using cellsWf_of_above d h.2
        · simp [cellsWf, hv, h.2]
      · have : k < a := by omega
        simp [h1, h2, cellsWf, h.1, cellsAbove_set d v a rest k this h.2]

/-- Writing bytes keeps the canonical form. -/
@[simp] theorem cellsWf_write (d : Byte) : ∀ (bs : List Byte) (cs : List Host.Cell) (a : Nat), cellsWf d cs = true →
    cellsWf d (cellWrite d cs a bs) = true
  | [], _, _, h => h
  | b :: bs, cs, a, h => cellsWf_write d bs _ _ (cellsWf_set d b a cs h)

/-- Applying host writes keeps the canonical form. -/
@[simp] theorem cellsWf_apply (d : Byte) : ∀ (ws cs : List Host.Cell), cellsWf d cs = true → cellsWf d (cellApply d cs ws) = true
  | [], _, h => h
  | (a, b) :: ws, cs, h => cellsWf_apply d ws _ (cellsWf_set d b a cs h)

theorem cellClear_keep {k a n : Nat} {u : Byte} {rest : List Host.Cell} (h : k < a ∨ a + n ≤ k) :
    cellClear ((k, u) :: rest) a n = (k, u) :: cellClear rest a n := by
  simp [cellClear, h]

theorem cellClear_drop {k a n : Nat} {u : Byte} {rest : List Host.Cell} (h : ¬ (k < a ∨ a + n ≤ k)) :
    cellClear ((k, u) :: rest) a n = cellClear rest a n := by
  have h' : ¬ k < a ∧ ¬ a + n ≤ k := ⟨fun x => h (.inl x), fun x => h (.inr x)⟩
  simp [cellClear, h'.1, h'.2]

theorem cellsAbove_clear (d : Byte) (a n : Nat) : ∀ (cs : List Host.Cell) (lo : Nat), cellsAbove d lo cs = true →
    cellsAbove d lo (cellClear cs a n) = true := by
  intro cs
  induction cs with
  | nil => intros; rfl
  | cons c rest ih =>
    intro lo h
    obtain ⟨k, u⟩ := c
    simp only [cellsAbove, Bool.and_eq_true, decide_eq_true_eq] at h
    obtain ⟨⟨hk, hu⟩, hr⟩ := h
    by_cases hc : k < a ∨ a + n ≤ k
    · rw [cellClear_keep hc]
      simp only [cellsAbove, Bool.and_eq_true, decide_eq_true_eq]
      exact ⟨⟨hk, hu⟩, ih k hr⟩
    · rw [cellClear_drop hc]
      exact cellsAbove_mono d (Nat.le_of_lt hk) (ih k hr)

/-- Clearing an area keeps the canonical form. -/
@[simp] theorem cellsWf_clear (d : Byte) (a n : Nat) : ∀ cs : List Host.Cell, cellsWf d cs = true →
    cellsWf d (cellClear cs a n) = true := by
  intro cs h
  cases cs with
  | nil => rfl
  | cons c rest =>
    obtain ⟨k, u⟩ := c
    simp only [cellsWf, Bool.and_eq_true, decide_eq_true_eq] at h
    by_cases hc : k < a ∨ a + n ≤ k
    · rw [cellClear_keep hc]
      simp only [cellsWf, Bool.and_eq_true, decide_eq_true_eq]
      exact ⟨h.1, cellsAbove_clear d a n rest k h.2⟩
    · rw [cellClear_drop hc]
      exact cellsWf_of_above d (cellsAbove_clear d a n rest k h.2)

/-- A write of bytes leaves every address outside it alone. -/
theorem cellGet_write_outside (d : Byte) (x : Nat) : ∀ (bs : List Byte) (cs : List Host.Cell) (a : Nat), cellsWf d cs = true →
    (x < a ∨ a + bs.length ≤ x) → cellGet d (cellWrite d cs a bs) x = cellGet d cs x
  | [], _, _, _, _ => rfl
  | b :: bs, cs, a, h, hx => by
    simp only [List.length_cons] at hx
    rw [cellWrite, cellGet_write_outside d x bs _ _ (cellsWf_set d b a cs h) (by omega)]
    exact cellGet_set_other d b a x (by omega) cs h

/-- A read of what was just written gives the bytes written. -/
theorem cellRead_write (d : Byte) : ∀ (bs : List Byte) (cs : List Host.Cell) (a : Nat), cellsWf d cs = true →
    cellRead d (cellWrite d cs a bs) a bs.length = bs
  | [], _, _, _ => rfl
  | b :: bs, cs, a, h => by
    have hw := cellsWf_set d b a cs h
    simp only [List.length_cons, cellRead, cellWrite]
    rw [cellGet_write_outside d a bs _ _ hw (by omega), cellGet_set_same d b a cs h, cellRead_write d bs _ _ hw]

end Sys2Proof.Machine
end

