-- ==== Sys2Proof/Laws/State.lean ====
section
/-! SUPPORT. What the named updates of the state leave alone: one lemma for each update and field. -/

namespace Sys2Proof.Machine

/-! `tick` changes `clock` only. -/

@[simp] theorem tick_pending (s : State) : (tick s).pending = s.pending := rfl
@[simp] theorem tick_freeCtr (s : State) : (tick s).freeCtr = s.freeCtr := rfl
@[simp] theorem tick_fuses (s : State) : (tick s).fuses = s.fuses := rfl
@[simp] theorem tick_flash (s : State) : (tick s).flash = s.flash := rfl
@[simp] theorem tick_sys (s : State) : (tick s).sys = s.sys := rfl
@[simp] theorem tick_mbx (s : State) : (tick s).mbx = s.mbx := rfl
@[simp] theorem tick_dbg (s : State) : (tick s).dbg = s.dbg := rfl
@[simp] theorem tick_fq (s : State) : (tick s).fq = s.fq := rfl
@[simp] theorem tick_irq (s : State) : (tick s).irq = s.irq := rfl
@[simp] theorem tick_attach (s : State) : (tick s).attach = s.attach := rfl
@[simp] theorem tick_journal (s : State) : (tick s).journal = s.journal := rfl
@[simp] theorem tick_ctxs (s : State) : (tick s).ctxs = s.ctxs := rfl
@[simp] theorem tick_queues (s : State) : (tick s).queues = s.queues := rfl
@[simp] theorem tick_tasks (s : State) : (tick s).tasks = s.tasks := rfl
@[simp] theorem tick_ranges (s : State) : (tick s).ranges = s.ranges := rfl
@[simp] theorem tick_windows (s : State) : (tick s).windows = s.windows := rfl
@[simp] theorem tick_ats (s : State) : (tick s).ats = s.ats := rfl
@[simp] theorem tick_streams (s : State) : (tick s).streams = s.streams := rfl
@[simp] theorem tick_stackTab (s : State) : (tick s).stackTab = s.stackTab := rfl
@[simp] theorem tick_power (s : State) : (tick s).power = s.power := rfl
@[simp] theorem tick_faults (s : State) : (tick s).faults = s.faults := rfl
@[simp] theorem tick_mpLower (s : State) : (tick s).mpLower = s.mpLower := rfl
@[simp] theorem tick_mpUpper (s : State) : (tick s).mpUpper = s.mpUpper := rfl
@[simp] theorem tick_events (s : State) : (tick s).events = s.events := rfl
@[simp] theorem tick_counters (s : State) : (tick s).counters = s.counters := rfl
@[simp] theorem tick_i3c (s : State) : (tick s).i3c = s.i3c := rfl
@[simp] theorem tick_tap (s : State) : (tick s).tap = s.tap := rfl
@[simp] theorem tick_spdm (s : State) : (tick s).spdm = s.spdm := rfl
@[simp] theorem tick_fw (s : State) : (tick s).fw = s.fw := rfl
@[simp] theorem tick_links (s : State) : (tick s).links = s.links := rfl
@[simp] theorem tick_mem (s : State) : (tick s).mem = s.mem := rfl
@[simp] theorem tick_hostMem (s : State) : (tick s).hostMem = s.hostMem := rfl
@[simp] theorem tick_sent (s : State) : (tick s).sent = s.sent := rfl
@[simp] theorem tick_work (s : State) : (tick s).work = s.work := rfl

/-! `send` changes `sent` only. -/

@[simp] theorem send_pending (m : OutMsg) (s : State) : (send m s).pending = s.pending := rfl
@[simp] theorem send_clock (m : OutMsg) (s : State) : (send m s).clock = s.clock := rfl
@[simp] theorem send_freeCtr (m : OutMsg) (s : State) : (send m s).freeCtr = s.freeCtr := rfl
@[simp] theorem send_fuses (m : OutMsg) (s : State) : (send m s).fuses = s.fuses := rfl
@[simp] theorem send_flash (m : OutMsg) (s : State) : (send m s).flash = s.flash := rfl
@[simp] theorem send_sys (m : OutMsg) (s : State) : (send m s).sys = s.sys := rfl
@[simp] theorem send_mbx (m : OutMsg) (s : State) : (send m s).mbx = s.mbx := rfl
@[simp] theorem send_dbg (m : OutMsg) (s : State) : (send m s).dbg = s.dbg := rfl
@[simp] theorem send_fq (m : OutMsg) (s : State) : (send m s).fq = s.fq := rfl
@[simp] theorem send_irq (m : OutMsg) (s : State) : (send m s).irq = s.irq := rfl
@[simp] theorem send_attach (m : OutMsg) (s : State) : (send m s).attach = s.attach := rfl
@[simp] theorem send_journal (m : OutMsg) (s : State) : (send m s).journal = s.journal := rfl
@[simp] theorem send_ctxs (m : OutMsg) (s : State) : (send m s).ctxs = s.ctxs := rfl
@[simp] theorem send_queues (m : OutMsg) (s : State) : (send m s).queues = s.queues := rfl
@[simp] theorem send_tasks (m : OutMsg) (s : State) : (send m s).tasks = s.tasks := rfl
@[simp] theorem send_ranges (m : OutMsg) (s : State) : (send m s).ranges = s.ranges := rfl
@[simp] theorem send_windows (m : OutMsg) (s : State) : (send m s).windows = s.windows := rfl
@[simp] theorem send_ats (m : OutMsg) (s : State) : (send m s).ats = s.ats := rfl
@[simp] theorem send_streams (m : OutMsg) (s : State) : (send m s).streams = s.streams := rfl
@[simp] theorem send_stackTab (m : OutMsg) (s : State) : (send m s).stackTab = s.stackTab := rfl
@[simp] theorem send_power (m : OutMsg) (s : State) : (send m s).power = s.power := rfl
@[simp] theorem send_faults (m : OutMsg) (s : State) : (send m s).faults = s.faults := rfl
@[simp] theorem send_mpLower (m : OutMsg) (s : State) : (send m s).mpLower = s.mpLower := rfl
@[simp] theorem send_mpUpper (m : OutMsg) (s : State) : (send m s).mpUpper = s.mpUpper := rfl
@[simp] theorem send_events (m : OutMsg) (s : State) : (send m s).events = s.events := rfl
@[simp] theorem send_counters (m : OutMsg) (s : State) : (send m s).counters = s.counters := rfl
@[simp] theorem send_i3c (m : OutMsg) (s : State) : (send m s).i3c = s.i3c := rfl
@[simp] theorem send_tap (m : OutMsg) (s : State) : (send m s).tap = s.tap := rfl
@[simp] theorem send_spdm (m : OutMsg) (s : State) : (send m s).spdm = s.spdm := rfl
@[simp] theorem send_fw (m : OutMsg) (s : State) : (send m s).fw = s.fw := rfl
@[simp] theorem send_links (m : OutMsg) (s : State) : (send m s).links = s.links := rfl
@[simp] theorem send_mem (m : OutMsg) (s : State) : (send m s).mem = s.mem := rfl
@[simp] theorem send_hostMem (m : OutMsg) (s : State) : (send m s).hostMem = s.hostMem := rfl
@[simp] theorem send_work (m : OutMsg) (s : State) : (send m s).work = s.work := rfl

/-! `putUcie` changes `links` only. -/

@[simp] theorem putUcie_pending (m : Nat) (u : Ucie) (s : State) : (putUcie m u s).pending = s.pending := rfl
@[simp] theorem putUcie_clock (m : Nat) (u : Ucie) (s : State) : (putUcie m u s).clock = s.clock := rfl
@[simp] theorem putUcie_freeCtr (m : Nat) (u : Ucie) (s : State) : (putUcie m u s).freeCtr = s.freeCtr := rfl
@[simp] theorem putUcie_fuses (m : Nat) (u : Ucie) (s : State) : (putUcie m u s).fuses = s.fuses := rfl
@[simp] theorem putUcie_flash (m : Nat) (u : Ucie) (s : State) : (putUcie m u s).flash = s.flash := rfl
@[simp] theorem putUcie_sys (m : Nat) (u : Ucie) (s : State) : (putUcie m u s).sys = s.sys := rfl
@[simp] theorem putUcie_mbx (m : Nat) (u : Ucie) (s : State) : (putUcie m u s).mbx = s.mbx := rfl
@[simp] theorem putUcie_dbg (m : Nat) (u : Ucie) (s : State) : (putUcie m u s).dbg = s.dbg := rfl
@[simp] theorem putUcie_fq (m : Nat) (u : Ucie) (s : State) : (putUcie m u s).fq = s.fq := rfl
@[simp] theorem putUcie_irq (m : Nat) (u : Ucie) (s : State) : (putUcie m u s).irq = s.irq := rfl
@[simp] theorem putUcie_attach (m : Nat) (u : Ucie) (s : State) : (putUcie m u s).attach = s.attach := rfl
@[simp] theorem putUcie_journal (m : Nat) (u : Ucie) (s : State) : (putUcie m u s).journal = s.journal := rfl
@[simp] theorem putUcie_ctxs (m : Nat) (u : Ucie) (s : State) : (putUcie m u s).ctxs = s.ctxs := rfl
@[simp] theorem putUcie_queues (m : Nat) (u : Ucie) (s : State) : (putUcie m u s).queues = s.queues := rfl
@[simp] theorem putUcie_tasks (m : Nat) (u : Ucie) (s : State) : (putUcie m u s).tasks = s.tasks := rfl
@[simp] theorem putUcie_ranges (m : Nat) (u : Ucie) (s : State) : (putUcie m u s).ranges = s.ranges := rfl
@[simp] theorem putUcie_windows (m : Nat) (u : Ucie) (s : State) : (putUcie m u s).windows = s.windows := rfl
@[simp] theorem putUcie_ats (m : Nat) (u : Ucie) (s : State) : (putUcie m u s).ats = s.ats := rfl
@[simp] theorem putUcie_streams (m : Nat) (u : Ucie) (s : State) : (putUcie m u s).streams = s.streams := rfl
@[simp] theorem putUcie_stackTab (m : Nat) (u : Ucie) (s : State) : (putUcie m u s).stackTab = s.stackTab := rfl
@[simp] theorem putUcie_power (m : Nat) (u : Ucie) (s : State) : (putUcie m u s).power = s.power := rfl
@[simp] theorem putUcie_faults (m : Nat) (u : Ucie) (s : State) : (putUcie m u s).faults = s.faults := rfl
@[simp] theorem putUcie_mpLower (m : Nat) (u : Ucie) (s : State) : (putUcie m u s).mpLower = s.mpLower := rfl
@[simp] theorem putUcie_mpUpper (m : Nat) (u : Ucie) (s : State) : (putUcie m u s).mpUpper = s.mpUpper := rfl
@[simp] theorem putUcie_events (m : Nat) (u : Ucie) (s : State) : (putUcie m u s).events = s.events := rfl
@[simp] theorem putUcie_counters (m : Nat) (u : Ucie) (s : State) : (putUcie m u s).counters = s.counters := rfl
@[simp] theorem putUcie_i3c (m : Nat) (u : Ucie) (s : State) : (putUcie m u s).i3c = s.i3c := rfl
@[simp] theorem putUcie_tap (m : Nat) (u : Ucie) (s : State) : (putUcie m u s).tap = s.tap := rfl
@[simp] theorem putUcie_spdm (m : Nat) (u : Ucie) (s : State) : (putUcie m u s).spdm = s.spdm := rfl
@[simp] theorem putUcie_fw (m : Nat) (u : Ucie) (s : State) : (putUcie m u s).fw = s.fw := rfl
@[simp] theorem putUcie_mem (m : Nat) (u : Ucie) (s : State) : (putUcie m u s).mem = s.mem := rfl
@[simp] theorem putUcie_hostMem (m : Nat) (u : Ucie) (s : State) : (putUcie m u s).hostMem = s.hostMem := rfl
@[simp] theorem putUcie_sent (m : Nat) (u : Ucie) (s : State) : (putUcie m u s).sent = s.sent := rfl
@[simp] theorem putUcie_work (m : Nat) (u : Ucie) (s : State) : (putUcie m u s).work = s.work := rfl

/-! `updTables` changes `work` only. -/

@[simp] theorem updTables_pending (f : Tables → Tables) (s : State) : (updTables f s).pending = s.pending := rfl
@[simp] theorem updTables_clock (f : Tables → Tables) (s : State) : (updTables f s).clock = s.clock := rfl
@[simp] theorem updTables_freeCtr (f : Tables → Tables) (s : State) : (updTables f s).freeCtr = s.freeCtr := rfl
@[simp] theorem updTables_fuses (f : Tables → Tables) (s : State) : (updTables f s).fuses = s.fuses := rfl
@[simp] theorem updTables_flash (f : Tables → Tables) (s : State) : (updTables f s).flash = s.flash := rfl
@[simp] theorem updTables_sys (f : Tables → Tables) (s : State) : (updTables f s).sys = s.sys := rfl
@[simp] theorem updTables_mbx (f : Tables → Tables) (s : State) : (updTables f s).mbx = s.mbx := rfl
@[simp] theorem updTables_dbg (f : Tables → Tables) (s : State) : (updTables f s).dbg = s.dbg := rfl
@[simp] theorem updTables_fq (f : Tables → Tables) (s : State) : (updTables f s).fq = s.fq := rfl
@[simp] theorem updTables_irq (f : Tables → Tables) (s : State) : (updTables f s).irq = s.irq := rfl
@[simp] theorem updTables_attach (f : Tables → Tables) (s : State) : (updTables f s).attach = s.attach := rfl
@[simp] theorem updTables_journal (f : Tables → Tables) (s : State) : (updTables f s).journal = s.journal := rfl
@[simp] theorem updTables_ctxs (f : Tables → Tables) (s : State) : (updTables f s).ctxs = s.ctxs := rfl
@[simp] theorem updTables_queues (f : Tables → Tables) (s : State) : (updTables f s).queues = s.queues := rfl
@[simp] theorem updTables_tasks (f : Tables → Tables) (s : State) : (updTables f s).tasks = s.tasks := rfl
@[simp] theorem updTables_ranges (f : Tables → Tables) (s : State) : (updTables f s).ranges = s.ranges := rfl
@[simp] theorem updTables_windows (f : Tables → Tables) (s : State) : (updTables f s).windows = s.windows := rfl
@[simp] theorem updTables_ats (f : Tables → Tables) (s : State) : (updTables f s).ats = s.ats := rfl
@[simp] theorem updTables_streams (f : Tables → Tables) (s : State) : (updTables f s).streams = s.streams := rfl
@[simp] theorem updTables_stackTab (f : Tables → Tables) (s : State) : (updTables f s).stackTab = s.stackTab := rfl
@[simp] theorem updTables_power (f : Tables → Tables) (s : State) : (updTables f s).power = s.power := rfl
@[simp] theorem updTables_faults (f : Tables → Tables) (s : State) : (updTables f s).faults = s.faults := rfl
@[simp] theorem updTables_mpLower (f : Tables → Tables) (s : State) : (updTables f s).mpLower = s.mpLower := rfl
@[simp] theorem updTables_mpUpper (f : Tables → Tables) (s : State) : (updTables f s).mpUpper = s.mpUpper := rfl
@[simp] theorem updTables_events (f : Tables → Tables) (s : State) : (updTables f s).events = s.events := rfl
@[simp] theorem updTables_counters (f : Tables → Tables) (s : State) : (updTables f s).counters = s.counters := rfl
@[simp] theorem updTables_i3c (f : Tables → Tables) (s : State) : (updTables f s).i3c = s.i3c := rfl
@[simp] theorem updTables_tap (f : Tables → Tables) (s : State) : (updTables f s).tap = s.tap := rfl
@[simp] theorem updTables_spdm (f : Tables → Tables) (s : State) : (updTables f s).spdm = s.spdm := rfl
@[simp] theorem updTables_fw (f : Tables → Tables) (s : State) : (updTables f s).fw = s.fw := rfl
@[simp] theorem updTables_links (f : Tables → Tables) (s : State) : (updTables f s).links = s.links := rfl
@[simp] theorem updTables_mem (f : Tables → Tables) (s : State) : (updTables f s).mem = s.mem := rfl
@[simp] theorem updTables_hostMem (f : Tables → Tables) (s : State) : (updTables f s).hostMem = s.hostMem := rfl
@[simp] theorem updTables_sent (f : Tables → Tables) (s : State) : (updTables f s).sent = s.sent := rfl

/-! `updUpd` changes `work` only. -/

@[simp] theorem updUpd_pending (f : Updates → Updates) (s : State) : (updUpd f s).pending = s.pending := rfl
@[simp] theorem updUpd_clock (f : Updates → Updates) (s : State) : (updUpd f s).clock = s.clock := rfl
@[simp] theorem updUpd_freeCtr (f : Updates → Updates) (s : State) : (updUpd f s).freeCtr = s.freeCtr := rfl
@[simp] theorem updUpd_fuses (f : Updates → Updates) (s : State) : (updUpd f s).fuses = s.fuses := rfl
@[simp] theorem updUpd_flash (f : Updates → Updates) (s : State) : (updUpd f s).flash = s.flash := rfl
@[simp] theorem updUpd_sys (f : Updates → Updates) (s : State) : (updUpd f s).sys = s.sys := rfl
@[simp] theorem updUpd_mbx (f : Updates → Updates) (s : State) : (updUpd f s).mbx = s.mbx := rfl
@[simp] theorem updUpd_dbg (f : Updates → Updates) (s : State) : (updUpd f s).dbg = s.dbg := rfl
@[simp] theorem updUpd_fq (f : Updates → Updates) (s : State) : (updUpd f s).fq = s.fq := rfl
@[simp] theorem updUpd_irq (f : Updates → Updates) (s : State) : (updUpd f s).irq = s.irq := rfl
@[simp] theorem updUpd_attach (f : Updates → Updates) (s : State) : (updUpd f s).attach = s.attach := rfl
@[simp] theorem updUpd_journal (f : Updates → Updates) (s : State) : (updUpd f s).journal = s.journal := rfl
@[simp] theorem updUpd_ctxs (f : Updates → Updates) (s : State) : (updUpd f s).ctxs = s.ctxs := rfl
@[simp] theorem updUpd_queues (f : Updates → Updates) (s : State) : (updUpd f s).queues = s.queues := rfl
@[simp] theorem updUpd_tasks (f : Updates → Updates) (s : State) : (updUpd f s).tasks = s.tasks := rfl
@[simp] theorem updUpd_ranges (f : Updates → Updates) (s : State) : (updUpd f s).ranges = s.ranges := rfl
@[simp] theorem updUpd_windows (f : Updates → Updates) (s : State) : (updUpd f s).windows = s.windows := rfl
@[simp] theorem updUpd_ats (f : Updates → Updates) (s : State) : (updUpd f s).ats = s.ats := rfl
@[simp] theorem updUpd_streams (f : Updates → Updates) (s : State) : (updUpd f s).streams = s.streams := rfl
@[simp] theorem updUpd_stackTab (f : Updates → Updates) (s : State) : (updUpd f s).stackTab = s.stackTab := rfl
@[simp] theorem updUpd_power (f : Updates → Updates) (s : State) : (updUpd f s).power = s.power := rfl
@[simp] theorem updUpd_faults (f : Updates → Updates) (s : State) : (updUpd f s).faults = s.faults := rfl
@[simp] theorem updUpd_mpLower (f : Updates → Updates) (s : State) : (updUpd f s).mpLower = s.mpLower := rfl
@[simp] theorem updUpd_mpUpper (f : Updates → Updates) (s : State) : (updUpd f s).mpUpper = s.mpUpper := rfl
@[simp] theorem updUpd_events (f : Updates → Updates) (s : State) : (updUpd f s).events = s.events := rfl
@[simp] theorem updUpd_counters (f : Updates → Updates) (s : State) : (updUpd f s).counters = s.counters := rfl
@[simp] theorem updUpd_i3c (f : Updates → Updates) (s : State) : (updUpd f s).i3c = s.i3c := rfl
@[simp] theorem updUpd_tap (f : Updates → Updates) (s : State) : (updUpd f s).tap = s.tap := rfl
@[simp] theorem updUpd_spdm (f : Updates → Updates) (s : State) : (updUpd f s).spdm = s.spdm := rfl
@[simp] theorem updUpd_fw (f : Updates → Updates) (s : State) : (updUpd f s).fw = s.fw := rfl
@[simp] theorem updUpd_links (f : Updates → Updates) (s : State) : (updUpd f s).links = s.links := rfl
@[simp] theorem updUpd_mem (f : Updates → Updates) (s : State) : (updUpd f s).mem = s.mem := rfl
@[simp] theorem updUpd_hostMem (f : Updates → Updates) (s : State) : (updUpd f s).hostMem = s.hostMem := rfl
@[simp] theorem updUpd_sent (f : Updates → Updates) (s : State) : (updUpd f s).sent = s.sent := rfl

/-! `updIdx` changes `work` only. -/

@[simp] theorem updIdx_pending (f : Index → Index) (s : State) : (updIdx f s).pending = s.pending := rfl
@[simp] theorem updIdx_clock (f : Index → Index) (s : State) : (updIdx f s).clock = s.clock := rfl
@[simp] theorem updIdx_freeCtr (f : Index → Index) (s : State) : (updIdx f s).freeCtr = s.freeCtr := rfl
@[simp] theorem updIdx_fuses (f : Index → Index) (s : State) : (updIdx f s).fuses = s.fuses := rfl
@[simp] theorem updIdx_flash (f : Index → Index) (s : State) : (updIdx f s).flash = s.flash := rfl
@[simp] theorem updIdx_sys (f : Index → Index) (s : State) : (updIdx f s).sys = s.sys := rfl
@[simp] theorem updIdx_mbx (f : Index → Index) (s : State) : (updIdx f s).mbx = s.mbx := rfl
@[simp] theorem updIdx_dbg (f : Index → Index) (s : State) : (updIdx f s).dbg = s.dbg := rfl
@[simp] theorem updIdx_fq (f : Index → Index) (s : State) : (updIdx f s).fq = s.fq := rfl
@[simp] theorem updIdx_irq (f : Index → Index) (s : State) : (updIdx f s).irq = s.irq := rfl
@[simp] theorem updIdx_attach (f : Index → Index) (s : State) : (updIdx f s).attach = s.attach := rfl
@[simp] theorem updIdx_journal (f : Index → Index) (s : State) : (updIdx f s).journal = s.journal := rfl
@[simp] theorem updIdx_ctxs (f : Index → Index) (s : State) : (updIdx f s).ctxs = s.ctxs := rfl
@[simp] theorem updIdx_queues (f : Index → Index) (s : State) : (updIdx f s).queues = s.queues := rfl
@[simp] theorem updIdx_tasks (f : Index → Index) (s : State) : (updIdx f s).tasks = s.tasks := rfl
@[simp] theorem updIdx_ranges (f : Index → Index) (s : State) : (updIdx f s).ranges = s.ranges := rfl
@[simp] theorem updIdx_windows (f : Index → Index) (s : State) : (updIdx f s).windows = s.windows := rfl
@[simp] theorem updIdx_ats (f : Index → Index) (s : State) : (updIdx f s).ats = s.ats := rfl
@[simp] theorem updIdx_streams (f : Index → Index) (s : State) : (updIdx f s).streams = s.streams := rfl
@[simp] theorem updIdx_stackTab (f : Index → Index) (s : State) : (updIdx f s).stackTab = s.stackTab := rfl
@[simp] theorem updIdx_power (f : Index → Index) (s : State) : (updIdx f s).power = s.power := rfl
@[simp] theorem updIdx_faults (f : Index → Index) (s : State) : (updIdx f s).faults = s.faults := rfl
@[simp] theorem updIdx_mpLower (f : Index → Index) (s : State) : (updIdx f s).mpLower = s.mpLower := rfl
@[simp] theorem updIdx_mpUpper (f : Index → Index) (s : State) : (updIdx f s).mpUpper = s.mpUpper := rfl
@[simp] theorem updIdx_events (f : Index → Index) (s : State) : (updIdx f s).events = s.events := rfl
@[simp] theorem updIdx_counters (f : Index → Index) (s : State) : (updIdx f s).counters = s.counters := rfl
@[simp] theorem updIdx_i3c (f : Index → Index) (s : State) : (updIdx f s).i3c = s.i3c := rfl
@[simp] theorem updIdx_tap (f : Index → Index) (s : State) : (updIdx f s).tap = s.tap := rfl
@[simp] theorem updIdx_spdm (f : Index → Index) (s : State) : (updIdx f s).spdm = s.spdm := rfl
@[simp] theorem updIdx_fw (f : Index → Index) (s : State) : (updIdx f s).fw = s.fw := rfl
@[simp] theorem updIdx_links (f : Index → Index) (s : State) : (updIdx f s).links = s.links := rfl
@[simp] theorem updIdx_mem (f : Index → Index) (s : State) : (updIdx f s).mem = s.mem := rfl
@[simp] theorem updIdx_hostMem (f : Index → Index) (s : State) : (updIdx f s).hostMem = s.hostMem := rfl
@[simp] theorem updIdx_sent (f : Index → Index) (s : State) : (updIdx f s).sent = s.sent := rfl

/-! `updChain` changes `work` only. -/

@[simp] theorem updChain_pending (f : Chain → Chain) (s : State) : (updChain f s).pending = s.pending := rfl
@[simp] theorem updChain_clock (f : Chain → Chain) (s : State) : (updChain f s).clock = s.clock := rfl
@[simp] theorem updChain_freeCtr (f : Chain → Chain) (s : State) : (updChain f s).freeCtr = s.freeCtr := rfl
@[simp] theorem updChain_fuses (f : Chain → Chain) (s : State) : (updChain f s).fuses = s.fuses := rfl
@[simp] theorem updChain_flash (f : Chain → Chain) (s : State) : (updChain f s).flash = s.flash := rfl
@[simp] theorem updChain_sys (f : Chain → Chain) (s : State) : (updChain f s).sys = s.sys := rfl
@[simp] theorem updChain_mbx (f : Chain → Chain) (s : State) : (updChain f s).mbx = s.mbx := rfl
@[simp] theorem updChain_dbg (f : Chain → Chain) (s : State) : (updChain f s).dbg = s.dbg := rfl
@[simp] theorem updChain_fq (f : Chain → Chain) (s : State) : (updChain f s).fq = s.fq := rfl
@[simp] theorem updChain_irq (f : Chain → Chain) (s : State) : (updChain f s).irq = s.irq := rfl
@[simp] theorem updChain_attach (f : Chain → Chain) (s : State) : (updChain f s).attach = s.attach := rfl
@[simp] theorem updChain_journal (f : Chain → Chain) (s : State) : (updChain f s).journal = s.journal := rfl
@[simp] theorem updChain_ctxs (f : Chain → Chain) (s : State) : (updChain f s).ctxs = s.ctxs := rfl
@[simp] theorem updChain_queues (f : Chain → Chain) (s : State) : (updChain f s).queues = s.queues := rfl
@[simp] theorem updChain_tasks (f : Chain → Chain) (s : State) : (updChain f s).tasks = s.tasks := rfl
@[simp] theorem updChain_ranges (f : Chain → Chain) (s : State) : (updChain f s).ranges = s.ranges := rfl
@[simp] theorem updChain_windows (f : Chain → Chain) (s : State) : (updChain f s).windows = s.windows := rfl
@[simp] theorem updChain_ats (f : Chain → Chain) (s : State) : (updChain f s).ats = s.ats := rfl
@[simp] theorem updChain_streams (f : Chain → Chain) (s : State) : (updChain f s).streams = s.streams := rfl
@[simp] theorem updChain_stackTab (f : Chain → Chain) (s : State) : (updChain f s).stackTab = s.stackTab := rfl
@[simp] theorem updChain_power (f : Chain → Chain) (s : State) : (updChain f s).power = s.power := rfl
@[simp] theorem updChain_faults (f : Chain → Chain) (s : State) : (updChain f s).faults = s.faults := rfl
@[simp] theorem updChain_mpLower (f : Chain → Chain) (s : State) : (updChain f s).mpLower = s.mpLower := rfl
@[simp] theorem updChain_mpUpper (f : Chain → Chain) (s : State) : (updChain f s).mpUpper = s.mpUpper := rfl
@[simp] theorem updChain_events (f : Chain → Chain) (s : State) : (updChain f s).events = s.events := rfl
@[simp] theorem updChain_counters (f : Chain → Chain) (s : State) : (updChain f s).counters = s.counters := rfl
@[simp] theorem updChain_i3c (f : Chain → Chain) (s : State) : (updChain f s).i3c = s.i3c := rfl
@[simp] theorem updChain_tap (f : Chain → Chain) (s : State) : (updChain f s).tap = s.tap := rfl
@[simp] theorem updChain_spdm (f : Chain → Chain) (s : State) : (updChain f s).spdm = s.spdm := rfl
@[simp] theorem updChain_fw (f : Chain → Chain) (s : State) : (updChain f s).fw = s.fw := rfl
@[simp] theorem updChain_links (f : Chain → Chain) (s : State) : (updChain f s).links = s.links := rfl
@[simp] theorem updChain_mem (f : Chain → Chain) (s : State) : (updChain f s).mem = s.mem := rfl
@[simp] theorem updChain_hostMem (f : Chain → Chain) (s : State) : (updChain f s).hostMem = s.hostMem := rfl
@[simp] theorem updChain_sent (f : Chain → Chain) (s : State) : (updChain f s).sent = s.sent := rfl

/-! `putChan` changes `work` only. -/

@[simp] theorem putChan_pending (c : Nat) (x : Channel) (s : State) : (putChan c x s).pending = s.pending := rfl
@[simp] theorem putChan_clock (c : Nat) (x : Channel) (s : State) : (putChan c x s).clock = s.clock := rfl
@[simp] theorem putChan_freeCtr (c : Nat) (x : Channel) (s : State) : (putChan c x s).freeCtr = s.freeCtr := rfl
@[simp] theorem putChan_fuses (c : Nat) (x : Channel) (s : State) : (putChan c x s).fuses = s.fuses := rfl
@[simp] theorem putChan_flash (c : Nat) (x : Channel) (s : State) : (putChan c x s).flash = s.flash := rfl
@[simp] theorem putChan_sys (c : Nat) (x : Channel) (s : State) : (putChan c x s).sys = s.sys := rfl
@[simp] theorem putChan_mbx (c : Nat) (x : Channel) (s : State) : (putChan c x s).mbx = s.mbx := rfl
@[simp] theorem putChan_dbg (c : Nat) (x : Channel) (s : State) : (putChan c x s).dbg = s.dbg := rfl
@[simp] theorem putChan_fq (c : Nat) (x : Channel) (s : State) : (putChan c x s).fq = s.fq := rfl
@[simp] theorem putChan_irq (c : Nat) (x : Channel) (s : State) : (putChan c x s).irq = s.irq := rfl
@[simp] theorem putChan_attach (c : Nat) (x : Channel) (s : State) : (putChan c x s).attach = s.attach := rfl
@[simp] theorem putChan_journal (c : Nat) (x : Channel) (s : State) : (putChan c x s).journal = s.journal := rfl
@[simp] theorem putChan_ctxs (c : Nat) (x : Channel) (s : State) : (putChan c x s).ctxs = s.ctxs := rfl
@[simp] theorem putChan_queues (c : Nat) (x : Channel) (s : State) : (putChan c x s).queues = s.queues := rfl
@[simp] theorem putChan_tasks (c : Nat) (x : Channel) (s : State) : (putChan c x s).tasks = s.tasks := rfl
@[simp] theorem putChan_ranges (c : Nat) (x : Channel) (s : State) : (putChan c x s).ranges = s.ranges := rfl
@[simp] theorem putChan_windows (c : Nat) (x : Channel) (s : State) : (putChan c x s).windows = s.windows := rfl
@[simp] theorem putChan_ats (c : Nat) (x : Channel) (s : State) : (putChan c x s).ats = s.ats := rfl
@[simp] theorem putChan_streams (c : Nat) (x : Channel) (s : State) : (putChan c x s).streams = s.streams := rfl
@[simp] theorem putChan_stackTab (c : Nat) (x : Channel) (s : State) : (putChan c x s).stackTab = s.stackTab := rfl
@[simp] theorem putChan_power (c : Nat) (x : Channel) (s : State) : (putChan c x s).power = s.power := rfl
@[simp] theorem putChan_faults (c : Nat) (x : Channel) (s : State) : (putChan c x s).faults = s.faults := rfl
@[simp] theorem putChan_mpLower (c : Nat) (x : Channel) (s : State) : (putChan c x s).mpLower = s.mpLower := rfl
@[simp] theorem putChan_mpUpper (c : Nat) (x : Channel) (s : State) : (putChan c x s).mpUpper = s.mpUpper := rfl
@[simp] theorem putChan_events (c : Nat) (x : Channel) (s : State) : (putChan c x s).events = s.events := rfl
@[simp] theorem putChan_counters (c : Nat) (x : Channel) (s : State) : (putChan c x s).counters = s.counters := rfl
@[simp] theorem putChan_i3c (c : Nat) (x : Channel) (s : State) : (putChan c x s).i3c = s.i3c := rfl
@[simp] theorem putChan_tap (c : Nat) (x : Channel) (s : State) : (putChan c x s).tap = s.tap := rfl
@[simp] theorem putChan_spdm (c : Nat) (x : Channel) (s : State) : (putChan c x s).spdm = s.spdm := rfl
@[simp] theorem putChan_fw (c : Nat) (x : Channel) (s : State) : (putChan c x s).fw = s.fw := rfl
@[simp] theorem putChan_links (c : Nat) (x : Channel) (s : State) : (putChan c x s).links = s.links := rfl
@[simp] theorem putChan_mem (c : Nat) (x : Channel) (s : State) : (putChan c x s).mem = s.mem := rfl
@[simp] theorem putChan_hostMem (c : Nat) (x : Channel) (s : State) : (putChan c x s).hostMem = s.hostMem := rfl
@[simp] theorem putChan_sent (c : Nat) (x : Channel) (s : State) : (putChan c x s).sent = s.sent := rfl

/-! `updFaults` changes `faults` only. -/

@[simp] theorem updFaults_pending (f : Faults → Faults) (s : State) : (updFaults f s).pending = s.pending := rfl
@[simp] theorem updFaults_clock (f : Faults → Faults) (s : State) : (updFaults f s).clock = s.clock := rfl
@[simp] theorem updFaults_freeCtr (f : Faults → Faults) (s : State) : (updFaults f s).freeCtr = s.freeCtr := rfl
@[simp] theorem updFaults_fuses (f : Faults → Faults) (s : State) : (updFaults f s).fuses = s.fuses := rfl
@[simp] theorem updFaults_flash (f : Faults → Faults) (s : State) : (updFaults f s).flash = s.flash := rfl
@[simp] theorem updFaults_sys (f : Faults → Faults) (s : State) : (updFaults f s).sys = s.sys := rfl
@[simp] theorem updFaults_mbx (f : Faults → Faults) (s : State) : (updFaults f s).mbx = s.mbx := rfl
@[simp] theorem updFaults_dbg (f : Faults → Faults) (s : State) : (updFaults f s).dbg = s.dbg := rfl
@[simp] theorem updFaults_fq (f : Faults → Faults) (s : State) : (updFaults f s).fq = s.fq := rfl
@[simp] theorem updFaults_irq (f : Faults → Faults) (s : State) : (updFaults f s).irq = s.irq := rfl
@[simp] theorem updFaults_attach (f : Faults → Faults) (s : State) : (updFaults f s).attach = s.attach := rfl
@[simp] theorem updFaults_journal (f : Faults → Faults) (s : State) : (updFaults f s).journal = s.journal := rfl
@[simp] theorem updFaults_ctxs (f : Faults → Faults) (s : State) : (updFaults f s).ctxs = s.ctxs := rfl
@[simp] theorem updFaults_queues (f : Faults → Faults) (s : State) : (updFaults f s).queues = s.queues := rfl
@[simp] theorem updFaults_tasks (f : Faults → Faults) (s : State) : (updFaults f s).tasks = s.tasks := rfl
@[simp] theorem updFaults_ranges (f : Faults → Faults) (s : State) : (updFaults f s).ranges = s.ranges := rfl
@[simp] theorem updFaults_windows (f : Faults → Faults) (s : State) : (updFaults f s).windows = s.windows := rfl
@[simp] theorem updFaults_ats (f : Faults → Faults) (s : State) : (updFaults f s).ats = s.ats := rfl
@[simp] theorem updFaults_streams (f : Faults → Faults) (s : State) : (updFaults f s).streams = s.streams := rfl
@[simp] theorem updFaults_stackTab (f : Faults → Faults) (s : State) : (updFaults f s).stackTab = s.stackTab := rfl
@[simp] theorem updFaults_power (f : Faults → Faults) (s : State) : (updFaults f s).power = s.power := rfl
@[simp] theorem updFaults_mpLower (f : Faults → Faults) (s : State) : (updFaults f s).mpLower = s.mpLower := rfl
@[simp] theorem updFaults_mpUpper (f : Faults → Faults) (s : State) : (updFaults f s).mpUpper = s.mpUpper := rfl
@[simp] theorem updFaults_events (f : Faults → Faults) (s : State) : (updFaults f s).events = s.events := rfl
@[simp] theorem updFaults_counters (f : Faults → Faults) (s : State) : (updFaults f s).counters = s.counters := rfl
@[simp] theorem updFaults_i3c (f : Faults → Faults) (s : State) : (updFaults f s).i3c = s.i3c := rfl
@[simp] theorem updFaults_tap (f : Faults → Faults) (s : State) : (updFaults f s).tap = s.tap := rfl
@[simp] theorem updFaults_spdm (f : Faults → Faults) (s : State) : (updFaults f s).spdm = s.spdm := rfl
@[simp] theorem updFaults_fw (f : Faults → Faults) (s : State) : (updFaults f s).fw = s.fw := rfl
@[simp] theorem updFaults_links (f : Faults → Faults) (s : State) : (updFaults f s).links = s.links := rfl
@[simp] theorem updFaults_mem (f : Faults → Faults) (s : State) : (updFaults f s).mem = s.mem := rfl
@[simp] theorem updFaults_hostMem (f : Faults → Faults) (s : State) : (updFaults f s).hostMem = s.hostMem := rfl
@[simp] theorem updFaults_sent (f : Faults → Faults) (s : State) : (updFaults f s).sent = s.sent := rfl
@[simp] theorem updFaults_work (f : Faults → Faults) (s : State) : (updFaults f s).work = s.work := rfl

/-! `putTask` changes `tasks` only. -/

@[simp] theorem putTask_pending (t : Task) (s : State) : (putTask t s).pending = s.pending := rfl
@[simp] theorem putTask_clock (t : Task) (s : State) : (putTask t s).clock = s.clock := rfl
@[simp] theorem putTask_freeCtr (t : Task) (s : State) : (putTask t s).freeCtr = s.freeCtr := rfl
@[simp] theorem putTask_fuses (t : Task) (s : State) : (putTask t s).fuses = s.fuses := rfl
@[simp] theorem putTask_flash (t : Task) (s : State) : (putTask t s).flash = s.flash := rfl
@[simp] theorem putTask_sys (t : Task) (s : State) : (putTask t s).sys = s.sys := rfl
@[simp] theorem putTask_mbx (t : Task) (s : State) : (putTask t s).mbx = s.mbx := rfl
@[simp] theorem putTask_dbg (t : Task) (s : State) : (putTask t s).dbg = s.dbg := rfl
@[simp] theorem putTask_fq (t : Task) (s : State) : (putTask t s).fq = s.fq := rfl
@[simp] theorem putTask_irq (t : Task) (s : State) : (putTask t s).irq = s.irq := rfl
@[simp] theorem putTask_attach (t : Task) (s : State) : (putTask t s).attach = s.attach := rfl
@[simp] theorem putTask_journal (t : Task) (s : State) : (putTask t s).journal = s.journal := rfl
@[simp] theorem putTask_ctxs (t : Task) (s : State) : (putTask t s).ctxs = s.ctxs := rfl
@[simp] theorem putTask_queues (t : Task) (s : State) : (putTask t s).queues = s.queues := rfl
@[simp] theorem putTask_ranges (t : Task) (s : State) : (putTask t s).ranges = s.ranges := rfl
@[simp] theorem putTask_windows (t : Task) (s : State) : (putTask t s).windows = s.windows := rfl
@[simp] theorem putTask_ats (t : Task) (s : State) : (putTask t s).ats = s.ats := rfl
@[simp] theorem putTask_streams (t : Task) (s : State) : (putTask t s).streams = s.streams := rfl
@[simp] theorem putTask_stackTab (t : Task) (s : State) : (putTask t s).stackTab = s.stackTab := rfl
@[simp] theorem putTask_power (t : Task) (s : State) : (putTask t s).power = s.power := rfl
@[simp] theorem putTask_faults (t : Task) (s : State) : (putTask t s).faults = s.faults := rfl
@[simp] theorem putTask_mpLower (t : Task) (s : State) : (putTask t s).mpLower = s.mpLower := rfl
@[simp] theorem putTask_mpUpper (t : Task) (s : State) : (putTask t s).mpUpper = s.mpUpper := rfl
@[simp] theorem putTask_events (t : Task) (s : State) : (putTask t s).events = s.events := rfl
@[simp] theorem putTask_counters (t : Task) (s : State) : (putTask t s).counters = s.counters := rfl
@[simp] theorem putTask_i3c (t : Task) (s : State) : (putTask t s).i3c = s.i3c := rfl
@[simp] theorem putTask_tap (t : Task) (s : State) : (putTask t s).tap = s.tap := rfl
@[simp] theorem putTask_spdm (t : Task) (s : State) : (putTask t s).spdm = s.spdm := rfl
@[simp] theorem putTask_fw (t : Task) (s : State) : (putTask t s).fw = s.fw := rfl
@[simp] theorem putTask_links (t : Task) (s : State) : (putTask t s).links = s.links := rfl
@[simp] theorem putTask_mem (t : Task) (s : State) : (putTask t s).mem = s.mem := rfl
@[simp] theorem putTask_hostMem (t : Task) (s : State) : (putTask t s).hostMem = s.hostMem := rfl
@[simp] theorem putTask_sent (t : Task) (s : State) : (putTask t s).sent = s.sent := rfl
@[simp] theorem putTask_work (t : Task) (s : State) : (putTask t s).work = s.work := rfl

/-! `updCtx` changes `ctxs` only. -/

@[simp] theorem updCtx_pending (c : Nat) (f : Ctx → Ctx) (s : State) : (updCtx c f s).pending = s.pending := rfl
@[simp] theorem updCtx_clock (c : Nat) (f : Ctx → Ctx) (s : State) : (updCtx c f s).clock = s.clock := rfl
@[simp] theorem updCtx_freeCtr (c : Nat) (f : Ctx → Ctx) (s : State) : (updCtx c f s).freeCtr = s.freeCtr := rfl
@[simp] theorem updCtx_fuses (c : Nat) (f : Ctx → Ctx) (s : State) : (updCtx c f s).fuses = s.fuses := rfl
@[simp] theorem updCtx_flash (c : Nat) (f : Ctx → Ctx) (s : State) : (updCtx c f s).flash = s.flash := rfl
@[simp] theorem updCtx_sys (c : Nat) (f : Ctx → Ctx) (s : State) : (updCtx c f s).sys = s.sys := rfl
@[simp] theorem updCtx_mbx (c : Nat) (f : Ctx → Ctx) (s : State) : (updCtx c f s).mbx = s.mbx := rfl
@[simp] theorem updCtx_dbg (c : Nat) (f : Ctx → Ctx) (s : State) : (updCtx c f s).dbg = s.dbg := rfl
@[simp] theorem updCtx_fq (c : Nat) (f : Ctx → Ctx) (s : State) : (updCtx c f s).fq = s.fq := rfl
@[simp] theorem updCtx_irq (c : Nat) (f : Ctx → Ctx) (s : State) : (updCtx c f s).irq = s.irq := rfl
@[simp] theorem updCtx_attach (c : Nat) (f : Ctx → Ctx) (s : State) : (updCtx c f s).attach = s.attach := rfl
@[simp] theorem updCtx_journal (c : Nat) (f : Ctx → Ctx) (s : State) : (updCtx c f s).journal = s.journal := rfl
@[simp] theorem updCtx_queues (c : Nat) (f : Ctx → Ctx) (s : State) : (updCtx c f s).queues = s.queues := rfl
@[simp] theorem updCtx_tasks (c : Nat) (f : Ctx → Ctx) (s : State) : (updCtx c f s).tasks = s.tasks := rfl
@[simp] theorem updCtx_ranges (c : Nat) (f : Ctx → Ctx) (s : State) : (updCtx c f s).ranges = s.ranges := rfl
@[simp] theorem updCtx_windows (c : Nat) (f : Ctx → Ctx) (s : State) : (updCtx c f s).windows = s.windows := rfl
@[simp] theorem updCtx_ats (c : Nat) (f : Ctx → Ctx) (s : State) : (updCtx c f s).ats = s.ats := rfl
@[simp] theorem updCtx_streams (c : Nat) (f : Ctx → Ctx) (s : State) : (updCtx c f s).streams = s.streams := rfl
@[simp] theorem updCtx_stackTab (c : Nat) (f : Ctx → Ctx) (s : State) : (updCtx c f s).stackTab = s.stackTab := rfl
@[simp] theorem updCtx_power (c : Nat) (f : Ctx → Ctx) (s : State) : (updCtx c f s).power = s.power := rfl
@[simp] theorem updCtx_faults (c : Nat) (f : Ctx → Ctx) (s : State) : (updCtx c f s).faults = s.faults := rfl
@[simp] theorem updCtx_mpLower (c : Nat) (f : Ctx → Ctx) (s : State) : (updCtx c f s).mpLower = s.mpLower := rfl
@[simp] theorem updCtx_mpUpper (c : Nat) (f : Ctx → Ctx) (s : State) : (updCtx c f s).mpUpper = s.mpUpper := rfl
@[simp] theorem updCtx_events (c : Nat) (f : Ctx → Ctx) (s : State) : (updCtx c f s).events = s.events := rfl
@[simp] theorem updCtx_counters (c : Nat) (f : Ctx → Ctx) (s : State) : (updCtx c f s).counters = s.counters := rfl
@[simp] theorem updCtx_i3c (c : Nat) (f : Ctx → Ctx) (s : State) : (updCtx c f s).i3c = s.i3c := rfl
@[simp] theorem updCtx_tap (c : Nat) (f : Ctx → Ctx) (s : State) : (updCtx c f s).tap = s.tap := rfl
@[simp] theorem updCtx_spdm (c : Nat) (f : Ctx → Ctx) (s : State) : (updCtx c f s).spdm = s.spdm := rfl
@[simp] theorem updCtx_fw (c : Nat) (f : Ctx → Ctx) (s : State) : (updCtx c f s).fw = s.fw := rfl
@[simp] theorem updCtx_links (c : Nat) (f : Ctx → Ctx) (s : State) : (updCtx c f s).links = s.links := rfl
@[simp] theorem updCtx_mem (c : Nat) (f : Ctx → Ctx) (s : State) : (updCtx c f s).mem = s.mem := rfl
@[simp] theorem updCtx_hostMem (c : Nat) (f : Ctx → Ctx) (s : State) : (updCtx c f s).hostMem = s.hostMem := rfl
@[simp] theorem updCtx_sent (c : Nat) (f : Ctx → Ctx) (s : State) : (updCtx c f s).sent = s.sent := rfl
@[simp] theorem updCtx_work (c : Nat) (f : Ctx → Ctx) (s : State) : (updCtx c f s).work = s.work := rfl

/-! `updQueue` changes `queues` only. -/

@[simp] theorem updQueue_pending (q : Nat) (f : Queue → Queue) (s : State) : (updQueue q f s).pending = s.pending := rfl
@[simp] theorem updQueue_clock (q : Nat) (f : Queue → Queue) (s : State) : (updQueue q f s).clock = s.clock := rfl
@[simp] theorem updQueue_freeCtr (q : Nat) (f : Queue → Queue) (s : State) : (updQueue q f s).freeCtr = s.freeCtr := rfl
@[simp] theorem updQueue_fuses (q : Nat) (f : Queue → Queue) (s : State) : (updQueue q f s).fuses = s.fuses := rfl
@[simp] theorem updQueue_flash (q : Nat) (f : Queue → Queue) (s : State) : (updQueue q f s).flash = s.flash := rfl
@[simp] theorem updQueue_sys (q : Nat) (f : Queue → Queue) (s : State) : (updQueue q f s).sys = s.sys := rfl
@[simp] theorem updQueue_mbx (q : Nat) (f : Queue → Queue) (s : State) : (updQueue q f s).mbx = s.mbx := rfl
@[simp] theorem updQueue_dbg (q : Nat) (f : Queue → Queue) (s : State) : (updQueue q f s).dbg = s.dbg := rfl
@[simp] theorem updQueue_fq (q : Nat) (f : Queue → Queue) (s : State) : (updQueue q f s).fq = s.fq := rfl
@[simp] theorem updQueue_irq (q : Nat) (f : Queue → Queue) (s : State) : (updQueue q f s).irq = s.irq := rfl
@[simp] theorem updQueue_attach (q : Nat) (f : Queue → Queue) (s : State) : (updQueue q f s).attach = s.attach := rfl
@[simp] theorem updQueue_journal (q : Nat) (f : Queue → Queue) (s : State) : (updQueue q f s).journal = s.journal := rfl
@[simp] theorem updQueue_ctxs (q : Nat) (f : Queue → Queue) (s : State) : (updQueue q f s).ctxs = s.ctxs := rfl
@[simp] theorem updQueue_tasks (q : Nat) (f : Queue → Queue) (s : State) : (updQueue q f s).tasks = s.tasks := rfl
@[simp] theorem updQueue_ranges (q : Nat) (f : Queue → Queue) (s : State) : (updQueue q f s).ranges = s.ranges := rfl
@[simp] theorem updQueue_windows (q : Nat) (f : Queue → Queue) (s : State) : (updQueue q f s).windows = s.windows := rfl
@[simp] theorem updQueue_ats (q : Nat) (f : Queue → Queue) (s : State) : (updQueue q f s).ats = s.ats := rfl
@[simp] theorem updQueue_streams (q : Nat) (f : Queue → Queue) (s : State) : (updQueue q f s).streams = s.streams := rfl
@[simp] theorem updQueue_stackTab (q : Nat) (f : Queue → Queue) (s : State) : (updQueue q f s).stackTab = s.stackTab := rfl
@[simp] theorem updQueue_power (q : Nat) (f : Queue → Queue) (s : State) : (updQueue q f s).power = s.power := rfl
@[simp] theorem updQueue_faults (q : Nat) (f : Queue → Queue) (s : State) : (updQueue q f s).faults = s.faults := rfl
@[simp] theorem updQueue_mpLower (q : Nat) (f : Queue → Queue) (s : State) : (updQueue q f s).mpLower = s.mpLower := rfl
@[simp] theorem updQueue_mpUpper (q : Nat) (f : Queue → Queue) (s : State) : (updQueue q f s).mpUpper = s.mpUpper := rfl
@[simp] theorem updQueue_events (q : Nat) (f : Queue → Queue) (s : State) : (updQueue q f s).events = s.events := rfl
@[simp] theorem updQueue_counters (q : Nat) (f : Queue → Queue) (s : State) : (updQueue q f s).counters = s.counters := rfl
@[simp] theorem updQueue_i3c (q : Nat) (f : Queue → Queue) (s : State) : (updQueue q f s).i3c = s.i3c := rfl
@[simp] theorem updQueue_tap (q : Nat) (f : Queue → Queue) (s : State) : (updQueue q f s).tap = s.tap := rfl
@[simp] theorem updQueue_spdm (q : Nat) (f : Queue → Queue) (s : State) : (updQueue q f s).spdm = s.spdm := rfl
@[simp] theorem updQueue_fw (q : Nat) (f : Queue → Queue) (s : State) : (updQueue q f s).fw = s.fw := rfl
@[simp] theorem updQueue_links (q : Nat) (f : Queue → Queue) (s : State) : (updQueue q f s).links = s.links := rfl
@[simp] theorem updQueue_mem (q : Nat) (f : Queue → Queue) (s : State) : (updQueue q f s).mem = s.mem := rfl
@[simp] theorem updQueue_hostMem (q : Nat) (f : Queue → Queue) (s : State) : (updQueue q f s).hostMem = s.hostMem := rfl
@[simp] theorem updQueue_sent (q : Nat) (f : Queue → Queue) (s : State) : (updQueue q f s).sent = s.sent := rfl
@[simp] theorem updQueue_work (q : Nat) (f : Queue → Queue) (s : State) : (updQueue q f s).work = s.work := rfl

/-! `putIsland` changes `power` only. -/

@[simp] theorem putIsland_pending (c : Nat) (i : Island) (s : State) : (putIsland c i s).pending = s.pending := rfl
@[simp] theorem putIsland_clock (c : Nat) (i : Island) (s : State) : (putIsland c i s).clock = s.clock := rfl
@[simp] theorem putIsland_freeCtr (c : Nat) (i : Island) (s : State) : (putIsland c i s).freeCtr = s.freeCtr := rfl
@[simp] theorem putIsland_fuses (c : Nat) (i : Island) (s : State) : (putIsland c i s).fuses = s.fuses := rfl
@[simp] theorem putIsland_flash (c : Nat) (i : Island) (s : State) : (putIsland c i s).flash = s.flash := rfl
@[simp] theorem putIsland_sys (c : Nat) (i : Island) (s : State) : (putIsland c i s).sys = s.sys := rfl
@[simp] theorem putIsland_mbx (c : Nat) (i : Island) (s : State) : (putIsland c i s).mbx = s.mbx := rfl
@[simp] theorem putIsland_dbg (c : Nat) (i : Island) (s : State) : (putIsland c i s).dbg = s.dbg := rfl
@[simp] theorem putIsland_fq (c : Nat) (i : Island) (s : State) : (putIsland c i s).fq = s.fq := rfl
@[simp] theorem putIsland_irq (c : Nat) (i : Island) (s : State) : (putIsland c i s).irq = s.irq := rfl
@[simp] theorem putIsland_attach (c : Nat) (i : Island) (s : State) : (putIsland c i s).attach = s.attach := rfl
@[simp] theorem putIsland_journal (c : Nat) (i : Island) (s : State) : (putIsland c i s).journal = s.journal := rfl
@[simp] theorem putIsland_ctxs (c : Nat) (i : Island) (s : State) : (putIsland c i s).ctxs = s.ctxs := rfl
@[simp] theorem putIsland_queues (c : Nat) (i : Island) (s : State) : (putIsland c i s).queues = s.queues := rfl
@[simp] theorem putIsland_tasks (c : Nat) (i : Island) (s : State) : (putIsland c i s).tasks = s.tasks := rfl
@[simp] theorem putIsland_ranges (c : Nat) (i : Island) (s : State) : (putIsland c i s).ranges = s.ranges := rfl
@[simp] theorem putIsland_windows (c : Nat) (i : Island) (s : State) : (putIsland c i s).windows = s.windows := rfl
@[simp] theorem putIsland_ats (c : Nat) (i : Island) (s : State) : (putIsland c i s).ats = s.ats := rfl
@[simp] theorem putIsland_streams (c : Nat) (i : Island) (s : State) : (putIsland c i s).streams = s.streams := rfl
@[simp] theorem putIsland_stackTab (c : Nat) (i : Island) (s : State) : (putIsland c i s).stackTab = s.stackTab := rfl
@[simp] theorem putIsland_faults (c : Nat) (i : Island) (s : State) : (putIsland c i s).faults = s.faults := rfl
@[simp] theorem putIsland_mpLower (c : Nat) (i : Island) (s : State) : (putIsland c i s).mpLower = s.mpLower := rfl
@[simp] theorem putIsland_mpUpper (c : Nat) (i : Island) (s : State) : (putIsland c i s).mpUpper = s.mpUpper := rfl
@[simp] theorem putIsland_events (c : Nat) (i : Island) (s : State) : (putIsland c i s).events = s.events := rfl
@[simp] theorem putIsland_counters (c : Nat) (i : Island) (s : State) : (putIsland c i s).counters = s.counters := rfl
@[simp] theorem putIsland_i3c (c : Nat) (i : Island) (s : State) : (putIsland c i s).i3c = s.i3c := rfl
@[simp] theorem putIsland_tap (c : Nat) (i : Island) (s : State) : (putIsland c i s).tap = s.tap := rfl
@[simp] theorem putIsland_spdm (c : Nat) (i : Island) (s : State) : (putIsland c i s).spdm = s.spdm := rfl
@[simp] theorem putIsland_fw (c : Nat) (i : Island) (s : State) : (putIsland c i s).fw = s.fw := rfl
@[simp] theorem putIsland_links (c : Nat) (i : Island) (s : State) : (putIsland c i s).links = s.links := rfl
@[simp] theorem putIsland_mem (c : Nat) (i : Island) (s : State) : (putIsland c i s).mem = s.mem := rfl
@[simp] theorem putIsland_hostMem (c : Nat) (i : Island) (s : State) : (putIsland c i s).hostMem = s.hostMem := rfl
@[simp] theorem putIsland_sent (c : Nat) (i : Island) (s : State) : (putIsland c i s).sent = s.sent := rfl
@[simp] theorem putIsland_work (c : Nat) (i : Island) (s : State) : (putIsland c i s).work = s.work := rfl

/-! `putLull` changes `power` only. -/

@[simp] theorem putLull_pending (p : Nat) (l : Lull) (s : State) : (putLull p l s).pending = s.pending := rfl
@[simp] theorem putLull_clock (p : Nat) (l : Lull) (s : State) : (putLull p l s).clock = s.clock := rfl
@[simp] theorem putLull_freeCtr (p : Nat) (l : Lull) (s : State) : (putLull p l s).freeCtr = s.freeCtr := rfl
@[simp] theorem putLull_fuses (p : Nat) (l : Lull) (s : State) : (putLull p l s).fuses = s.fuses := rfl
@[simp] theorem putLull_flash (p : Nat) (l : Lull) (s : State) : (putLull p l s).flash = s.flash := rfl
@[simp] theorem putLull_sys (p : Nat) (l : Lull) (s : State) : (putLull p l s).sys = s.sys := rfl
@[simp] theorem putLull_mbx (p : Nat) (l : Lull) (s : State) : (putLull p l s).mbx = s.mbx := rfl
@[simp] theorem putLull_dbg (p : Nat) (l : Lull) (s : State) : (putLull p l s).dbg = s.dbg := rfl
@[simp] theorem putLull_fq (p : Nat) (l : Lull) (s : State) : (putLull p l s).fq = s.fq := rfl
@[simp] theorem putLull_irq (p : Nat) (l : Lull) (s : State) : (putLull p l s).irq = s.irq := rfl
@[simp] theorem putLull_attach (p : Nat) (l : Lull) (s : State) : (putLull p l s).attach = s.attach := rfl
@[simp] theorem putLull_journal (p : Nat) (l : Lull) (s : State) : (putLull p l s).journal = s.journal := rfl
@[simp] theorem putLull_ctxs (p : Nat) (l : Lull) (s : State) : (putLull p l s).ctxs = s.ctxs := rfl
@[simp] theorem putLull_queues (p : Nat) (l : Lull) (s : State) : (putLull p l s).queues = s.queues := rfl
@[simp] theorem putLull_tasks (p : Nat) (l : Lull) (s : State) : (putLull p l s).tasks = s.tasks := rfl
@[simp] theorem putLull_ranges (p : Nat) (l : Lull) (s : State) : (putLull p l s).ranges = s.ranges := rfl
@[simp] theorem putLull_windows (p : Nat) (l : Lull) (s : State) : (putLull p l s).windows = s.windows := rfl
@[simp] theorem putLull_ats (p : Nat) (l : Lull) (s : State) : (putLull p l s).ats = s.ats := rfl
@[simp] theorem putLull_streams (p : Nat) (l : Lull) (s : State) : (putLull p l s).streams = s.streams := rfl
@[simp] theorem putLull_stackTab (p : Nat) (l : Lull) (s : State) : (putLull p l s).stackTab = s.stackTab := rfl
@[simp] theorem putLull_faults (p : Nat) (l : Lull) (s : State) : (putLull p l s).faults = s.faults := rfl
@[simp] theorem putLull_mpLower (p : Nat) (l : Lull) (s : State) : (putLull p l s).mpLower = s.mpLower := rfl
@[simp] theorem putLull_mpUpper (p : Nat) (l : Lull) (s : State) : (putLull p l s).mpUpper = s.mpUpper := rfl
@[simp] theorem putLull_events (p : Nat) (l : Lull) (s : State) : (putLull p l s).events = s.events := rfl
@[simp] theorem putLull_counters (p : Nat) (l : Lull) (s : State) : (putLull p l s).counters = s.counters := rfl
@[simp] theorem putLull_i3c (p : Nat) (l : Lull) (s : State) : (putLull p l s).i3c = s.i3c := rfl
@[simp] theorem putLull_tap (p : Nat) (l : Lull) (s : State) : (putLull p l s).tap = s.tap := rfl
@[simp] theorem putLull_spdm (p : Nat) (l : Lull) (s : State) : (putLull p l s).spdm = s.spdm := rfl
@[simp] theorem putLull_fw (p : Nat) (l : Lull) (s : State) : (putLull p l s).fw = s.fw := rfl
@[simp] theorem putLull_links (p : Nat) (l : Lull) (s : State) : (putLull p l s).links = s.links := rfl
@[simp] theorem putLull_mem (p : Nat) (l : Lull) (s : State) : (putLull p l s).mem = s.mem := rfl
@[simp] theorem putLull_hostMem (p : Nat) (l : Lull) (s : State) : (putLull p l s).hostMem = s.hostMem := rfl
@[simp] theorem putLull_sent (p : Nat) (l : Lull) (s : State) : (putLull p l s).sent = s.sent := rfl
@[simp] theorem putLull_work (p : Nat) (l : Lull) (s : State) : (putLull p l s).work = s.work := rfl

/-! `putStack` changes `stackTab` only. -/

@[simp] theorem putStack_pending (p : Nat) (x : StackPort) (s : State) : (putStack p x s).pending = s.pending := rfl
@[simp] theorem putStack_clock (p : Nat) (x : StackPort) (s : State) : (putStack p x s).clock = s.clock := rfl
@[simp] theorem putStack_freeCtr (p : Nat) (x : StackPort) (s : State) : (putStack p x s).freeCtr = s.freeCtr := rfl
@[simp] theorem putStack_fuses (p : Nat) (x : StackPort) (s : State) : (putStack p x s).fuses = s.fuses := rfl
@[simp] theorem putStack_flash (p : Nat) (x : StackPort) (s : State) : (putStack p x s).flash = s.flash := rfl
@[simp] theorem putStack_sys (p : Nat) (x : StackPort) (s : State) : (putStack p x s).sys = s.sys := rfl
@[simp] theorem putStack_mbx (p : Nat) (x : StackPort) (s : State) : (putStack p x s).mbx = s.mbx := rfl
@[simp] theorem putStack_dbg (p : Nat) (x : StackPort) (s : State) : (putStack p x s).dbg = s.dbg := rfl
@[simp] theorem putStack_fq (p : Nat) (x : StackPort) (s : State) : (putStack p x s).fq = s.fq := rfl
@[simp] theorem putStack_irq (p : Nat) (x : StackPort) (s : State) : (putStack p x s).irq = s.irq := rfl
@[simp] theorem putStack_attach (p : Nat) (x : StackPort) (s : State) : (putStack p x s).attach = s.attach := rfl
@[simp] theorem putStack_journal (p : Nat) (x : StackPort) (s : State) : (putStack p x s).journal = s.journal := rfl
@[simp] theorem putStack_ctxs (p : Nat) (x : StackPort) (s : State) : (putStack p x s).ctxs = s.ctxs := rfl
@[simp] theorem putStack_queues (p : Nat) (x : StackPort) (s : State) : (putStack p x s).queues = s.queues := rfl
@[simp] theorem putStack_tasks (p : Nat) (x : StackPort) (s : State) : (putStack p x s).tasks = s.tasks := rfl
@[simp] theorem putStack_ranges (p : Nat) (x : StackPort) (s : State) : (putStack p x s).ranges = s.ranges := rfl
@[simp] theorem putStack_windows (p : Nat) (x : StackPort) (s : State) : (putStack p x s).windows = s.windows := rfl
@[simp] theorem putStack_ats (p : Nat) (x : StackPort) (s : State) : (putStack p x s).ats = s.ats := rfl
@[simp] theorem putStack_streams (p : Nat) (x : StackPort) (s : State) : (putStack p x s).streams = s.streams := rfl
@[simp] theorem putStack_power (p : Nat) (x : StackPort) (s : State) : (putStack p x s).power = s.power := rfl
@[simp] theorem putStack_faults (p : Nat) (x : StackPort) (s : State) : (putStack p x s).faults = s.faults := rfl
@[simp] theorem putStack_mpLower (p : Nat) (x : StackPort) (s : State) : (putStack p x s).mpLower = s.mpLower := rfl
@[simp] theorem putStack_mpUpper (p : Nat) (x : StackPort) (s : State) : (putStack p x s).mpUpper = s.mpUpper := rfl
@[simp] theorem putStack_events (p : Nat) (x : StackPort) (s : State) : (putStack p x s).events = s.events := rfl
@[simp] theorem putStack_counters (p : Nat) (x : StackPort) (s : State) : (putStack p x s).counters = s.counters := rfl
@[simp] theorem putStack_i3c (p : Nat) (x : StackPort) (s : State) : (putStack p x s).i3c = s.i3c := rfl
@[simp] theorem putStack_tap (p : Nat) (x : StackPort) (s : State) : (putStack p x s).tap = s.tap := rfl
@[simp] theorem putStack_spdm (p : Nat) (x : StackPort) (s : State) : (putStack p x s).spdm = s.spdm := rfl
@[simp] theorem putStack_fw (p : Nat) (x : StackPort) (s : State) : (putStack p x s).fw = s.fw := rfl
@[simp] theorem putStack_links (p : Nat) (x : StackPort) (s : State) : (putStack p x s).links = s.links := rfl
@[simp] theorem putStack_mem (p : Nat) (x : StackPort) (s : State) : (putStack p x s).mem = s.mem := rfl
@[simp] theorem putStack_hostMem (p : Nat) (x : StackPort) (s : State) : (putStack p x s).hostMem = s.hostMem := rfl
@[simp] theorem putStack_sent (p : Nat) (x : StackPort) (s : State) : (putStack p x s).sent = s.sent := rfl
@[simp] theorem putStack_work (p : Nat) (x : StackPort) (s : State) : (putStack p x s).work = s.work := rfl

/-! `putBond` changes `links` only. -/

@[simp] theorem putBond_pending (c : Nat) (b : Bond) (s : State) : (putBond c b s).pending = s.pending := rfl
@[simp] theorem putBond_clock (c : Nat) (b : Bond) (s : State) : (putBond c b s).clock = s.clock := rfl
@[simp] theorem putBond_freeCtr (c : Nat) (b : Bond) (s : State) : (putBond c b s).freeCtr = s.freeCtr := rfl
@[simp] theorem putBond_fuses (c : Nat) (b : Bond) (s : State) : (putBond c b s).fuses = s.fuses := rfl
@[simp] theorem putBond_flash (c : Nat) (b : Bond) (s : State) : (putBond c b s).flash = s.flash := rfl
@[simp] theorem putBond_sys (c : Nat) (b : Bond) (s : State) : (putBond c b s).sys = s.sys := rfl
@[simp] theorem putBond_mbx (c : Nat) (b : Bond) (s : State) : (putBond c b s).mbx = s.mbx := rfl
@[simp] theorem putBond_dbg (c : Nat) (b : Bond) (s : State) : (putBond c b s).dbg = s.dbg := rfl
@[simp] theorem putBond_fq (c : Nat) (b : Bond) (s : State) : (putBond c b s).fq = s.fq := rfl
@[simp] theorem putBond_irq (c : Nat) (b : Bond) (s : State) : (putBond c b s).irq = s.irq := rfl
@[simp] theorem putBond_attach (c : Nat) (b : Bond) (s : State) : (putBond c b s).attach = s.attach := rfl
@[simp] theorem putBond_journal (c : Nat) (b : Bond) (s : State) : (putBond c b s).journal = s.journal := rfl
@[simp] theorem putBond_ctxs (c : Nat) (b : Bond) (s : State) : (putBond c b s).ctxs = s.ctxs := rfl
@[simp] theorem putBond_queues (c : Nat) (b : Bond) (s : State) : (putBond c b s).queues = s.queues := rfl
@[simp] theorem putBond_tasks (c : Nat) (b : Bond) (s : State) : (putBond c b s).tasks = s.tasks := rfl
@[simp] theorem putBond_ranges (c : Nat) (b : Bond) (s : State) : (putBond c b s).ranges = s.ranges := rfl
@[simp] theorem putBond_windows (c : Nat) (b : Bond) (s : State) : (putBond c b s).windows = s.windows := rfl
@[simp] theorem putBond_ats (c : Nat) (b : Bond) (s : State) : (putBond c b s).ats = s.ats := rfl
@[simp] theorem putBond_streams (c : Nat) (b : Bond) (s : State) : (putBond c b s).streams = s.streams := rfl
@[simp] theorem putBond_stackTab (c : Nat) (b : Bond) (s : State) : (putBond c b s).stackTab = s.stackTab := rfl
@[simp] theorem putBond_power (c : Nat) (b : Bond) (s : State) : (putBond c b s).power = s.power := rfl
@[simp] theorem putBond_faults (c : Nat) (b : Bond) (s : State) : (putBond c b s).faults = s.faults := rfl
@[simp] theorem putBond_mpLower (c : Nat) (b : Bond) (s : State) : (putBond c b s).mpLower = s.mpLower := rfl
@[simp] theorem putBond_mpUpper (c : Nat) (b : Bond) (s : State) : (putBond c b s).mpUpper = s.mpUpper := rfl
@[simp] theorem putBond_events (c : Nat) (b : Bond) (s : State) : (putBond c b s).events = s.events := rfl
@[simp] theorem putBond_counters (c : Nat) (b : Bond) (s : State) : (putBond c b s).counters = s.counters := rfl
@[simp] theorem putBond_i3c (c : Nat) (b : Bond) (s : State) : (putBond c b s).i3c = s.i3c := rfl
@[simp] theorem putBond_tap (c : Nat) (b : Bond) (s : State) : (putBond c b s).tap = s.tap := rfl
@[simp] theorem putBond_spdm (c : Nat) (b : Bond) (s : State) : (putBond c b s).spdm = s.spdm := rfl
@[simp] theorem putBond_fw (c : Nat) (b : Bond) (s : State) : (putBond c b s).fw = s.fw := rfl
@[simp] theorem putBond_mem (c : Nat) (b : Bond) (s : State) : (putBond c b s).mem = s.mem := rfl
@[simp] theorem putBond_hostMem (c : Nat) (b : Bond) (s : State) : (putBond c b s).hostMem = s.hostMem := rfl
@[simp] theorem putBond_sent (c : Nat) (b : Bond) (s : State) : (putBond c b s).sent = s.sent := rfl
@[simp] theorem putBond_work (c : Nat) (b : Bond) (s : State) : (putBond c b s).work = s.work := rfl

/-! `putPeer` changes `links` only. -/

@[simp] theorem putPeer_pending (p : Nat) (l : Link) (s : State) : (putPeer p l s).pending = s.pending := rfl
@[simp] theorem putPeer_clock (p : Nat) (l : Link) (s : State) : (putPeer p l s).clock = s.clock := rfl
@[simp] theorem putPeer_freeCtr (p : Nat) (l : Link) (s : State) : (putPeer p l s).freeCtr = s.freeCtr := rfl
@[simp] theorem putPeer_fuses (p : Nat) (l : Link) (s : State) : (putPeer p l s).fuses = s.fuses := rfl
@[simp] theorem putPeer_flash (p : Nat) (l : Link) (s : State) : (putPeer p l s).flash = s.flash := rfl
@[simp] theorem putPeer_sys (p : Nat) (l : Link) (s : State) : (putPeer p l s).sys = s.sys := rfl
@[simp] theorem putPeer_mbx (p : Nat) (l : Link) (s : State) : (putPeer p l s).mbx = s.mbx := rfl
@[simp] theorem putPeer_dbg (p : Nat) (l : Link) (s : State) : (putPeer p l s).dbg = s.dbg := rfl
@[simp] theorem putPeer_fq (p : Nat) (l : Link) (s : State) : (putPeer p l s).fq = s.fq := rfl
@[simp] theorem putPeer_irq (p : Nat) (l : Link) (s : State) : (putPeer p l s).irq = s.irq := rfl
@[simp] theorem putPeer_attach (p : Nat) (l : Link) (s : State) : (putPeer p l s).attach = s.attach := rfl
@[simp] theorem putPeer_journal (p : Nat) (l : Link) (s : State) : (putPeer p l s).journal = s.journal := rfl
@[simp] theorem putPeer_ctxs (p : Nat) (l : Link) (s : State) : (putPeer p l s).ctxs = s.ctxs := rfl
@[simp] theorem putPeer_queues (p : Nat) (l : Link) (s : State) : (putPeer p l s).queues = s.queues := rfl
@[simp] theorem putPeer_tasks (p : Nat) (l : Link) (s : State) : (putPeer p l s).tasks = s.tasks := rfl
@[simp] theorem putPeer_ranges (p : Nat) (l : Link) (s : State) : (putPeer p l s).ranges = s.ranges := rfl
@[simp] theorem putPeer_windows (p : Nat) (l : Link) (s : State) : (putPeer p l s).windows = s.windows := rfl
@[simp] theorem putPeer_ats (p : Nat) (l : Link) (s : State) : (putPeer p l s).ats = s.ats := rfl
@[simp] theorem putPeer_streams (p : Nat) (l : Link) (s : State) : (putPeer p l s).streams = s.streams := rfl
@[simp] theorem putPeer_stackTab (p : Nat) (l : Link) (s : State) : (putPeer p l s).stackTab = s.stackTab := rfl
@[simp] theorem putPeer_power (p : Nat) (l : Link) (s : State) : (putPeer p l s).power = s.power := rfl
@[simp] theorem putPeer_faults (p : Nat) (l : Link) (s : State) : (putPeer p l s).faults = s.faults := rfl
@[simp] theorem putPeer_mpLower (p : Nat) (l : Link) (s : State) : (putPeer p l s).mpLower = s.mpLower := rfl
@[simp] theorem putPeer_mpUpper (p : Nat) (l : Link) (s : State) : (putPeer p l s).mpUpper = s.mpUpper := rfl
@[simp] theorem putPeer_events (p : Nat) (l : Link) (s : State) : (putPeer p l s).events = s.events := rfl
@[simp] theorem putPeer_counters (p : Nat) (l : Link) (s : State) : (putPeer p l s).counters = s.counters := rfl
@[simp] theorem putPeer_i3c (p : Nat) (l : Link) (s : State) : (putPeer p l s).i3c = s.i3c := rfl
@[simp] theorem putPeer_tap (p : Nat) (l : Link) (s : State) : (putPeer p l s).tap = s.tap := rfl
@[simp] theorem putPeer_spdm (p : Nat) (l : Link) (s : State) : (putPeer p l s).spdm = s.spdm := rfl
@[simp] theorem putPeer_fw (p : Nat) (l : Link) (s : State) : (putPeer p l s).fw = s.fw := rfl
@[simp] theorem putPeer_mem (p : Nat) (l : Link) (s : State) : (putPeer p l s).mem = s.mem := rfl
@[simp] theorem putPeer_hostMem (p : Nat) (l : Link) (s : State) : (putPeer p l s).hostMem = s.hostMem := rfl
@[simp] theorem putPeer_sent (p : Nat) (l : Link) (s : State) : (putPeer p l s).sent = s.sent := rfl
@[simp] theorem putPeer_work (p : Nat) (l : Link) (s : State) : (putPeer p l s).work = s.work := rfl

/-! `putExpander` changes `links` only. -/

@[simp] theorem putExpander_pending (e : Nat) (l : Link) (s : State) : (putExpander e l s).pending = s.pending := rfl
@[simp] theorem putExpander_clock (e : Nat) (l : Link) (s : State) : (putExpander e l s).clock = s.clock := rfl
@[simp] theorem putExpander_freeCtr (e : Nat) (l : Link) (s : State) : (putExpander e l s).freeCtr = s.freeCtr := rfl
@[simp] theorem putExpander_fuses (e : Nat) (l : Link) (s : State) : (putExpander e l s).fuses = s.fuses := rfl
@[simp] theorem putExpander_flash (e : Nat) (l : Link) (s : State) : (putExpander e l s).flash = s.flash := rfl
@[simp] theorem putExpander_sys (e : Nat) (l : Link) (s : State) : (putExpander e l s).sys = s.sys := rfl
@[simp] theorem putExpander_mbx (e : Nat) (l : Link) (s : State) : (putExpander e l s).mbx = s.mbx := rfl
@[simp] theorem putExpander_dbg (e : Nat) (l : Link) (s : State) : (putExpander e l s).dbg = s.dbg := rfl
@[simp] theorem putExpander_fq (e : Nat) (l : Link) (s : State) : (putExpander e l s).fq = s.fq := rfl
@[simp] theorem putExpander_irq (e : Nat) (l : Link) (s : State) : (putExpander e l s).irq = s.irq := rfl
@[simp] theorem putExpander_attach (e : Nat) (l : Link) (s : State) : (putExpander e l s).attach = s.attach := rfl
@[simp] theorem putExpander_journal (e : Nat) (l : Link) (s : State) : (putExpander e l s).journal = s.journal := rfl
@[simp] theorem putExpander_ctxs (e : Nat) (l : Link) (s : State) : (putExpander e l s).ctxs = s.ctxs := rfl
@[simp] theorem putExpander_queues (e : Nat) (l : Link) (s : State) : (putExpander e l s).queues = s.queues := rfl
@[simp] theorem putExpander_tasks (e : Nat) (l : Link) (s : State) : (putExpander e l s).tasks = s.tasks := rfl
@[simp] theorem putExpander_ranges (e : Nat) (l : Link) (s : State) : (putExpander e l s).ranges = s.ranges := rfl
@[simp] theorem putExpander_windows (e : Nat) (l : Link) (s : State) : (putExpander e l s).windows = s.windows := rfl
@[simp] theorem putExpander_ats (e : Nat) (l : Link) (s : State) : (putExpander e l s).ats = s.ats := rfl
@[simp] theorem putExpander_streams (e : Nat) (l : Link) (s : State) : (putExpander e l s).streams = s.streams := rfl
@[simp] theorem putExpander_stackTab (e : Nat) (l : Link) (s : State) : (putExpander e l s).stackTab = s.stackTab := rfl
@[simp] theorem putExpander_power (e : Nat) (l : Link) (s : State) : (putExpander e l s).power = s.power := rfl
@[simp] theorem putExpander_faults (e : Nat) (l : Link) (s : State) : (putExpander e l s).faults = s.faults := rfl
@[simp] theorem putExpander_mpLower (e : Nat) (l : Link) (s : State) : (putExpander e l s).mpLower = s.mpLower := rfl
@[simp] theorem putExpander_mpUpper (e : Nat) (l : Link) (s : State) : (putExpander e l s).mpUpper = s.mpUpper := rfl
@[simp] theorem putExpander_events (e : Nat) (l : Link) (s : State) : (putExpander e l s).events = s.events := rfl
@[simp] theorem putExpander_counters (e : Nat) (l : Link) (s : State) : (putExpander e l s).counters = s.counters := rfl
@[simp] theorem putExpander_i3c (e : Nat) (l : Link) (s : State) : (putExpander e l s).i3c = s.i3c := rfl
@[simp] theorem putExpander_tap (e : Nat) (l : Link) (s : State) : (putExpander e l s).tap = s.tap := rfl
@[simp] theorem putExpander_spdm (e : Nat) (l : Link) (s : State) : (putExpander e l s).spdm = s.spdm := rfl
@[simp] theorem putExpander_fw (e : Nat) (l : Link) (s : State) : (putExpander e l s).fw = s.fw := rfl
@[simp] theorem putExpander_mem (e : Nat) (l : Link) (s : State) : (putExpander e l s).mem = s.mem := rfl
@[simp] theorem putExpander_hostMem (e : Nat) (l : Link) (s : State) : (putExpander e l s).hostMem = s.hostMem := rfl
@[simp] theorem putExpander_sent (e : Nat) (l : Link) (s : State) : (putExpander e l s).sent = s.sent := rfl
@[simp] theorem putExpander_work (e : Nat) (l : Link) (s : State) : (putExpander e l s).work = s.work := rfl

/-! `flashWrite` changes `flash` only. -/

@[simp] theorem flashWrite_pending (a : Nat) (bs : List Byte) (s : State) : (flashWrite a bs s).pending = s.pending := rfl
@[simp] theorem flashWrite_clock (a : Nat) (bs : List Byte) (s : State) : (flashWrite a bs s).clock = s.clock := rfl
@[simp] theorem flashWrite_freeCtr (a : Nat) (bs : List Byte) (s : State) : (flashWrite a bs s).freeCtr = s.freeCtr := rfl
@[simp] theorem flashWrite_fuses (a : Nat) (bs : List Byte) (s : State) : (flashWrite a bs s).fuses = s.fuses := rfl
@[simp] theorem flashWrite_sys (a : Nat) (bs : List Byte) (s : State) : (flashWrite a bs s).sys = s.sys := rfl
@[simp] theorem flashWrite_mbx (a : Nat) (bs : List Byte) (s : State) : (flashWrite a bs s).mbx = s.mbx := rfl
@[simp] theorem flashWrite_dbg (a : Nat) (bs : List Byte) (s : State) : (flashWrite a bs s).dbg = s.dbg := rfl
@[simp] theorem flashWrite_fq (a : Nat) (bs : List Byte) (s : State) : (flashWrite a bs s).fq = s.fq := rfl
@[simp] theorem flashWrite_irq (a : Nat) (bs : List Byte) (s : State) : (flashWrite a bs s).irq = s.irq := rfl
@[simp] theorem flashWrite_attach (a : Nat) (bs : List Byte) (s : State) : (flashWrite a bs s).attach = s.attach := rfl
@[simp] theorem flashWrite_journal (a : Nat) (bs : List Byte) (s : State) : (flashWrite a bs s).journal = s.journal := rfl
@[simp] theorem flashWrite_ctxs (a : Nat) (bs : List Byte) (s : State) : (flashWrite a bs s).ctxs = s.ctxs := rfl
@[simp] theorem flashWrite_queues (a : Nat) (bs : List Byte) (s : State) : (flashWrite a bs s).queues = s.queues := rfl
@[simp] theorem flashWrite_tasks (a : Nat) (bs : List Byte) (s : State) : (flashWrite a bs s).tasks = s.tasks := rfl
@[simp] theorem flashWrite_ranges (a : Nat) (bs : List Byte) (s : State) : (flashWrite a bs s).ranges = s.ranges := rfl
@[simp] theorem flashWrite_windows (a : Nat) (bs : List Byte) (s : State) : (flashWrite a bs s).windows = s.windows := rfl
@[simp] theorem flashWrite_ats (a : Nat) (bs : List Byte) (s : State) : (flashWrite a bs s).ats = s.ats := rfl
@[simp] theorem flashWrite_streams (a : Nat) (bs : List Byte) (s : State) : (flashWrite a bs s).streams = s.streams := rfl
@[simp] theorem flashWrite_stackTab (a : Nat) (bs : List Byte) (s : State) : (flashWrite a bs s).stackTab = s.stackTab := rfl
@[simp] theorem flashWrite_power (a : Nat) (bs : List Byte) (s : State) : (flashWrite a bs s).power = s.power := rfl
@[simp] theorem flashWrite_faults (a : Nat) (bs : List Byte) (s : State) : (flashWrite a bs s).faults = s.faults := rfl
@[simp] theorem flashWrite_mpLower (a : Nat) (bs : List Byte) (s : State) : (flashWrite a bs s).mpLower = s.mpLower := rfl
@[simp] theorem flashWrite_mpUpper (a : Nat) (bs : List Byte) (s : State) : (flashWrite a bs s).mpUpper = s.mpUpper := rfl
@[simp] theorem flashWrite_events (a : Nat) (bs : List Byte) (s : State) : (flashWrite a bs s).events = s.events := rfl
@[simp] theorem flashWrite_counters (a : Nat) (bs : List Byte) (s : State) : (flashWrite a bs s).counters = s.counters := rfl
@[simp] theorem flashWrite_i3c (a : Nat) (bs : List Byte) (s : State) : (flashWrite a bs s).i3c = s.i3c := rfl
@[simp] theorem flashWrite_tap (a : Nat) (bs : List Byte) (s : State) : (flashWrite a bs s).tap = s.tap := rfl
@[simp] theorem flashWrite_spdm (a : Nat) (bs : List Byte) (s : State) : (flashWrite a bs s).spdm = s.spdm := rfl
@[simp] theorem flashWrite_fw (a : Nat) (bs : List Byte) (s : State) : (flashWrite a bs s).fw = s.fw := rfl
@[simp] theorem flashWrite_links (a : Nat) (bs : List Byte) (s : State) : (flashWrite a bs s).links = s.links := rfl
@[simp] theorem flashWrite_mem (a : Nat) (bs : List Byte) (s : State) : (flashWrite a bs s).mem = s.mem := rfl
@[simp] theorem flashWrite_hostMem (a : Nat) (bs : List Byte) (s : State) : (flashWrite a bs s).hostMem = s.hostMem := rfl
@[simp] theorem flashWrite_sent (a : Nat) (bs : List Byte) (s : State) : (flashWrite a bs s).sent = s.sent := rfl
@[simp] theorem flashWrite_work (a : Nat) (bs : List Byte) (s : State) : (flashWrite a bs s).work = s.work := rfl

/-! `flashErase` changes `flash` only. -/

@[simp] theorem flashErase_pending (a n : Nat) (s : State) : (flashErase a n s).pending = s.pending := rfl
@[simp] theorem flashErase_clock (a n : Nat) (s : State) : (flashErase a n s).clock = s.clock := rfl
@[simp] theorem flashErase_freeCtr (a n : Nat) (s : State) : (flashErase a n s).freeCtr = s.freeCtr := rfl
@[simp] theorem flashErase_fuses (a n : Nat) (s : State) : (flashErase a n s).fuses = s.fuses := rfl
@[simp] theorem flashErase_sys (a n : Nat) (s : State) : (flashErase a n s).sys = s.sys := rfl
@[simp] theorem flashErase_mbx (a n : Nat) (s : State) : (flashErase a n s).mbx = s.mbx := rfl
@[simp] theorem flashErase_dbg (a n : Nat) (s : State) : (flashErase a n s).dbg = s.dbg := rfl
@[simp] theorem flashErase_fq (a n : Nat) (s : State) : (flashErase a n s).fq = s.fq := rfl
@[simp] theorem flashErase_irq (a n : Nat) (s : State) : (flashErase a n s).irq = s.irq := rfl
@[simp] theorem flashErase_attach (a n : Nat) (s : State) : (flashErase a n s).attach = s.attach := rfl
@[simp] theorem flashErase_journal (a n : Nat) (s : State) : (flashErase a n s).journal = s.journal := rfl
@[simp] theorem flashErase_ctxs (a n : Nat) (s : State) : (flashErase a n s).ctxs = s.ctxs := rfl
@[simp] theorem flashErase_queues (a n : Nat) (s : State) : (flashErase a n s).queues = s.queues := rfl
@[simp] theorem flashErase_tasks (a n : Nat) (s : State) : (flashErase a n s).tasks = s.tasks := rfl
@[simp] theorem flashErase_ranges (a n : Nat) (s : State) : (flashErase a n s).ranges = s.ranges := rfl
@[simp] theorem flashErase_windows (a n : Nat) (s : State) : (flashErase a n s).windows = s.windows := rfl
@[simp] theorem flashErase_ats (a n : Nat) (s : State) : (flashErase a n s).ats = s.ats := rfl
@[simp] theorem flashErase_streams (a n : Nat) (s : State) : (flashErase a n s).streams = s.streams := rfl
@[simp] theorem flashErase_stackTab (a n : Nat) (s : State) : (flashErase a n s).stackTab = s.stackTab := rfl
@[simp] theorem flashErase_power (a n : Nat) (s : State) : (flashErase a n s).power = s.power := rfl
@[simp] theorem flashErase_faults (a n : Nat) (s : State) : (flashErase a n s).faults = s.faults := rfl
@[simp] theorem flashErase_mpLower (a n : Nat) (s : State) : (flashErase a n s).mpLower = s.mpLower := rfl
@[simp] theorem flashErase_mpUpper (a n : Nat) (s : State) : (flashErase a n s).mpUpper = s.mpUpper := rfl
@[simp] theorem flashErase_events (a n : Nat) (s : State) : (flashErase a n s).events = s.events := rfl
@[simp] theorem flashErase_counters (a n : Nat) (s : State) : (flashErase a n s).counters = s.counters := rfl
@[simp] theorem flashErase_i3c (a n : Nat) (s : State) : (flashErase a n s).i3c = s.i3c := rfl
@[simp] theorem flashErase_tap (a n : Nat) (s : State) : (flashErase a n s).tap = s.tap := rfl
@[simp] theorem flashErase_spdm (a n : Nat) (s : State) : (flashErase a n s).spdm = s.spdm := rfl
@[simp] theorem flashErase_fw (a n : Nat) (s : State) : (flashErase a n s).fw = s.fw := rfl
@[simp] theorem flashErase_links (a n : Nat) (s : State) : (flashErase a n s).links = s.links := rfl
@[simp] theorem flashErase_mem (a n : Nat) (s : State) : (flashErase a n s).mem = s.mem := rfl
@[simp] theorem flashErase_hostMem (a n : Nat) (s : State) : (flashErase a n s).hostMem = s.hostMem := rfl
@[simp] theorem flashErase_sent (a n : Nat) (s : State) : (flashErase a n s).sent = s.sent := rfl
@[simp] theorem flashErase_work (a n : Nat) (s : State) : (flashErase a n s).work = s.work := rfl

/-! `hostWrote` changes `hostMem` only. -/

@[simp] theorem hostWrote_pending (cs : List Host.Cell) (s : State) : (hostWrote cs s).pending = s.pending := rfl
@[simp] theorem hostWrote_clock (cs : List Host.Cell) (s : State) : (hostWrote cs s).clock = s.clock := rfl
@[simp] theorem hostWrote_freeCtr (cs : List Host.Cell) (s : State) : (hostWrote cs s).freeCtr = s.freeCtr := rfl
@[simp] theorem hostWrote_fuses (cs : List Host.Cell) (s : State) : (hostWrote cs s).fuses = s.fuses := rfl
@[simp] theorem hostWrote_flash (cs : List Host.Cell) (s : State) : (hostWrote cs s).flash = s.flash := rfl
@[simp] theorem hostWrote_sys (cs : List Host.Cell) (s : State) : (hostWrote cs s).sys = s.sys := rfl
@[simp] theorem hostWrote_mbx (cs : List Host.Cell) (s : State) : (hostWrote cs s).mbx = s.mbx := rfl
@[simp] theorem hostWrote_dbg (cs : List Host.Cell) (s : State) : (hostWrote cs s).dbg = s.dbg := rfl
@[simp] theorem hostWrote_fq (cs : List Host.Cell) (s : State) : (hostWrote cs s).fq = s.fq := rfl
@[simp] theorem hostWrote_irq (cs : List Host.Cell) (s : State) : (hostWrote cs s).irq = s.irq := rfl
@[simp] theorem hostWrote_attach (cs : List Host.Cell) (s : State) : (hostWrote cs s).attach = s.attach := rfl
@[simp] theorem hostWrote_journal (cs : List Host.Cell) (s : State) : (hostWrote cs s).journal = s.journal := rfl
@[simp] theorem hostWrote_ctxs (cs : List Host.Cell) (s : State) : (hostWrote cs s).ctxs = s.ctxs := rfl
@[simp] theorem hostWrote_queues (cs : List Host.Cell) (s : State) : (hostWrote cs s).queues = s.queues := rfl
@[simp] theorem hostWrote_tasks (cs : List Host.Cell) (s : State) : (hostWrote cs s).tasks = s.tasks := rfl
@[simp] theorem hostWrote_ranges (cs : List Host.Cell) (s : State) : (hostWrote cs s).ranges = s.ranges := rfl
@[simp] theorem hostWrote_windows (cs : List Host.Cell) (s : State) : (hostWrote cs s).windows = s.windows := rfl
@[simp] theorem hostWrote_ats (cs : List Host.Cell) (s : State) : (hostWrote cs s).ats = s.ats := rfl
@[simp] theorem hostWrote_streams (cs : List Host.Cell) (s : State) : (hostWrote cs s).streams = s.streams := rfl
@[simp] theorem hostWrote_stackTab (cs : List Host.Cell) (s : State) : (hostWrote cs s).stackTab = s.stackTab := rfl
@[simp] theorem hostWrote_power (cs : List Host.Cell) (s : State) : (hostWrote cs s).power = s.power := rfl
@[simp] theorem hostWrote_faults (cs : List Host.Cell) (s : State) : (hostWrote cs s).faults = s.faults := rfl
@[simp] theorem hostWrote_mpLower (cs : List Host.Cell) (s : State) : (hostWrote cs s).mpLower = s.mpLower := rfl
@[simp] theorem hostWrote_mpUpper (cs : List Host.Cell) (s : State) : (hostWrote cs s).mpUpper = s.mpUpper := rfl
@[simp] theorem hostWrote_events (cs : List Host.Cell) (s : State) : (hostWrote cs s).events = s.events := rfl
@[simp] theorem hostWrote_counters (cs : List Host.Cell) (s : State) : (hostWrote cs s).counters = s.counters := rfl
@[simp] theorem hostWrote_i3c (cs : List Host.Cell) (s : State) : (hostWrote cs s).i3c = s.i3c := rfl
@[simp] theorem hostWrote_tap (cs : List Host.Cell) (s : State) : (hostWrote cs s).tap = s.tap := rfl
@[simp] theorem hostWrote_spdm (cs : List Host.Cell) (s : State) : (hostWrote cs s).spdm = s.spdm := rfl
@[simp] theorem hostWrote_fw (cs : List Host.Cell) (s : State) : (hostWrote cs s).fw = s.fw := rfl
@[simp] theorem hostWrote_links (cs : List Host.Cell) (s : State) : (hostWrote cs s).links = s.links := rfl
@[simp] theorem hostWrote_mem (cs : List Host.Cell) (s : State) : (hostWrote cs s).mem = s.mem := rfl
@[simp] theorem hostWrote_sent (cs : List Host.Cell) (s : State) : (hostWrote cs s).sent = s.sent := rfl
@[simp] theorem hostWrote_work (cs : List Host.Cell) (s : State) : (hostWrote cs s).work = s.work := rfl

/-! `clearFences` changes `faults` only. -/

@[simp] theorem clearFences_pending (a n : Nat) (s : State) : (clearFences a n s).pending = s.pending := rfl
@[simp] theorem clearFences_clock (a n : Nat) (s : State) : (clearFences a n s).clock = s.clock := rfl
@[simp] theorem clearFences_freeCtr (a n : Nat) (s : State) : (clearFences a n s).freeCtr = s.freeCtr := rfl
@[simp] theorem clearFences_fuses (a n : Nat) (s : State) : (clearFences a n s).fuses = s.fuses := rfl
@[simp] theorem clearFences_flash (a n : Nat) (s : State) : (clearFences a n s).flash = s.flash := rfl
@[simp] theorem clearFences_sys (a n : Nat) (s : State) : (clearFences a n s).sys = s.sys := rfl
@[simp] theorem clearFences_mbx (a n : Nat) (s : State) : (clearFences a n s).mbx = s.mbx := rfl
@[simp] theorem clearFences_dbg (a n : Nat) (s : State) : (clearFences a n s).dbg = s.dbg := rfl
@[simp] theorem clearFences_fq (a n : Nat) (s : State) : (clearFences a n s).fq = s.fq := rfl
@[simp] theorem clearFences_irq (a n : Nat) (s : State) : (clearFences a n s).irq = s.irq := rfl
@[simp] theorem clearFences_attach (a n : Nat) (s : State) : (clearFences a n s).attach = s.attach := rfl
@[simp] theorem clearFences_journal (a n : Nat) (s : State) : (clearFences a n s).journal = s.journal := rfl
@[simp] theorem clearFences_ctxs (a n : Nat) (s : State) : (clearFences a n s).ctxs = s.ctxs := rfl
@[simp] theorem clearFences_queues (a n : Nat) (s : State) : (clearFences a n s).queues = s.queues := rfl
@[simp] theorem clearFences_tasks (a n : Nat) (s : State) : (clearFences a n s).tasks = s.tasks := rfl
@[simp] theorem clearFences_ranges (a n : Nat) (s : State) : (clearFences a n s).ranges = s.ranges := rfl
@[simp] theorem clearFences_windows (a n : Nat) (s : State) : (clearFences a n s).windows = s.windows := rfl
@[simp] theorem clearFences_ats (a n : Nat) (s : State) : (clearFences a n s).ats = s.ats := rfl
@[simp] theorem clearFences_streams (a n : Nat) (s : State) : (clearFences a n s).streams = s.streams := rfl
@[simp] theorem clearFences_stackTab (a n : Nat) (s : State) : (clearFences a n s).stackTab = s.stackTab := rfl
@[simp] theorem clearFences_power (a n : Nat) (s : State) : (clearFences a n s).power = s.power := rfl
@[simp] theorem clearFences_mpLower (a n : Nat) (s : State) : (clearFences a n s).mpLower = s.mpLower := rfl
@[simp] theorem clearFences_mpUpper (a n : Nat) (s : State) : (clearFences a n s).mpUpper = s.mpUpper := rfl
@[simp] theorem clearFences_events (a n : Nat) (s : State) : (clearFences a n s).events = s.events := rfl
@[simp] theorem clearFences_counters (a n : Nat) (s : State) : (clearFences a n s).counters = s.counters := rfl
@[simp] theorem clearFences_i3c (a n : Nat) (s : State) : (clearFences a n s).i3c = s.i3c := rfl
@[simp] theorem clearFences_tap (a n : Nat) (s : State) : (clearFences a n s).tap = s.tap := rfl
@[simp] theorem clearFences_spdm (a n : Nat) (s : State) : (clearFences a n s).spdm = s.spdm := rfl
@[simp] theorem clearFences_fw (a n : Nat) (s : State) : (clearFences a n s).fw = s.fw := rfl
@[simp] theorem clearFences_links (a n : Nat) (s : State) : (clearFences a n s).links = s.links := rfl
@[simp] theorem clearFences_mem (a n : Nat) (s : State) : (clearFences a n s).mem = s.mem := rfl
@[simp] theorem clearFences_hostMem (a n : Nat) (s : State) : (clearFences a n s).hostMem = s.hostMem := rfl
@[simp] theorem clearFences_sent (a n : Nat) (s : State) : (clearFences a n s).sent = s.sent := rfl
@[simp] theorem clearFences_work (a n : Nat) (s : State) : (clearFences a n s).work = s.work := rfl

@[simp] theorem updTables_work_tbl (f : Tables → Tables) (s : State) : (updTables f s).work.tbl = f s.work.tbl := rfl
@[simp] theorem updTables_work_upd (f : Tables → Tables) (s : State) : (updTables f s).work.upd = s.work.upd := rfl
@[simp] theorem updTables_work_feeds (f : Tables → Tables) (s : State) : (updTables f s).work.feeds = s.work.feeds := rfl
@[simp] theorem updTables_work_idx (f : Tables → Tables) (s : State) : (updTables f s).work.idx = s.work.idx := rfl
@[simp] theorem updTables_work_chain (f : Tables → Tables) (s : State) : (updTables f s).work.chain = s.work.chain := rfl
@[simp] theorem updUpd_work_tbl (f : Updates → Updates) (s : State) : (updUpd f s).work.tbl = s.work.tbl := rfl
@[simp] theorem updUpd_work_upd (f : Updates → Updates) (s : State) : (updUpd f s).work.upd = f s.work.upd := rfl
@[simp] theorem updUpd_work_feeds (f : Updates → Updates) (s : State) : (updUpd f s).work.feeds = s.work.feeds := rfl
@[simp] theorem updUpd_work_idx (f : Updates → Updates) (s : State) : (updUpd f s).work.idx = s.work.idx := rfl
@[simp] theorem updUpd_work_chain (f : Updates → Updates) (s : State) : (updUpd f s).work.chain = s.work.chain := rfl
@[simp] theorem updIdx_work_tbl (f : Index → Index) (s : State) : (updIdx f s).work.tbl = s.work.tbl := rfl
@[simp] theorem updIdx_work_upd (f : Index → Index) (s : State) : (updIdx f s).work.upd = s.work.upd := rfl
@[simp] theorem updIdx_work_feeds (f : Index → Index) (s : State) : (updIdx f s).work.feeds = s.work.feeds := rfl
@[simp] theorem updIdx_work_idx (f : Index → Index) (s : State) : (updIdx f s).work.idx = f s.work.idx := rfl
@[simp] theorem updIdx_work_chain (f : Index → Index) (s : State) : (updIdx f s).work.chain = s.work.chain := rfl
@[simp] theorem updChain_work_tbl (f : Chain → Chain) (s : State) : (updChain f s).work.tbl = s.work.tbl := rfl
@[simp] theorem updChain_work_upd (f : Chain → Chain) (s : State) : (updChain f s).work.upd = s.work.upd := rfl
@[simp] theorem updChain_work_feeds (f : Chain → Chain) (s : State) : (updChain f s).work.feeds = s.work.feeds := rfl
@[simp] theorem updChain_work_idx (f : Chain → Chain) (s : State) : (updChain f s).work.idx = s.work.idx := rfl
@[simp] theorem updChain_work_chain (f : Chain → Chain) (s : State) : (updChain f s).work.chain = f s.work.chain := rfl

@[simp] theorem updFaults_faults (f : Faults → Faults) (s : State) : (updFaults f s).faults = f s.faults := rfl
@[simp] theorem putStack_stackTab (p : Nat) (x : StackPort) (s : State) : (putStack p x s).stackTab = Tab.put s.stackTab p x := rfl
@[simp] theorem send_sent (m : OutMsg) (s : State) : (send m s).sent = s.sent ++ [m] := rfl
@[simp] theorem tick_clock (s : State) : (tick s).clock = s.clock + 1 := rfl
@[simp] theorem putTask_tasks (t : Task) (s : State) : (putTask t s).tasks = Tab.put s.tasks (tid t.queue t.seq) t := rfl

/-! `takeGates` changes `streams` only. -/

@[simp] theorem takeGates_pending (q n : Nat) (s : State) : (takeGates q n s).pending = s.pending := rfl
@[simp] theorem takeGates_freeCtr (q n : Nat) (s : State) : (takeGates q n s).freeCtr = s.freeCtr := rfl
@[simp] theorem takeGates_fuses (q n : Nat) (s : State) : (takeGates q n s).fuses = s.fuses := rfl
@[simp] theorem takeGates_flash (q n : Nat) (s : State) : (takeGates q n s).flash = s.flash := rfl
@[simp] theorem takeGates_sys (q n : Nat) (s : State) : (takeGates q n s).sys = s.sys := rfl
@[simp] theorem takeGates_mbx (q n : Nat) (s : State) : (takeGates q n s).mbx = s.mbx := rfl
@[simp] theorem takeGates_dbg (q n : Nat) (s : State) : (takeGates q n s).dbg = s.dbg := rfl
@[simp] theorem takeGates_fq (q n : Nat) (s : State) : (takeGates q n s).fq = s.fq := rfl
@[simp] theorem takeGates_irq (q n : Nat) (s : State) : (takeGates q n s).irq = s.irq := rfl
@[simp] theorem takeGates_attach (q n : Nat) (s : State) : (takeGates q n s).attach = s.attach := rfl
@[simp] theorem takeGates_journal (q n : Nat) (s : State) : (takeGates q n s).journal = s.journal := rfl
@[simp] theorem takeGates_ctxs (q n : Nat) (s : State) : (takeGates q n s).ctxs = s.ctxs := rfl
@[simp] theorem takeGates_queues (q n : Nat) (s : State) : (takeGates q n s).queues = s.queues := rfl
@[simp] theorem takeGates_tasks (q n : Nat) (s : State) : (takeGates q n s).tasks = s.tasks := rfl
@[simp] theorem takeGates_ranges (q n : Nat) (s : State) : (takeGates q n s).ranges = s.ranges := rfl
@[simp] theorem takeGates_windows (q n : Nat) (s : State) : (takeGates q n s).windows = s.windows := rfl
@[simp] theorem takeGates_ats (q n : Nat) (s : State) : (takeGates q n s).ats = s.ats := rfl
@[simp] theorem takeGates_clock (q n : Nat) (s : State) : (takeGates q n s).clock = s.clock := rfl
@[simp] theorem takeGates_stackTab (q n : Nat) (s : State) : (takeGates q n s).stackTab = s.stackTab := rfl
@[simp] theorem takeGates_power (q n : Nat) (s : State) : (takeGates q n s).power = s.power := rfl
@[simp] theorem takeGates_faults (q n : Nat) (s : State) : (takeGates q n s).faults = s.faults := rfl
@[simp] theorem takeGates_mpLower (q n : Nat) (s : State) : (takeGates q n s).mpLower = s.mpLower := rfl
@[simp] theorem takeGates_mpUpper (q n : Nat) (s : State) : (takeGates q n s).mpUpper = s.mpUpper := rfl
@[simp] theorem takeGates_events (q n : Nat) (s : State) : (takeGates q n s).events = s.events := rfl
@[simp] theorem takeGates_counters (q n : Nat) (s : State) : (takeGates q n s).counters = s.counters := rfl
@[simp] theorem takeGates_i3c (q n : Nat) (s : State) : (takeGates q n s).i3c = s.i3c := rfl
@[simp] theorem takeGates_tap (q n : Nat) (s : State) : (takeGates q n s).tap = s.tap := rfl
@[simp] theorem takeGates_spdm (q n : Nat) (s : State) : (takeGates q n s).spdm = s.spdm := rfl
@[simp] theorem takeGates_fw (q n : Nat) (s : State) : (takeGates q n s).fw = s.fw := rfl
@[simp] theorem takeGates_links (q n : Nat) (s : State) : (takeGates q n s).links = s.links := rfl
@[simp] theorem takeGates_mem (q n : Nat) (s : State) : (takeGates q n s).mem = s.mem := rfl
@[simp] theorem takeGates_hostMem (q n : Nat) (s : State) : (takeGates q n s).hostMem = s.hostMem := rfl
@[simp] theorem takeGates_sent (q n : Nat) (s : State) : (takeGates q n s).sent = s.sent := rfl
@[simp] theorem takeGates_work (q n : Nat) (s : State) : (takeGates q n s).work = s.work := rfl

end Sys2Proof.Machine
end

