-- ==== Sys2Proof/Laws/Tab.lean ====
section
/-! SUPPORT. What the sparse tables do. -/

namespace Sys2Proof.Machine

@[simp] theorem Tab.get?_put_same {α : Type} (k : Nat) (v : α) : ∀ t : Tab α, Tab.get? (Tab.put t k v) k = some v
  | [] => by simp [Tab.put, Tab.get?]
  | (j, u) :: rest => by
    unfold Tab.put
    by_cases h : k < j
    · simp [h, Tab.get?]
    · by_cases h2 : k = j
      · simp [h2, Tab.get?]
      · have : ¬ j = k := fun e => h2 e.symm
        simp [h, h2, Tab.get?, this, Tab.get?_put_same k v rest]

@[simp] theorem Tab.get?_put_other {α : Type} (k i : Nat) (v : α) (h : i ≠ k) : ∀ t : Tab α,
    Tab.get? (Tab.put t k v) i = Tab.get? t i
  | [] => by
    have : ¬ k = i := fun e => h e.symm
    simp [Tab.put, Tab.get?, this]
  | (j, u) :: rest => by
    have hk : ¬ k = i := fun e => h e.symm
    unfold Tab.put
    by_cases h1 : k < j
    · simp [h1, Tab.get?, hk]
    · by_cases h2 : k = j
      · subst h2; simp [Tab.get?, hk]
      · simp [h1, h2, Tab.get?, Tab.get?_put_other k i v h rest]

@[simp] theorem Tab.getD_put_same {α : Type} (t : Tab α) (k : Nat) (v d : α) : Tab.getD (Tab.put t k v) k d = v := by
  simp [Tab.getD]

@[simp] theorem Tab.getD_put_other {α : Type} (t : Tab α) (k i : Nat) (v d : α) (h : i ≠ k) :
    Tab.getD (Tab.put t k v) i d = Tab.getD t i d := by
  simp [Tab.getD, h]

@[simp] theorem Tab.get?_del_same {α : Type} (k : Nat) : ∀ t : Tab α, Tab.get? (Tab.del t k) k = none
  | [] => rfl
  | (j, u) :: rest => by
    have ih := Tab.get?_del_same k rest
    unfold Tab.del at ih ⊢
    by_cases h : j = k
    · simpa [h] using ih
    · simp [h, Tab.get?, ih]

@[simp] theorem Tab.has_put_same {α : Type} (k : Nat) (v : α) : ∀ t : Tab α, Tab.has (Tab.put t k v) k = true
  | [] => by simp [Tab.put, Tab.has]
  | (j, u) :: rest => by
    have ih := Tab.has_put_same k v rest
    unfold Tab.put
    by_cases h : k < j
    · simp [h, Tab.has]
    · by_cases h2 : k = j
      · simp [h2, Tab.has]
      · unfold Tab.has at ih ⊢
        simp only [h, h2, if_false, beq_iff_eq, List.any_cons, ih, Bool.or_true]

@[simp] theorem Tab.has_del_same {α : Type} (k : Nat) (t : Tab α) : Tab.has (Tab.del t k) k = false := by
  simp [Tab.has, Tab.del]

@[simp] theorem Tab.get?_upd_same {α : Type} (k : Nat) (f : α → α) : ∀ t : Tab α, Tab.get? (Tab.upd t k f) k = (Tab.get? t k).map f
  | [] => rfl
  | (j, u) :: rest => by
    have ih := Tab.get?_upd_same k f rest
    unfold Tab.upd at ih ⊢
    simp only [beq_iff_eq] at ih ⊢
    by_cases h : j = k
    · simp [Tab.get?, h]
    · simp [Tab.get?, h, ih]

@[simp] theorem Tab.get?_upd_other {α : Type} (k i : Nat) (f : α → α) (h : i ≠ k) : ∀ t : Tab α,
    Tab.get? (Tab.upd t k f) i = Tab.get? t i
  | [] => rfl
  | (j, u) :: rest => by
    have ih := Tab.get?_upd_other k i f h rest
    unfold Tab.upd at ih ⊢
    simp only [beq_iff_eq] at ih ⊢
    by_cases hk : j = k
    · have : ¬ k = i := fun e => h e.symm
      simp [Tab.get?, hk, this, ih]
    · by_cases hi : j = i
      · simp [Tab.get?, hi, h]
      · simp [Tab.get?, hk, hi, ih]

end Sys2Proof.Machine
end

