-- ==== Sys2Proof/Laws/Shared.lean ====
section
/-! SUPPORT. What each shared operation can do, said once: the fields that it may write, and the cases of the shells that rows share. -/

namespace Sys2Proof.Machine

/-! ### Sending, interrupts, events and fault records -/

theorem sendMsg_frame (m cls ch : Nat) (r : Bool) (bs : List Byte) (s : State) : ∃ u o,
    sendMsg m cls ch r bs s = { s with links := { s.links with ucie := u }, sent := o } := ⟨_, _, rfl⟩

theorem sendControl_frame (m : Nat) (msg : Word128) (s : State) : ∃ u o,
    sendControl m msg s = { s with links := { s.links with ucie := u }, sent := o } := by
  unfold sendControl
  split
  · exact ⟨_, _, rfl⟩
  · exact ⟨s.links.ucie, s.sent, rfl⟩

theorem postMsg_frame (m cls ch : Nat) (bs : List Byte) (s : State) : ∃ u o,
    postMsg m cls ch bs s = { s with links := { s.links with ucie := u }, sent := o } := by
  unfold postMsg
  split
  · exact ⟨_, _, rfl⟩
  · exact ⟨_, s.sent, rfl⟩

theorem raiseIbi_frame (k : Nat) (s : State) : ∃ i o, raiseIbi k s = { s with i3c := i, sent := o } := by
  unfold raiseIbi
  split
  · exact ⟨s.i3c, _, rfl⟩
  · split
    · exact ⟨s.i3c, s.sent, rfl⟩
    · exact ⟨_, s.sent, rfl⟩

theorem sendVector_frame (v : Nat) (s : State) : ∃ u i o,
    sendVector v s = { s with links := { s.links with ucie := u }, irq := i, sent := o } := by
  unfold sendVector
  split
  · obtain ⟨u, o, h⟩ := postMsg_frame s.sys.cfg.ucieVectorModule 4 0 (toBytes 16 v) s
    exact ⟨u, s.irq, o, h⟩
  · dsimp only
    split
    · exact ⟨s.links.ucie, s.irq, _, rfl⟩
    · split
      · exact ⟨s.links.ucie, s.irq, s.sent, rfl⟩
      · exact ⟨s.links.ucie, _, s.sent, rfl⟩

theorem raiseCause_frame (c : Cause) (s : State) : ∃ u i o,
    raiseCause c s = { s with links := { s.links with ucie := u }, irq := i, sent := o } := by
  unfold raiseCause
  split
  · exact ⟨s.links.ucie, s.irq, s.sent, rfl⟩
  · dsimp only
    split
    · obtain ⟨u, i, o, h⟩ := sendVector_frame c.vector
        { s with irq := { s.irq with causes := s.irq.causes ||| BitVec.ofNat 7 (2 ^ c.index) } }
      exact ⟨u, i, o, h⟩
    · exact ⟨s.links.ucie, _, s.sent, rfl⟩

theorem event_frame (code : EventCode) (args : Nat) (s : State) : ∃ e c u i o t,
    event code args s = { s with events := e, counters := c, links := { s.links with ucie := u }, irq := i, sent := o, i3c := t } := by
  unfold event
  dsimp only
  generalize hx : whenS (decide (4096 ≤ s.events.events.length)) (count .eventsOverwritten 1) _ = x
  have h1 : ∃ e c, x = { s with events := e, counters := c } := by
    subst hx
    unfold whenS
    split
    · exact ⟨_, _, rfl⟩
    · exact ⟨_, s.counters, rfl⟩
  obtain ⟨e, c, rfl⟩ := h1
  obtain ⟨u, i, o, h2⟩ := raiseCause_frame .event { s with events := e, counters := c }
  rw [h2]
  obtain ⟨t, o', h3⟩ := raiseIbi_frame 3 { s with events := e, counters := c, links := { s.links with ucie := u }, irq := i, sent := o }
  exact ⟨e, c, u, i, o', t, h3⟩

theorem setEngState_frame (st : EngState) (s : State) : ∃ u i o t,
    setEngState st s = { s with
      sys := { s.sys with engState := st }, links := { s.links with ucie := u }, irq := i, sent := o, i3c := t } := by
  unfold setEngState
  split
  · rename_i h
    subst h
    exact ⟨s.links.ucie, s.irq, s.sent, s.i3c, rfl⟩
  · obtain ⟨u, i, o, h1⟩ := raiseCause_frame .stateChange { s with sys := { s.sys with engState := st } }
    rw [h1]
    obtain ⟨t, o', h2⟩ := raiseIbi_frame 1
      { s with sys := { s.sys with engState := st }, links := { s.links with ucie := u }, irq := i, sent := o }
    exact ⟨u, i, o', t, h2⟩

theorem fqEdge_frame (b : FaultQueue) (s : State) : ∃ u i o,
    fqEdge b s = { s with links := { s.links with ucie := u }, irq := i, sent := o } := by
  unfold fqEdge
  split
  · exact raiseCause_frame .faultqFull s
  · exact ⟨s.links.ucie, s.irq, s.sent, rfl⟩

theorem fqWrite_frame (r : FaultRecord) (s : State) : ∃ m u i o,
    fqWrite r s = { s with
      hostMem := m, fq := { s.fq with prod := s.fq.prod + 1 }, links := { s.links with ucie := u }, irq := i, sent := o } := by
  unfold fqWrite
  dsimp only
  generalize cellWrite 0 s.hostMem _ (faultBytes r) = m
  obtain ⟨u, i, o, h⟩ := raiseCause_frame .faultRecord { s with hostMem := m, fq := { s.fq with prod := s.fq.prod + 1 } }
  rw [h]
  obtain ⟨u', i', o', h'⟩ := fqEdge_frame s.fq { s with
    hostMem := m, fq := { s.fq with prod := s.fq.prod + 1 }, links := { s.links with ucie := u }, irq := i, sent := o }
  exact ⟨m, u', i', o', h'⟩

theorem faultRecord_frame (r : FaultRecord) (s : State) : ∃ q m u i o,
    faultRecord r s = { s with fq := q, hostMem := m, links := { s.links with ucie := u }, irq := i, sent := o } := by
  unfold faultRecord
  dsimp only
  split
  · split
    · exact ⟨_, s.hostMem, s.links.ucie, s.irq, s.sent, rfl⟩
    · exact ⟨_, s.hostMem, s.links.ucie, s.irq, s.sent, rfl⟩
  · obtain ⟨m, u, i, o, h⟩ := fqWrite_frame { r with recordSeq := s.fq.recordSeq, time := s.clock }
      { s with fq := { s.fq with recordSeq := seqNext 32 s.fq.recordSeq } }
    exact ⟨_, m, u, i, o, h⟩

/-! ### The mailbox -/

theorem mbxEnd_frame (tag : Word32) (st : Status) (result : BitVec 2048) (s : State) : ∃ u i o,
    mbxEnd tag st result s = { s with
      mbx := { s.mbx with result := result, status := BitVec.ofNat 16 st.code, tagEcho := tag, busy := false, done := true, running := none }
      links := { s.links with ucie := u }, irq := i, sent := o } := by
  unfold mbxEnd
  obtain ⟨u, i, o, h⟩ := raiseCause_frame .mailboxDone { s with mbx := { s.mbx with
    result := result, status := BitVec.ofNat 16 st.code, tagEcho := tag, busy := false, done := true, running := none } }
  exact ⟨u, i, o, h⟩

/-- A mailbox row always answers a next state. -/
@[simp] theorem mbxRow_next (f : State → State) (s : State) : mbxRow f s = .next (f s) := rfl

/-- While the host port is down a mailbox command does nothing. -/
theorem mailbox_down (op : Nat) (d a z : Bool) (args : BitVec 2048) (body : State → MbxRes) (m : MbxCall) {s : State}
    (h : hostUp s = false) : mailbox op d a z args body m s = s := by
  simp [mailbox, h]

/-- A command that finds BUSY sets COLLISION and nothing else. -/
theorem mailbox_busy (op : Nat) (d a z : Bool) (args : BitVec 2048) (body : State → MbxRes) (m : MbxCall) {s : State}
    (h : hostUp s = true) (hb : s.mbx.busy = true) :
    mailbox op d a z args body m s = { s with mbx := { s.mbx with collision := true } } := by
  simp [mailbox, h, hb]

/-- A command that the device does not serve now ends NOT_READY. -/
theorem mailbox_notReady (op : Nat) (d a z : Bool) (args : BitVec 2048) (body : State → MbxRes) (m : MbxCall) {s : State}
    (h : hostUp s = true) (hb : s.mbx.busy = false) (hs : servedNow s a z = false) :
    mailbox op d a z args body m s = mbxEnd m.tag .notReady 0 (mbxTake op m args (hostWrote m.host s)) := by
  have hs' : servedNow (mbxTake op m args (hostWrote m.host s)) a z = false := hs
  simp [mailbox, h, hb, hs']

/-- A served command that its body refuses ends with that status, in the state that GO left. -/
theorem mailbox_refuse (op : Nat) (d a z : Bool) (args : BitVec 2048) {body : State → MbxRes} (m : MbxCall) {s : State} {st : Status}
    (h : hostUp s = true) (hb : s.mbx.busy = false) (hs : servedNow s a z = true)
    (hr : body (mbxTake op m args (hostWrote m.host s)) = .refuse st) :
    mailbox op d a z args body m s = mbxEnd m.tag st 0 (mbxTake op m args (hostWrote m.host s)) := by
  have hs' : servedNow (mbxTake op m args (hostWrote m.host s)) a z = true := hs
  simp [mailbox, h, hb, hs', hr]

/-- A served command that replies and does not defer ends with the reply. -/
theorem mailbox_reply (op : Nat) (d a z : Bool) (args : BitVec 2048) {body : State → MbxRes} (m : MbxCall) {s s1 : State} {st : Status}
    {r : Nat} (h : hostUp s = true) (hb : s.mbx.busy = false) (hs : servedNow s a z = true) (hd : (d && m.defer) = false)
    (hr : body (mbxTake op m args (hostWrote m.host s)) = .reply s1 st r) :
    mailbox op d a z args body m s = mbxEnd m.tag st (BitVec.ofNat 2048 r) s1 := by
  have hs' : servedNow (mbxTake op m args (hostWrote m.host s)) a z = true := hs
  simp [mailbox, h, hb, hs', hr, hd]

/-- A served command that waits and does not defer keeps BUSY and says what it waits for. -/
theorem mailbox_waits (op : Nat) (d a z : Bool) (args : BitVec 2048) {body : State → MbxRes} (m : MbxCall) {s s1 : State} {w : JobWait}
    (h : hostUp s = true) (hb : s.mbx.busy = false) (hs : servedNow s a z = true) (hd : (d && m.defer) = false)
    (hr : body (mbxTake op m args (hostWrote m.host s)) = .waits s1 w) :
    mailbox op d a z args body m s =
      { s1 with mbx := { s1.mbx with running := some { opcode := op, tag := m.tag, issuer := m.issuer, wait := w } } } := by
  have hs' : servedNow (mbxTake op m args (hostWrote m.host s)) a z = true := hs
  simp [mailbox, h, hb, hs', hr, hd]

/-! ### Rows and tasks -/

/-- A frozen state stays as it is. -/
theorem live_frozen (f : State → State) {s : State} (h : s.sys.frozen = true) : live f s = .next s := by simp [live, h]

/-- A row whose effect is `f` has it while the state is not frozen. -/
theorem live_next (f : State → State) {s : State} (h : s.sys.frozen = false) : live f s = .next (f s) := by simp [live, h]

/-- An admission row leaves the state as it is, or runs its body on the task whose turn has come. -/
theorem admission_cases {type : TaskType} {q n : Nat} {f : Task → State → State} {s u : State} (h : admission type q n f s = .next u) :
    u = s ∨ ∃ t, s.sys.frozen = false ∧ tasksRun s = true ∧ admissible s q n = some t ∧ t.ttype = type ∧ u = f t s := by
  unfold admission live at h
  cases hf : s.sys.frozen with
  | true => simp [hf] at h; exact .inl h.symm
  | false =>
    cases hr : tasksRun s with
    | false => simp [hf, hr] at h; exact .inl h.symm
    | true =>
      cases ha : admissible s q n with
      | none => simp [hf, hr, ha] at h; exact .inl h.symm
      | some t =>
        by_cases ht : t.ttype = type
        · simp [hf, hr, ha, ht] at h; exact .inr ⟨t, rfl, rfl, rfl, ht, h.symm⟩
        · simp [hf, hr, ha, ht] at h; exact .inl h.symm

theorem admission_next (type : TaskType) {q n : Nat} (f : Task → State → State) {s : State} {t : Task} (hf : s.sys.frozen = false)
    (hr : tasksRun s = true) (ha : admissible s q n = some t) (ht : t.ttype = type) : admission type q n f s = .next (f t s) := by
  simp [admission, live, hf, hr, ha, ht]

/-- The task whose turn has come is in the table, and QUEUED. -/
theorem admissible_task {s : State} {q n : Nat} {t : Task} (h : admissible s q n = some t) : task? s q n = some t ∧ t.state = .queued := by
  unfold admissible at h
  split at h
  · rename_i t' qu ht hq
    dsimp only at h
    split at h
    · rename_i hc
      cases h
      exact ⟨ht, hc.1⟩
    · cases h
  · cases h

theorem updTask_frame (q n : Nat) (f : Task → Task) (s : State) : updTask q n f s = { s with tasks := (updTask q n f s).tasks } := rfl

@[simp] theorem task?_putTask (t : Task) (s : State) : task? (putTask t s) t.queue t.seq = some t := by
  simp [task?]

theorem task?_putTask_other {t : Task} {q n : Nat} (s : State) (h : tid q n ≠ tid t.queue t.seq) :
    task? (putTask t s) q n = task? s q n := by
  simp [task?, h]

@[simp] theorem task?_updTask (q n : Nat) (f : Task → Task) (s : State) : task? (updTask q n f s) q n = (task? s q n).map f := by
  simp [task?, updTask]

theorem task?_updTask_other {q n q' n' : Nat} (f : Task → Task) (s : State) (h : tid q' n' ≠ tid q n) :
    task? (updTask q n f s) q' n' = task? s q' n' := by
  simp [task?, updTask, h]

/-! ### The end of a task -/

theorem stopCheck_frame (c : Nat) (s : State) : ∃ f u o,
    stopCheck c s = { s with work := { s.work with feeds := f }, links := { s.links with ucie := u }, sent := o } := by
  unfold stopCheck
  dsimp only
  split
  · exact ⟨s.work.feeds, s.links.ucie, s.sent, rfl⟩
  · obtain ⟨u, o, h⟩ := sendControl_frame (c / 4) _ (putChan c { chan s c with stopped := _ } s)
    exact ⟨_, u, o, h⟩

theorem drainTag_frame (c tag : Nat) (s : State) : ∃ f u o,
    drainTag c tag s = { s with work := { s.work with feeds := f }, links := { s.links with ucie := u }, sent := o } := by
  unfold drainTag
  obtain ⟨f, u, o, h⟩ := stopCheck_frame c (putChan c _ s)
  exact ⟨f, u, o, h⟩

/-- A fold of operations that write only the feeds, the modules and what is sent writes only these. -/
theorem feeds_foldl {α : Type} (g : State → α → State)
    (hg : ∀ s a, ∃ f u o, g s a = { s with work := { s.work with feeds := f }, links := { s.links with ucie := u }, sent := o }) :
    ∀ (xs : List α) (s : State), ∃ f u o,
      xs.foldl g s = { s with work := { s.work with feeds := f }, links := { s.links with ucie := u }, sent := o }
  | [], s => ⟨s.work.feeds, s.links.ucie, s.sent, rfl⟩
  | x :: xs, s => by
    obtain ⟨f, u, o, h⟩ := hg s x
    rw [List.foldl_cons, h]
    obtain ⟨f', u', o', h'⟩ := feeds_foldl g hg xs { s with work := { s.work with feeds := f }, links := { s.links with ucie := u }, sent := o }
    exact ⟨f', u', o', h'⟩

theorem releaseTags_frame (q n : Nat) (s : State) : ∃ f u o,
    releaseTags q n s = { s with work := { s.work with feeds := f }, links := { s.links with ucie := u }, sent := o } := by
  unfold releaseTags
  exact feeds_foldl _ (fun s (e : Nat × Channel) => feeds_foldl _ (fun s (u : Nat × TagUse) => drainTag_frame e.1 u.1 s) _ s) _ s

theorem freeMap_frame (q n : Nat) (s : State) : ∃ u, freeMap q n s = { s with work := { s.work with upd := { s.work.upd with maps := u } } } := by
  unfold freeMap
  split
  · exact ⟨s.work.upd.maps, rfl⟩
  · split
    · exact ⟨_, rfl⟩
    · exact ⟨s.work.upd.maps, rfl⟩

theorem dropWaits_frame (q n : Nat) (s : State) : ∃ cx a,
    dropWaits q n s = { s with ctxs := cx, ats := { s.ats with outFaults := a } } := ⟨_, _, rfl⟩

theorem dropUnissued_frame (q n : Nat) (s : State) : ∃ x, dropUnissued q n s = { s with streams := x } := ⟨_, rfl⟩

theorem dropPublish_frame (q n : Nat) (s : State) : ∃ pb,
    dropPublish q n s = { s with work := { s.work with tbl := { s.work.tbl with publishes := pb } } } := ⟨_, rfl⟩

theorem count_frame (c : Ctr) (n : Nat) (s : State) : ∃ x, count c n s = { s with counters := x } := ⟨_, rfl⟩

/-- A task lets go what it holds: waits, unissued transfers, feed tags and a publish. -/
theorem letGo_frame (q n : Nat) (s : State) : ∃ cx a x u o fd pb,
    dropPublish q n (releaseTags q n (dropUnissued q n (dropWaits q n s))) = { s with
      ctxs := cx, ats := { s.ats with outFaults := a }, streams := x, links := { s.links with ucie := u }, sent := o
      work := { s.work with feeds := fd, tbl := { s.work.tbl with publishes := pb } } } := by
  obtain ⟨cx, a, h1⟩ := dropWaits_frame q n s
  rw [h1]
  obtain ⟨x, h2⟩ := dropUnissued_frame q n { s with ctxs := cx, ats := { s.ats with outFaults := a } }
  rw [h2]
  obtain ⟨fd, u, o, h3⟩ := releaseTags_frame q n { s with ctxs := cx, ats := { s.ats with outFaults := a }, streams := x }
  rw [h3]
  obtain ⟨pb, h4⟩ := dropPublish_frame q n { s with
    ctxs := cx, ats := { s.ats with outFaults := a }, streams := x, links := { s.links with ucie := u }, sent := o
    work := { s.work with feeds := fd } }
  exact ⟨cx, a, x, u, o, fd, pb, h4⟩

/-- A task in a final state, or none, is not ended again (R372). -/
theorem endTask_final {q n : Nat} {st : TaskState} {status : Status} {d : Detail} {s : State}
    (h : ∀ t, task? s q n = some t → t.state.final = true) : endTask q n st status d s = s := by
  unfold endTask
  split
  · rfl
  · rename_i t ht
    simp [h t ht]

/-- A task that is QUEUED or ACTIVE enters the final state. What else may change is what it held: waits, unissued transfers, feed tags,
a publish, its retained map, and the counter of the state (R372, R484). -/
theorem endTask_ends {q n : Nat} (st : TaskState) (status : Status) (d : Detail) {s : State} {t : Task} (h : task? s q n = some t)
    (hf : t.state.final = false) : ∃ cx a x c u o fd pb mp,
    endTask q n st status d s = { s with
      tasks := Tab.put s.tasks (tid t.queue t.seq) { t with
        state := st, status := status, detail := d, finalAt := s.clock, wasActive := decide (t.state = .active) }
      ctxs := cx, ats := { s.ats with outFaults := a }, streams := x, counters := c, links := { s.links with ucie := u }, sent := o
      work := { s.work with feeds := fd, tbl := { s.work.tbl with publishes := pb }, upd := { s.work.upd with maps := mp } } } := by
  unfold endTask
  simp only [h, hf, Bool.false_eq_true, if_false]
  obtain ⟨cx, a, x, u, o, fd, pb, h1⟩ := letGo_frame q n (putTask { t with
    state := st, status := status, detail := d, finalAt := s.clock, wasActive := decide (t.state = .active) } s)
  rw [h1]
  split
  · obtain ⟨c, h2⟩ := count_frame (finalCtr st) 1 { (putTask { t with
      state := st, status := status, detail := d, finalAt := s.clock, wasActive := decide (t.state = .active) } s) with
      ctxs := cx, ats := { s.ats with outFaults := a }, streams := x, links := { s.links with ucie := u }, sent := o
      work := { s.work with feeds := fd, tbl := { s.work.tbl with publishes := pb } } }
    exact ⟨cx, a, x, c, u, o, fd, pb, s.work.upd.maps, h2⟩
  · obtain ⟨mp, h2⟩ := freeMap_frame q n { (putTask { t with
      state := st, status := status, detail := d, finalAt := s.clock, wasActive := decide (t.state = .active) } s) with
      ctxs := cx, ats := { s.ats with outFaults := a }, streams := x, links := { s.links with ucie := u }, sent := o
      work := { s.work with feeds := fd, tbl := { s.work.tbl with publishes := pb } } }
    obtain ⟨c, h3⟩ := count_frame (finalCtr st) 1 { (putTask { t with
      state := st, status := status, detail := d, finalAt := s.clock, wasActive := decide (t.state = .active) } s) with
      ctxs := cx, ats := { s.ats with outFaults := a }, streams := x, links := { s.links with ucie := u }, sent := o
      work := { s.work with feeds := fd, tbl := { s.work.tbl with publishes := pb }, upd := { s.work.upd with maps := mp } } }
    exact ⟨cx, a, x, c, u, o, fd, pb, mp, (congrArg (count (finalCtr st) 1) h2).trans h3⟩

/-! ### Writes -/

theorem devSet_frame (a : Nat) (b : Byte) (s : State) : ∃ m h, devSet a b s = { s with mem := m, hostMem := h } := by
  unfold devSet
  dsimp only
  split
  · exact ⟨s.mem, _, rfl⟩
  · exact ⟨_, s.hostMem, rfl⟩

theorem devWrite_frame : ∀ (bs : List Byte) (a : Nat) (s : State), ∃ m h, devWrite a bs s = { s with mem := m, hostMem := h }
  | [], _, s => ⟨s.mem, s.hostMem, rfl⟩
  | b :: bs, a, s => by
    obtain ⟨m, h, e⟩ := devSet_frame a b s
    obtain ⟨m', h', e'⟩ := devWrite_frame bs (a + 1) { s with mem := m, hostMem := h }
    exact ⟨m', h', by rw [devWrite, e, e']⟩

/-- A write keeps both memories canonical. -/
theorem devWrite_wf : ∀ (bs : List Byte) (a : Nat) (s : State), cellsWf 0 s.mem = true → cellsWf 0 s.hostMem = true →
    cellsWf 0 (devWrite a bs s).mem = true ∧ cellsWf 0 (devWrite a bs s).hostMem = true
  | [], _, _, hm, hh => ⟨hm, hh⟩
  | b :: bs, a, s, hm, hh => by
    rw [devWrite]
    refine devWrite_wf bs (a + 1) _ ?_ ?_
    · unfold devSet
      dsimp only
      split
      · exact hm
      · exact cellsWf_set 0 b _ _ hm
    · unfold devSet
      dsimp only
      split
      · exact cellsWf_set 0 b _ _ hh
      · exact hh

theorem noteWrite_frame (q n a len : Nat) (s : State) : ∃ t, noteWrite q n a len s = { s with tasks := t } := by
  unfold noteWrite
  split
  · exact ⟨s.tasks, rfl⟩
  · split
    · exact ⟨s.tasks, rfl⟩
    · exact ⟨_, rfl⟩

/-- A write of a task changes the two memories, the fences that it clears, and the note of its host writes. -/
theorem taskWrite_frame (q n a : Nat) (bs : List Byte) (s : State) : ∃ m h f t,
    taskWrite q n a bs s = { s with mem := m, hostMem := h, faults := { s.faults with fences := f }, tasks := t } := by
  unfold taskWrite
  obtain ⟨m, h, e⟩ := devWrite_frame bs a s
  rw [e]
  obtain ⟨t, e'⟩ := noteWrite_frame q n a bs.length (clearFences a bs.length { s with mem := m, hostMem := h })
  exact ⟨m, h, _, t, e'⟩

/-! ### Peer packets -/

/-- A received packet is ignored, forwarded, acknowledged again, asked for again, or accepted and handled (R257, R258, R269). -/
theorem onPacket_cases (type : Nat) (p : PeerPkt) (f : List Byte → State → State) (s : State) :
    onPacket type p f s = s ∨ onPacket type p f s = forwardPkt p s ∨
    onPacket type p f s = ackAgain (pktSrc p) (pktJob p) s ∨
    onPacket type p f s =
      count .peerDecodeRetries 1 (ctlSend .uncoded (pktSrc p) 4095 (pktCtx p) 0 (pktJob p) (pktSeq p) 0 [] s) ∨
    ∃ b, pktBody s p = some b ∧ groupBad type b = false ∧ onPacket type p f s = f b (pktAccept p s) := by
  unfold onPacket
  split
  · exact .inl rfl
  · split
    · exact .inr (.inl rfl)
    · split
      · exact .inr (.inr (.inl rfl))
      · split
        · exact .inl rfl
        · split
          · exact .inr (.inr (.inr (.inl rfl)))
          · rename_i b hb
            split
            · exact .inl rfl
            · rename_i hg
              exact .inr (.inr (.inr (.inr ⟨b, hb, by simpa using hg, rfl⟩)))

/-- A packet that the device takes is accepted and handled. -/
theorem onPacket_takes {type : Nat} {p : PeerPkt} (f : List Byte → State → State) {s : State} {b : List Byte}
    (hu : peerUp s p.port = true) (hv : s.work.chain.valid = true) (ht : pktType p = type) (hb : pktBad p = false)
    (hd : pktDst p = s.work.chain.addr) (ho : pktOld s p = false) (ha : pktAhead s p = false) (h : pktBody s p = some b)
    (hg : groupBad type b = false) : onPacket type p f s = f b (pktAccept p s) := by
  simp [onPacket, hu, hv, ht, hb, hd, ho, ha, h, hg]

end Sys2Proof.Machine
end

