-- ==== Sys2Proof/Tests/Slice0.lean ====
section
/-! SUPPORT. Tests of the model: ill-formed commands, single steps, and witnesses for the hypotheses of the statements. -/

namespace Sys2Proof.Tests

open Sys2Proof Sys2Proof.Machine

set_option Elab.async false

/-! ### Small states -/

/-- What the surroundings answer in a start-up in which every part passes. -/
def obs : BootObs :=
  { fusesOk := true, pllOk := true
    copies := List.replicate 3 (BitVec.ofNat 128 (1 + 0x11 * 4), BitVec.ofNat 128 (2 + 0x11 * 4))
    failedWires := [], stackFail := false, arrayFail := false, sig0 := true, sig1 := true, sigRec := true, trims := [], sfdp8d := true
    hostLanes := 16, stackBytes := [], expanderBytes := [], ucieLanes := [], peerLanes := [] }

/-- Start-up after step `n`, with the image straps given. -/
def bootAt (n src : Nat) : State := { sys := { engState := .booting, bootStep := n, bootSrc := src } }

/-- A device that is READY, with four stacks and the host port up. -/
def rdy : State :=
  { sys := { engState := .ready, bootStep := 14, lowerUp := true, upperUp := true, protocol := 2
             cfg := { valid := true, stackCount := 4, ucieModules := 1 } }
    links := { host := { up := true, lanes := 16 } } }

/-- The next state of a command, or the state itself. -/
def after (c : Instr) (s : State) : State :=
  match exec c s with
  | .next t => t
  | _ => s

/-- A mailbox call. -/
def call (issuer : Nat) (args : BitVec 2048) : MbxCall := { issuer := issuer, tag := 7, args := args, host := [], defer := false }

/-- A READY device with context 0, a STACK range of it, and queue 0 with its rings there. -/
def dev : State :=
  { rdy with ctxs := [(0, {})], ranges := [(4096, { r := true, w := true, a := true, len := 65536 })]
             queues := [(0, { sqAddr := 4096, cqAddr := 8192 })]
             stackTab := [(0, { capacity := 2 ^ 30 })] }

/-- The device with a task of queue 0 and SEQ 0 in the state given. -/
def withTask (t : Task) : State :=
  { dev with tasks := [(0, t)], queues := [(0, { sqAddr := 4096, cqAddr := 8192, nextSeq := 1, sqTail := 1 })] }

/-- Mailbox arguments from fields given as lowest bit, length and value. -/
def args (fs : List (Nat × Nat × Nat)) : BitVec 2048 := BitVec.ofNat 2048 (packFields fs)

/-- The device with reads (and, where true, writes) of a task's own streams that have come. -/
def fetched (q n : Nat) (xs : List (Bool × Nat × Nat)) (s : State) : State :=
  { s with streams := { s.streams with transfers := s.streams.transfers ++ xs.zipIdx.map fun x =>
      (x.2, { queue := q, seq := n, src := x.1.2.1, dst := x.1.2.1, len := x.1.2.2, gate := some x.1.1, data := some [] }) } }

/-! ### Witnesses for the hypotheses of the statements -/

theorem witness_step : State.reset.pending = [] := rfl

theorem witness_warm : (rdy.sys.engState ≠ .reset ∧ 3 ≤ rdy.sys.bootStep) ∧
    halfExchange obs.copies = none ∧ (lostBonds (bondTest (rdy.fuses.bondWires ++ obs.failedWires) State.reset)).length ≤ 64 ∧
    exec .warmReset rdy = .next (after .warmReset rdy) :=
  ⟨by decide, by decide, by decide, rfl⟩

theorem witness_cold : State.reset.sys.engState = .reset ∧ (Straps.mk true 0).bootSrc < 4 := by decide

/-- Bytes 16 to 511 of a boot configuration: a host port on group 0, four stacks, 2,500 W (R512). -/
def cfgBody : List Byte :=
  zeroBytes 12 ++ [1] ++ zeroBytes 5 ++ [4] ++ zeroBytes 3 ++ [0xC4, 0x09] ++ zeroBytes 472

/-- Bytes as cells from an address on. -/
def cellsFrom : Nat → List Byte → List Host.Cell
  | _, [] => []
  | a, b :: bs => (a, b) :: cellsFrom (a + 1) bs

theorem cellRead_cons_above (d : Byte) (k : Nat) (v : Byte) (rest : List Host.Cell) (n : Nat) :
    ∀ a, k < a → cellRead d ((k, v) :: rest) a n = cellRead d rest a n := by
  induction n with
  | zero => intro a _; rfl
  | succ n ih =>
    intro a h
    have h1 : (k == a) = false := by simp; omega
    simp only [cellRead, cellGet, h1, if_neg (Nat.not_lt.mpr (Nat.le_of_lt h)), ih (a + 1) (by omega)]
    simp

theorem cellRead_cellsFrom (d : Byte) (bs : List Byte) : ∀ a, cellRead d (cellsFrom a bs) a bs.length = bs := by
  induction bs with
  | nil => intro a; rfl
  | cons b bs ih =>
    intro a
    simp only [cellsFrom, List.length_cons, cellRead, cellGet, beq_self_eq_true, if_true]
    rw [cellRead_cons_above d a b (cellsFrom (a + 1) bs) bs.length (a + 1) (by omega), ih (a + 1)]

/-- The image with its check code. -/
def cfgBytes : List Byte :=
  [0x47, 0x43, 0x46, 0x47, 1, 0, 0, 0, 0x39, 0x34, 0x89, 0xF4] ++ zeroBytes 4 ++ cfgBody

/-- Start-up after step 4, with a flash without a directory record whose configuration copy 0 is valid. -/
def cfgState : State := { bootAt 4 0 with flash := cellsFrom 0x10000 cfgBytes }

theorem cfg_read : flashRead cfgState 0x10000 512 = cfgBytes := by
  have h : cfgBytes.length = 512 := by decide +kernel
  have h1 := cellRead_cellsFrom 0xFF cfgBytes 0x10000
  rwa [h] at h1

theorem cfg_number : ofBytes cfgBytes =
    0x47464347 + 2 ^ 32 + 4102632505 * 2 ^ 64 + 2 ^ 224 + 4 * 2 ^ 272 + 2500 * 2 ^ 304 := by decide +kernel

set_option maxRecDepth 100000 in
theorem cfg_crc : crc32c ((cfgBytes.drop 16).take 496) = 4102632505 := by decide +kernel

theorem cfg_copy : cfgAddr (directory cfgState).cfgCopy = 0x10000 := by decide +kernel

theorem witness_boot_cfg : (bootCfg cfgState).valid = true := by
  unfold bootCfg parseCfg
  rw [cfg_copy, cfg_read, cfg_number]
  simp only [cfg_crc]
  decide +kernel

/-- A header that the checks of R497 accept, as the flash of slot 0 holds it. -/
def fwFlash : List Host.Cell :=
  cellsFrom 0x100000 (toBytes 24 (packFields [(0, 32, 0x4D495746), (32, 16, 1), (80, 16, 2), (96, 16, 1), (128, 32, 1)]))

theorem witness_boot_image : bootImage obs { bootAt 5 0 with flash := fwFlash } = some (.slot 0) := by decide +kernel

theorem witness_boot_image_none : bootImage { obs with sig0 := false, sig1 := false } (bootAt 5 0) = none := by decide +kernel

/-- Sixty-five channels are lost before the interconnect test. -/
def manyLost : State :=
  { bootAt 3 0 with links := { bonds := (List.range 65).map fun c => (c, { lost := true }) } }

theorem witness_boot_bonds :
    64 < (lostBonds (bondTest (manyLost.fuses.bondWires ++ obs.failedWires) manyLost)).length := by decide +kernel

theorem witness_boot_steps :
    (bootAt 1 0).sys.bootStep = 1 ∧ obs.fusesOk = true ∧ { obs with fusesOk := false }.fusesOk = false ∧
    (bootAt 2 3).sys.bootSrc = 3 ∧ (bootAt 2 0).sys.bootSrc ≠ 3 ∧ { obs with pllOk := false }.pllOk = false ∧
    { obs with copies := [] }.copies.length ≠ 3 ∧
    halfId (majority (1 : Word128) 0 0) ≠ 1 ∧ halfExchange obs.copies = none ∧
    (lostBonds (bondTest ((bootAt 3 0).fuses.bondWires ++ obs.failedWires) (bootAt 3 0))).length ≤ 64 ∧
    (bootCfg { bootAt 4 0 with flash := [] }).valid = false ∧ (bootAt 5 0).sys.bootSrc ≠ 2 ∧
    serviceClusters (bootAt 9 0) ≠ [] ∧ enumEnded (bootAt 12 0) = true ∧ (bootAt 7 0).sys.bootFail = false ∧
    { bootAt 7 0 with sys := { (bootAt 7 0).sys with bootFail := true } }.sys.bootFail = true := by
  decide +kernel

/-- A device at step 7 whose flash holds this directory record, and a set without entries. -/
def calAt (recal : Bool) : State :=
  let d := (dirBytes { seq := 1, fwSlot := 0, cfgCopy := 0, calCopy := 0, recal := recal }).take 16
  let cells := cellsFrom 0 d ++ cellsFrom 0x30000 (calImage (bootAt 6 0) 0 [])
  { bootAt 6 0 with flash := cells }

theorem witness_boot_cal :
    (directory (calAt false)).recal = false ∧ calOk (calAt false) (calStored (calAt false)) = true ∧ (directory (calAt true)).recal = true ∧
    (directory (bootAt 6 0)).recal = false ∧ calOk (bootAt 6 0) (calStored { bootAt 6 0 with flash := [] }) = false := by
  decide +kernel

theorem witness_boot_links :
    ([(3, 64)].map (Prod.fst : Nat × Nat → Nat)).Nodup ∧ (255 : Nat).testBit 3 = true ∧ portGroups 0x2301 2 ≠ [] ∧ portGroups 0x2301 3 ≠ [] := by
  decide +kernel

theorem witness_image : imgWaits (bootAt 5 2) = true ∧ (bootAt 5 2).sys.imgOffset.toNat + [(1 : Byte)].length < 2 ^ 32 ∧
    imgWaits rdy = false := by decide

/-- A READY device whose cluster 3 and stack 1 are hot. -/
def hot : State :=
  { rdy with power := { islands := [(3, { level := 2, temp := 99 })], level2Halves := [] }
             stackTab := [(1, { capacity := 4096, level := 2, temp := 89 })] }

theorem witness_thermal :
    hot.sys.engState ≠ .reset ∧ hot.sys.frozen = false ∧ (∃ r ∈ [(3, (115 : Int))], r.1 < 512 ∧ 115 ≤ r.2) ∧
    (∀ r ∈ [(3, (114 : Int)), (511, 98)], r.1 < 512 ∧ r.2 < 115) ∧ ([(3, (114 : Int)), (511, 98)].map Prod.fst).Nodup ∧
    (island hot 3).level < 3 ∧ 0 < (island hot 3).level ∧ (island hot 3).temp < islandThreshold (island hot 3).level - 2 ∧
    populated hot 1 = true ∧ 0 < (stackPort hot 1).level ∧ (stackPort hot 1).temp < stackThreshold (stackPort hot 1).level - 2 ∧
    (stackPort hot 1).level < stackLevelOf 104 ∧ 4 ≤ stackLevelOf 104 := by
  decide

theorem witness_power :
    hot.sys.frozen = false ∧ halfAtLevel2 hot 0 = true ∧ 0 ∉ hot.power.level2Halves ∧ 10 ≤ hot.sys.bootStep ∧
    Tab.get? hot.power.islands 3 = some { level := 2, temp := 99 } ∧ managerRuns hot = true ∧
    ([(3, 5), (7, 0)].map (Prod.fst : Nat × Nat → Nat)).Nodup ∧ limitInForce hot < 2501 ∧
    100 * 2000 < 97 * limitInForce hot ∧ 2450 ≤ limitInForce hot ∧ 97 * limitInForce hot ≤ 100 * 2450 := by
  decide +kernel

set_option maxRecDepth 10000 in
theorem witness_power_service : 3 ∈ serviceClusters hot ∧ serviceClusters hot ≠ [] := by decide +kernel

theorem witness_hints :
    MbxOpen rdy ∧ zeroFields (hintArgs 1 (call 0 (BitVec.ofNat 2048 (5 * 2 ^ 64)))) (hintReserved 1) = true ∧
    zeroFields (hintArgs 2 (call 0 (BitVec.ofNat 2048 (2500 * 2 ^ 16)))) (hintReserved 2) = true ∧
    bits (call 0 (BitVec.ofNat 2048 (2500 * 2 ^ 16))).args 16 16 = 2500 ∧
    ¬ (bits (BitVec.ofNat 2048 (2501 * 2 ^ 16)) 16 16 = 0 ∨ (1000 ≤ bits (BitVec.ofNat 2048 (2501 * 2 ^ 16)) 16 16 ∧
      bits (BitVec.ofNat 2048 (2501 * 2 ^ 16)) 16 16 ≤ 2500)) ∧
    zeroFields (hintArgs 3 (call 0 (BitVec.ofNat 2048 (40 * 2 ^ 32)))) (hintReserved 3) = true ∧
    bits (BitVec.ofNat 2048 (40 * 2 ^ 32)) 32 6 = 40 ∧ 40 < bits (BitVec.ofNat 2048 (41 * 2 ^ 32)) 32 6 ∧
    zeroFields (hintArgs 4 (call 0 (BitVec.ofNat 2048 (2 * 2 ^ 4)))) (hintReserved 4) = true := by
  unfold MbxOpen
  decide +kernel

/-- A READY device whose pair 5 is in the Lull state given, with a NEXT_EVENT hint of 1 s. -/
def lulled (l : Lull) : State :=
  { rdy with power := { lull := [(5, l)], nextEventAt := some 100000000 } }

/-- The same device with a pinned row in the pair. -/
def lulledPinned : State :=
  { lulled { state := 1, entering := some 3 } with
    work := { tbl := { rows := [(0, { t0 := some { cluster := 5, core := 0, line := none, bytes := [], dirty := false, pinned := true
                                                   age := 0, shadow := none } })] } } }

set_option maxRecDepth 10000 in
theorem witness_lull :
    (lulled {}).sys.frozen = false ∧ pairServes (lulled {}) 5 = true ∧ (lullOf (lulled {}) 5).state = 0 ∧
    1 ≤ (lulled {}).power.lullFloor ∧ pairIdle (lulled {}) 5 = true ∧ deepest (lulled {}) 5 = 3 ∧
    (lullOf (lulled { state := 1, entering := some 2 }) 5).entering = some 2 ∧
    pairIdle (lulled { state := 1, entering := some 2 }) 5 = true ∧ pairPinned (lulled { state := 1, entering := some 3 }) 5 = false ∧
    (let c : T0Copy := { cluster := 5, core := 0, line := none, bytes := [], dirty := true, pinned := false, age := 0, shadow := none }
     let s := { lulled { state := 1, entering := some 3 } with work := { tbl := { rows := [(0, { place := { tier := 2, addr := 2 ^ 40 }, t0 := some c })] } } }
     (emptyPair 5 s).1 = false ∧ pairIdle s 5 = true) ∧
    (emptyPair 5 (lulled { state := 1, entering := some 3 })).1 = true ∧
    pairIdle { lulled {} with work := { upd := { works := [(0, { homes := [(0, 5)] })] } } } 5 = false ∧
    pairPinned lulledPinned 5 = true ∧ (lullOf lulledPinned 5).entering = some 3 ∧
    (tNext (lulled { state := 2 })).isSome = true ∧
    (lullOf (lulled { state := 3 }) 5).state = 3 ∧ awakeCapacity (lulled { state := 3 }) < 2 * 10 ^ 12 ∧
    (lullOf (lulled { state := 1, waking := true }) 5).waking = true := by
  decide +kernel

/-- A READY device with these processors. -/
def withMps (lo up : MpState) : State :=
  { rdy with mpLower := lo, mpUpper := up
             sys := { rdy.sys with lowerUp := !lo.failed, upperUp := !up.failed } }

theorem witness_mp :
    mpUp rdy 1 = true ∧ mpUp rdy 0 = true ∧ mpUp (withMps { failed := true } {}) 0 = false ∧ mpUp (withMps { failed := true } {}) 1 = true ∧
    (mpOf (withMps { failed := true } {}) 0).failed = true ∧ (mpOf (withMps { failed := true } {}) 0).handedOver = false ∧
    (mpOf (withMps { failed := true, restarting := true, restarts := 2 } {}) 0).restarting = true ∧
    (mpOf (withMps { failed := true, restarting := true, restarts := 2 } {}) 0).restarts = 2 ∧
    rdy.fw.activating = false ∧ (mpOf rdy 0).sequencerOut = false ∧
    (let s := { withMps { failed := true, restarting := true } {} with fw := { activating := true } }
     (mpOf s 0).restarting = true ∧ s.fw.activateStep = 0 ∧ (mpOf s 0).failed = true) ∧ rdy.sys.engState ≠ .reset ∧ rdy.sys.frozen = false ∧
    (withMps { sequencerOut := true } { sequencerOut := true }).mpLower.sequencerOut = true := by
  decide +kernel

/-- A READY device with 64 tickets outstanding. -/
def allTickets : State := { rdy with mbx := { tickets := (List.range 64).map fun k => (k, {}) } }

theorem witness_defer :
    MbxServes true true rdy ∧ rdy.mbx.tickets.length < 64 ∧ { call 0 0 with defer := true }.defer = true ∧
    (∀ k, k < 64 → Tab.has allTickets.mbx.tickets k = true) ∧ MbxServes true true allTickets ∧
    (mbxIn 1 (call 0 0) 0 rdy).mbx = (mbxIn 1 (call 0 0) 0 rdy).mbx := by
  unfold MbxServes
  decide +kernel

theorem witness_mailbox :
    (Instr.engInfo (call 0 0)).mbx? = some (call 0 0) ∧ hostUp State.reset = false ∧ hostUp rdy = true ∧ rdy.mbx.busy = false ∧
    { rdy with mbx := { busy := true } }.mbx.busy = true ∧
    hostUp { rdy with sys := { engState := .safe, safeCause := .thermalTrip } } = true ∧
    MbxOpen rdy ∧ 0x56 < 2 ^ 16 ∧ 0x56 ∉ opcodes := by
  unfold MbxOpen
  decide +kernel

/-- A READY device with one ticket. -/
def ticketed (r : Running) : State := { rdy with mbx := { tickets := [(63, r)] } }

theorem witness_tickets :
    Tab.get? (ticketed { status := some .ok }).mbx.tickets 63 = some { status := some .ok } ∧
    MbxServes true false (ticketed { status := some .ok, reported := true }) ∧
    zeroFields (call 0 63).args [(6, 2042)] = true ∧ bits (call 0 63).args 0 6 = 63 ∧
    Tab.get? (ticketed {}).mbx.tickets (bits (call 0 62).args 0 6) = none := by
  unfold MbxServes
  decide +kernel

theorem witness_attach :
    MbxOpen rdy ∧ zeroFields (call 0 (BitVec.ofNat 2048 (3 + 2 ^ 64))).args [(2, 62), (256, 1792)] = true ∧
    bit (call 0 (BitVec.ofNat 2048 (3 + 2 ^ 64))).args 0 = true ∧ zeroFields (call 0 0).args [(64, 192)] = true ∧
    zeroFields (call 0 0).args [(0, 2048)] = true ∧ rdy.attach.lossSinceAttach = false := by
  unfold MbxOpen
  decide +kernel

/-- A READY device with context 0, a STACK range of it, and debug unlocked. -/
def readable : State :=
  { rdy with ctxs := [(0, {})], ranges := [(4096, { r := true, w := true, len := 8192 })]
             sys := { rdy.sys with debugUnlocked := true } }

/-- Arguments of STATE_READ: OUT_ADDR 4,096 and OUT_BYTES 512. -/
def readTo : BitVec 2048 := BitVec.ofNat 2048 (4096 * 2 ^ 128 + 512 * 2 ^ 192)

theorem witness_readback :
    MbxServes true false readable ∧ zeroFields (readArgs 16 true (call 0 readTo)) [(24, 40), (184, 8), (224, 1824)] = true ∧
    bits (readArgs 16 true (call 0 readTo)) 16 8 = 0 ∧ scopedSelector 9 = true ∧ bits (readArgs 9 false (call 0 readTo)) 16 8 = 0 ∧
    Tab.has readable.ctxs 0 = true ∧ readable.sys.debugUnlocked = true ∧
    areaOk readable 0 (bits (readArgs 1 false (call 0 readTo)) 128 56) (bits (readArgs 1 false (call 0 readTo)) 192 32) .w
      .stackOrPinned = true ∧
    areaOk rdy 0 (bits (readArgs 1 false (call 0 readTo)) 128 56) (bits (readArgs 1 false (call 0 readTo)) 192 32) .w
      .stackOrPinned = false ∧
    windowSelector { readable with dbg := { selector := 17 } } 17 = true ∧ windowSelector rdy 12 = true ∧
    { rdy with dbg := { selector := 17 } }.sys.debugUnlocked = false := by
  unfold MbxServes
  decide +kernel

theorem witness_read_record : readRecord rdy 12 none 0 = .ok { head := stackRecord rdy 0 } := rfl

theorem witness_read_counters : ∃ r, readRecord readable 16 (some 0) 0 = .ok r := ⟨_, rfl⟩


theorem witness_accumulator :
    let s : State := { readable with work := { idx := { lookups := [(0, { homes := [(0, 3)], elems := 1 })] } } }
    s.sys.engState ≠ .reset ∧ s.sys.debugUnlocked = true ∧ s.sys.lowerUp = true ∧ ((3 : BitVec 64)).toNat % 2 ^ 16 = 3 ∧
    ((clusterFrames s 3)[bitsOf (3 : BitVec 64).toNat 16 16]?).isSome = true := by
  decide +kernel

theorem witness_faultqueue :
    hostUp rdy = true ∧ rdy.fq.enable = false ∧ rdy.fq.waiting = [] ∧ rdy.fq.kept = [] ∧ fqFull rdy.fq = true ∧
    fqFull { rdy.fq with enable := true } = false ∧
    (FaultRecord.tag { cls := .link, sev := .info }) = none := by
  decide +kernel

/-- A READY device with a queue whose completion interrupt waits. -/
def held : State := { rdy with queues := [(9, { holdoffPending := true })] }

theorem witness_interrupts :
    rdy.irq.causes.toNat.testBit Cause.event.index = false ∧
    { rdy with irq := { enables := 127 } }.irq.enables.toNat.testBit Cause.hostJournal.index = true ∧
    rdy.sys.cfg.ucieVectorMask.testBit 2 = false ∧ hostUp rdy = true ∧ rdy.irq.msixEnable = false ∧
    { rdy with irq := { msixEnable := true, msixTable := [(2, { masked := false })] } }.irq.msixEnable = true ∧
    (Tab.getD [(2, { masked := false })] 2 ({} : MsixEntry)).masked = false ∧
    Tab.get? held.queues 9 = some { holdoffPending := true } ∧ held.sys.frozen = false := by
  decide +kernel

theorem witness_register_reads :
    hostUp rdy = true ∧ Tab.get? rdy.queues 5 = none ∧
    readReg { rdy with mbx := { rdy.mbx with opcode := 0x10, issuer := 3, done := true, status := 0x102 } } .bar0 0x100 true =
      0x30010 ∧
    readReg { rdy with mbx := { rdy.mbx with done := true, status := 0x102 } } .bar0 0x108 false = 0x1020002 := by
  decide +kernel

theorem witness_registers : hostUp rdy = true ∧ rdy.fq.enable = false ∧ { rdy with fq := { enable := true } }.fq.enable = true := by
  decide +kernel

theorem witness_queues :
    let a := args [(0, 10, 1023), (24, 4, 4), (32, 10, 1023), (48, 7, 64), (64, 56, 12288), (128, 56, 16384)]
    MbxOpen dev ∧ zeroFields a [(10, 6), (28, 4), (42, 6), (55, 1), (120, 8), (184, 1864)] = true ∧ bits a 24 4 = 4 ∧
    bits a 32 10 = 1023 ∧ bits a 48 7 = 64 ∧ ctxOk dev (call 0 a) 0 = true ∧ Tab.has dev.queues 1023 = false ∧
    (t4Of dev).attached = false ∧ ringOk dev 0 (bits a 64 56) (64 * 2 ^ 4) .r = true ∧
    ringOk dev 0 (bits a 128 56) (128 * 2 ^ 4) .w = true ∧ Tab.has dev.queues 0 = true ∧
    zeroFields (0 : BitVec 2048) (queueUnused false false) = true ∧ namedQueue dev (args [(0, 10, 1)]) = none ∧
    namedQueue dev 0 = some { sqAddr := 4096, cqAddr := 8192 } ∧ queueTasks dev 0 = [] ∧
    zeroFields (args [(64, 56, 12288)]) (queueUnused false true) = true ∧
    ringOk dev 0 (bits (args [(64, 56, 12288)]) 64 56) (64 * 2 ^ 4) .r = true := by
  unfold MbxOpen
  decide +kernel

theorem witness_abort :
    task? (withTask { state := .complete }) 0 0 = some { state := .complete } ∧ TaskState.final .complete = true ∧
    task? (withTask { state := .active }) 0 0 = some { state := .active } ∧ TaskState.final .active = false ∧
    MbxOpen (withTask { state := .active }) ∧ zeroFields (0 : BitVec 2048) (queueUnused true false) = true ∧
    ctxOk (withTask { state := .active }) (call 0 0) 0 = true ∧ task? dev 0 0 = none ∧
    1 ≤ seqDist 32 0 1 ∧ seqDist 32 0 1 < 65536 ∧ (namedQueue (withTask {}) 0).isSome = true := by
  unfold MbxOpen
  decide +kernel

theorem witness_contexts :
    MbxOpen rdy ∧ zeroFields (call 5 (args [(0, 8, 5), (8, 1, 1)])).args [(9, 2039)] = true ∧ coldCompress rdy = true ∧
    bits (call 5 (args [(0, 8, 5), (8, 1, 1)])).args 0 8 = 5 ∧ Tab.has rdy.ctxs 5 = false ∧ Tab.has dev.ctxs 0 = true ∧
    zeroFields (call 0 0).args [(8, 2040)] = true ∧ ctxOk { dev with queues := [] } (call 0 0) 0 = true ∧
    (∃ e ∈ dev.ranges, e.2.ctx = 0) ∧ ctxOk { rdy with ctxs := [(0, {})] } (call 0 0) 0 = true := by
  unfold MbxOpen
  decide +kernel

/-- The device with the memory given and a doorbell rung. -/
def slotted (mem : List Host.Cell) : State :=
  { dev with queues := [(0, { sqAddr := 4096, cqAddr := 8192, sqTail := 1 })]
             mem := mem }

/-- Queue 0 of that device. -/
def slotQueue : Queue := { sqAddr := 4096, cqAddr := 8192, sqTail := 1 }

/-- A FENCE with SEQ 0: its slot at 4,096, its descriptor at 12,288. -/
def fenceCells : List Host.Cell := [(4096, 1), (4097, 10), (4105, 48), (4112, 3), (4116, 145), (4117, 232), (4118, 150), (4119, 241), (4158, 72), (4159, 131), (12288, 10)]

/-- The same with a reserved bit of the slot set. -/
def oddCells : List Host.Cell := [(4096, 3), (4097, 10), (4105, 48), (4112, 3), (4116, 145), (4117, 232), (4118, 150), (4119, 241), (4158, 240), (4159, 116), (12288, 10)]

/-- The same with a descriptor address that is no multiple of 16. -/
def strayCells : List Host.Cell := [(4096, 1), (4097, 10), (4104, 1), (4105, 48), (4112, 3), (4116, 145), (4117, 232), (4118, 150), (4119, 241), (4158, 47), (4159, 31), (12288, 10)]

theorem witness_slot_queue :
    Tab.get? (slotted []).queues 0 = some slotQueue ∧ readsSlots (slotted []) slotQueue = true ∧
    seqBefore 32 16 slotQueue.nextSeq.toNat = false ∧
    seqDist 32 slotQueue.nextSeq.toNat 16 ≤ 2 ^ slotQueue.slotsLog2 ∧
    2 ^ slotQueue.slotsLog2 < seqDist 32 slotQueue.nextSeq.toNat 17 ∧ slotHidden (slotted []) slotQueue = true ∧
    { slotQueue with rereads := 64 }.rereads = 64 := by
  decide +kernel

/-- The slot as a number, the reserved field and the descriptor address given by the cells above. -/
def fenceSlot : Nat := 0x83480000000000000000000000000000000000000000000000000000000000000000000000000000f196e8910000000300000000000030000000000000000a01

/-- The slot with the reserved bit. -/
def oddSlot : Nat := 0x74f00000000000000000000000000000000000000000000000000000000000000000000000000000f196e8910000000300000000000030000000000000000a03

/-- The slot with the stray address. -/
def straySlot : Nat := 0x1f2f0000000000000000000000000000000000000000000000000000000000000000000000000000f196e8910000000300000000000030010000000000000a01

/-- The descriptor: its type, no bindings, all else zero. -/
def fenceDesc : List Byte := 10 :: List.replicate 47 0

theorem witness_slot_visible : viewSlot (slotted fenceCells) slotQueue = .visible fenceSlot fenceDesc ∧
    descriptorBad fenceSlot fenceDesc = false ∧ addrFields (taskOf 0 slotQueue fenceSlot fenceDesc 0) = [] :=
  ⟨by decide +kernel, by decide +kernel, by decide +kernel⟩

theorem witness_slot_bad : viewSlot (slotted oddCells) slotQueue = .visible oddSlot fenceDesc ∧
    descriptorBad oddSlot fenceDesc = true := ⟨by decide +kernel, by decide +kernel⟩

theorem witness_slot_stray : viewSlot (slotted strayCells) slotQueue = .noDescriptor straySlot := by decide +kernel

/-- The task of a FENCE with all its parameters zero. -/
def fenceTask : Task := { part := List.replicate 16 0 }

theorem witness_task_end :
    let a := withTask fenceTask
    let b := withTask { fenceTask with state := .active, effected := true, deadlineUs := 5 }
    let c : State := { b with work := { b.work with upd := { b.work.upd with
      runs := [(7, { queue := 0, seq := 0, phase := .deltaWait 0, grad := { key := 0, elems := [] } })] } } }
    a.sys.frozen = false ∧ task? a 0 0 = some fenceTask ∧ tasksRun a = true ∧ admissible a 0 0 = some fenceTask ∧
    partZero fenceTask [(0, 128)] = true ∧ partZero { fenceTask with part := List.replicate 16 1 } [(0, 128)] = false ∧
    (earlierTasks a 0 0).all (fun e => e.state.final) = true ∧ hostUp a = true ∧ earlierDone b 0 0 = true ∧ settled b 0 0 = true ∧
    stream? b 0 0 = none ∧ work? b 0 0 = none ∧ deltaWaiting b 0 0 = none ∧ deltaWaiting c 0 0 = some (7, 0) ∧
    (Tab.get? b.queues 0).isSome = true ∧ fenceTask ∈ queueTasks a 0 := by
  decide +kernel

theorem witness_fence_waits :
    let a : State := { withTask fenceTask with
      queues := [(0, { sqAddr := 4096, cqAddr := 8192, nextSeq := 2, sqTail := 2, maxActive := 2 })]
      tasks := [(0, { fenceTask with state := .active, ttype := .copy }), (1, { fenceTask with seq := 1 })] }
    admissible a 0 1 = some { fenceTask with seq := 1 } ∧ (earlierTasks a 0 1).all (fun e => e.state.final) = false ∧
    earlierDone { a with tasks := [(0, { fenceTask with ttype := .copy }), (1, { fenceTask with seq := 1, state := .active })] } 0 1 =
      false := by
  decide +kernel

/-- The task of a LOOKUP of one bag from a record area. -/
def lookTask : Task :=
  { ttype := .lookup, state := .active, part := toBytes 128 (packFields [(8, 1, 1), (11, 1, 1), (160, 32, 16)]) }

/-- Its work, with nothing read yet. -/
def lookWork : LookupWork := { bags := 1, elems := 1, mapAddr := 20480, mapBytes := 4096, recordAddr := 16384, recordBytes := 64
                               ingest := { fromMemory := true } }

/-- The device with the work, a unit, and the record area's bytes. -/
def looking (w : LookupWork) (mem : List Host.Cell) : State :=
  { withTask lookTask with mem := mem, work := { idx := { lookups := [(0, w)], units := [(0, [0])] } } }

theorem witness_look_admission :
    let a := withTask { lookTask with state := .queued }
    task? a 0 0 = some { lookTask with state := .queued } ∧ tasksRun a = true ∧
    admissible a 0 0 = some { lookTask with state := .queued } ∧ lkHeld a lookTask = false ∧ lkFault a lookTask = none ∧
    lkFault a { lookTask with part := toBytes 128 (packFields [(13, 1, 1)]) } = some (.badReserved, {}) ∧
    (let b : State := { withTask lookTask with work := { upd := { maps := List.replicate 4096 (lkMap lookTask lookWork) } } }
     lkHeld b { lookTask with part := toBytes 128 (packFields [(10, 1, 1)]) } = true) ∧
    pitterJob lookTask = true ∧ unitsHeld (looking lookWork []) 0 0 = [0] := by
  decide +kernel

theorem witness_look_record :
    let a := fetched 0 0 [(false, 16384, 16), (false, 16384, 32)] (looking lookWork [(16384, 1), (16386, 48)])
    look? a 0 0 = some lookWork ∧ memGate 0 0 .r 16384 16 a = none ∧ memGate 0 0 .r 16384 32 a = none ∧
    areaFenced a 16384 32 = none ∧
    (let h : Word128 := BitVec.ofNat 128 (devNat a 16384 16)
     recTag h = 0 ∧ recOk h = true ∧ bufLength h = 32 ∧ recSeq h = 0 ∧ recKind h = 1 ∧ recBag h = 0 ∧ recFirst h = true) := by
  decide +kernel

theorem witness_look_end :
    let a := fetched 0 0 [(false, 16384, 16)] (looking lookWork [(16384, 4)])
    memGate 0 0 .r 16384 16 a = none ∧ (let h : Word128 := BitVec.ofNat 128 (devNat a 16384 16)
     recTag h = 0 ∧ recOk h = true ∧ bufLength h = 16 ∧ recKind h = 4) := by
  decide +kernel

theorem witness_look_pass :
    let a := fetched 0 0 [(false, 16384, 16)] (looking lookWork [(16384, 1), (16386, 48), (16392, 7)])
    memGate 0 0 .r 16384 16 a = none ∧ (let h : Word128 := BitVec.ofNat 128 (devNat a 16384 16)
     recTag h = 7 ∧ recPassable h = true ∧ bufLength h = 32) := by
  decide +kernel

theorem witness_look_dedup :
    let w := { lookWork with ingest := { fromMemory := true, done := true } }
    let a := looking w []
    look? a 0 0 = some w ∧ (let dir := directoryOf [(0, (bagProbes w 0).1)]
      bagMapBytes 1 dir false ≤ w.mapBytes ∧ (∀ e ∈ dir, strayOwner a e.key = none)) := by
  decide +kernel

/-- A LOOKUP of one bag with one unique row, read into cluster 3. -/
def poolWork : LookupWork :=
  { bags := 1, elems := 1, toMemory := true, outAddr := 20480, stride := 16, deduped := true, ingest := { fromMemory := true, done := true }
    infos := [{ refs := 1, outOfRange := 0, truncated := false, empty := false }]
    dir := [{ key := mkKey 5 7, refs := [{ bag := 0, slot := 0, neg := false, weight := none }] }] }

/-- The device with that work and table 5 of rows with one element. -/
def pooling (w : LookupWork) : State :=
  { withTask lookTask with
    work := { tbl := { tables := [(5, {})] }, idx := { lookups := [(0, w)], units := [(0, [0])] } } }

theorem witness_pool_read :
    let s := pooling poolWork
    let key := mkKey 5 7
    look? s 0 0 = some poolWork ∧ pools s 0 0 poolWork = true ∧ dirFind key 0 poolWork.dir = some (0, poolWork.dir.headD { key := 0, refs := [] }) ∧
    rowOver poolWork key (poolWork.dir.headD { key := 0, refs := [] }) = false ∧ (∀ e ∈ s.work.chain.remotes, e.2.held = []) ∧
    homeBank s key none = none ∧ clusterAwake s 3 = true ∧ transitRoom s 3 (transitNeed none) = true ∧
    takeRead (tid 0 0) key none (some (0, 0)) s = (.got none [], s) ∧
    allocatesLine (touchRow key none true (t4Clear (.read (tid 0 0) key) s)) key none = false := by
  decide +kernel

theorem witness_pool_deposit :
    let w := { poolWork with rows := [(mkKey 5 7, { cluster := 3, data := none })], homes := [(0, 3)] }
    let s := pooling w
    dirFind (mkKey 5 7) 0 w.dir = some (0, { key := mkKey 5 7, refs := [{ bag := 0, slot := 0, neg := false, weight := none }] }) ∧
    tbl? s 5 = some {} ∧ engineHeld s (3 * 2048 + 9) = false ∧ runCluster s w { cluster := 3, data := none } (mkKey 5 7) 0 3 = true ∧ accumRoom s 3 (2 * frameBytes w) = true := by
  decide +kernel

theorem witness_pool_open :
    clusterAwake (pooling poolWork) 3 = true ∧ nextBag poolWork = 0 ∧
    accumRoom (pooling poolWork) 3 (frameBytes poolWork) = true := by
  decide +kernel

/-- The same with its run deposited: the frame stands in cluster 3. -/
def pooledWork : LookupWork :=
  { poolWork with homes := [(0, 3)], runs := [(mkKey 5 7, 0, 3)], frames := [(3, emptyBucket 0 1)] }

theorem witness_pool_merge :
    Tab.has pooledWork.frames 3 = true ∧ Tab.has pooledWork.homes 0 = true ∧ bagDeposited pooledWork 0 = true ∧
    (let w := { pooledWork with frames := [], parts := [(3, { emptyBucket 0 1 with terms := 1 })] }
     bagWhole w 0 = true ∧ Tab.has w.done 0 = false) := by
  decide +kernel

/-- A finished bag of 16 bytes. -/
def bagDone : BagOut := { body := List.replicate 16 0, ovf := false, bound := false, saturated := false, nonfinite := 0, firstNf := none }

theorem witness_pool_send :
    let w := { pooledWork with frames := [], done := [(0, bagDone)] }
    memGate 0 0 .w 20480 16 (fetched 0 0 [(true, 20480, 16)] (pooling w)) = none ∧ endKind (pooling w) 20480 ≠ .flash ∧ endKind (pooling w) 20480 ≠ .peer := by
  decide +kernel

theorem witness_pool_stream :
    let w := { pooledWork with frames := [], done := [(0, bagDone)], toMemory := false }
    let u : Ucie := { up := true, lanes := 16, helloOk := true, classes := 511, credits := [(32, 100)]
                      deliveries := [{ stream := 0, bytes := [], queue := 0, seq := 0, item := 0, lastSeq := some 5 }] }
    let s := { pooling w with links := { ucie := [(0, u)], host := { up := true, lanes := 16 } } }
    hasCredit s 0 7 0 (bagHeader w 0 bagDone ++ bagDone.body) = true ∧ (ackedDelivery (ucieOf s 0) 0).isSome = true := by
  decide +kernel

/-- A peer packet from device 1 to device 0 with the type, JOB and payload given, LAST set. -/
def pkt (type job : Nat) (payload : List Byte) : PeerPkt :=
  { port := 0, hdr := peerHeader type 1 0 job 0 0 0 (payload.length / 16) true none, payload := payload }

/-- A device with chain address 0 of two. -/
def chained (s : State) : State :=
  { s with links := { s.links with peers := [(0, { up := true, lanes := 16 })] }
           work := { s.work with chain := { s.work.chain with
             valid := true, size := 2, addr := 0
             links := [linkWord { a := 0, pa := 0, b := 1, pb := 0, width := 16, up := true }] } } }

theorem witness_pool_partial :
    let w := { poolWork with owners := [1], tag := 9 }
    let p := pkt 2 9 (List.replicate 64 0)
    let s := chained (pooling w)
    PeerTaken 2 p s p.payload ∧ lookByTag s (pktJob p) = some (tid 0 0, w) ∧ pktLast p = true := by
  unfold PeerTaken
  decide +kernel

theorem witness_pool_answer :
    let w := { poolWork with owners := [1], tag := 9 }
    let p := pkt 10 9 (ctlBytes .genRetired 0 0 0 0 [])
    CtlTaken .genRetired p (chained (pooling w)) p.payload ∧ lookTask.state.final = false := by
  unfold CtlTaken PeerTaken
  decide +kernel

theorem witness_shuffle : (1 : Nat) ≤ 5 ∧ (7 : Nat) < 2 ^ 32 ∧ (2 : Nat) ^ 63 < 2 ^ 64 ∧ shufflePi 5 1 2 7 0 < 5 := by decide +kernel

/-- A SORT of one key at 16,384 to 20,480. -/
def sortTask (st : TaskState) : Task :=
  { ttype := .sort, state := st, part := toBytes 64 (packFields [(0, 56, 16384), (64, 32, 1), (128, 56, 20480)]) }

/-- A SHUFFLE of the whole of [0, 3). -/
def shuffleTask (mode : Nat) (st : TaskState) : Task :=
  { ttype := .shuffle, state := st
    part := toBytes 128 (packFields [(0, 48, 2), (48, 2, mode), (320, 48, 3), (448, 56, 16384), (512, 56, 20480)]) }

theorem witness_sort :
    let s := fetched 0 0 [(false, 16384, 8), (true, 20480, 8)] (withTask (sortTask .active))
    let o := sortOutput false (arrayOf s 16384 8 1)
    tasksRun s = true ∧ task? s 0 0 = some (sortTask .active) ∧ Tab.has s.work.idx.sorts (tid 0 0) = false ∧
    memGate 0 0 .r 16384 8 s = none ∧ areaFenced s 16384 8 = none ∧ memGates 0 0 (sortAreas (sortTask .active) o.length) s = none ∧
    endKind s 20480 ≠ .flash ∧ endKind s 20480 ≠ .peer ∧ endKind s 0 ≠ .flash ∧ endKind s 0 ≠ .peer ∧
    admissible (withTask (sortTask .queued)) 0 0 = some (sortTask .queued) ∧ soReserved (sortTask .queued) = false := by
  decide +kernel

theorem witness_shuffle_task :
    let s := fetched 0 0 [(true, 20480, 24)] (withTask (shuffleTask 0 .active))
    let p := fetched 0 0 [(true, 20480, 24), (false, 16384, 8), (false, 16392, 8), (false, 16400, 8)] (withTask (shuffleTask 1 .active))
    memGate 0 0 .w 20480 24 s = none ∧ memGate 0 0 .w 20480 24 p = none ∧ shReserved (shuffleTask 0 .queued) = false ∧
    admissible (withTask (shuffleTask 1 .queued)) 0 0 = some (shuffleTask 1 .queued) ∧
    memGates 0 0 ([0, 1, 2].map fun i => (Right.r, 16384 + 8 * i, 8)) p = none ∧
    (∀ i ∈ [0, 1, 2], areaFenced p (16384 + 8 * i) 8 = none) := by
  decide +kernel

/-- A GATHER_SAMPLES of one position. -/
def gatherTask (st : TaskState) : Task :=
  { ttype := .gatherSamples, state := st
    part := toBytes 256 (packFields [(320, 48, 1), (512, 56, 20480), (1024, 56, 16384), (1081, 1, 1), (1216, 56, 24576),
      (1280, 32, 1048576)]) }

theorem witness_gather_admission :
    let s := withTask (gatherTask .queued)
    admissible s 0 0 = some (gatherTask .queued) ∧ gaReserved (gatherTask .queued) = false ∧
    gaReserved { gatherTask .queued with part := [] } = true := by
  decide +kernel

/-- The device that gathers, with the index entry of sample 0: 16 bytes at 28,672. -/
def gathering (g : GatherWork) : State :=
  { withTask (gatherTask .active) with
    mem := [(16385, 112), (16392, 16)]
    work := { idx := { gathers := [(0, g)], units := [(0, [0])] } } }

theorem witness_gather_window :
    let g : GatherWork := { count := 1, indexAddr := 16384, toMemory := true, outAddr := 20480, stageAddr := 24576, stageBytes := 1048576 }
    let s := fetched 0 0 [(false, 16384, 16), (false, 28672, 16), (true, 20480, 32)] (gathering g)
    gather? s 0 0 = some g ∧ unitsHeld s 0 0 ≠ [] ∧ memWf s = true ∧ windowEntries (gatherTask .active) g g.stageBytes 65536 0 s = none ∧
    windowFrom s g g.stageBytes 65536 0 = [{ position := 0, number := 0, addr := 28672, len := 16 }] ∧
    windowReads (gatherTask .active) g [{ position := 0, number := 0, addr := 28672, len := 16 }] s = none ∧
    (∀ k < 32, endKind s (20480 + k) = .stack) := by
  decide +kernel

theorem witness_gather_small :
    let g : GatherWork := { count := 1, indexAddr := 16384, stageBytes := 16 }
    let s := fetched 0 0 [(false, 16384, 16)] (gathering g)
    windowEntries (gatherTask .active) g g.stageBytes 65536 0 s = none ∧ windowFrom s g g.stageBytes 65536 0 = [] := by
  decide +kernel

/-- The device with module 0 up. -/
def withModule (u : Ucie) : State :=
  { dev with links := { ucie := [(0, u)], host := { up := true, lanes := 16 } }
             sys := { dev.sys with cfg := { valid := true, stackCount := 4, ucieModules := 3 } } }

/-- A flit of class 1 with number 0 and one byte, its check code computed outside. -/
def flit0 : BitVec 2048 := BitVec.ofNat 2048 (packFields [(0, 4, 1), (9, 1, 1), (10, 1, 1), (64, 8, 7), (2016, 32, 0x74CBE7F8)])

set_option maxRecDepth 20000 in
theorem witness_ucie :
    let s := withModule { up := true, lanes := 64 }
    s.sys.frozen = false ∧ s.sys.cfg.ucieModules.testBit 1 = true ∧ (ucieOf s 0).up = true ∧ (ucieOf s 0).lanes = 64 ∧
    (ucieOf s 0).waiting = [] ∧ (ucieOf s 0).deliveries = [] ∧ (ucieOf s 0).helloOk = false ∧ (ucieOf s 0).nakSent = false ∧
    bits helloMsg 0 4 = 7 ∧ bits helloMsg 16 8 = 1 ∧ bits (controlMsg 7 0 []) 16 8 ≠ 1 ∧ bits (creditMsg 7 3 5) 0 4 = 6 ∧
    2 ^ 24 < Tab.getD [(creditKey 7 3, 2 ^ 24)] (creditKey 7 3) 0 + bits (creditMsg 7 3 5) 32 32 ∧
    9 ≤ bits (controlMsg 15 0 []) 0 4 ∧ bits (controlMsg 8 0 []) 0 4 ∈ [3, 4, 5, 8] := by
  decide +kernel

set_option maxRecDepth 20000 in
theorem witness_ucie_flit : crc32c (toBytes 252 flit0.toNat) = bits flit0 2016 32 ∧ bits flit0 32 12 = 0 ∧ bits flit0 0 4 ≠ 0 := by
  decide +kernel

set_option maxRecDepth 20000 in
theorem witness_ucie_bad_flit : crc32c (toBytes 252 0) ≠ bits (0 : BitVec 2048) 2016 32 := by decide +kernel

/-- The device with module 0 carrying records and channel 0 as given. -/
def feeding (x : Channel) : State :=
  { withModule { up := true, lanes := 64, helloOk := true, classes := 511 } with
    tasks := [(0, lookTask)], work := { feeds := [(0, x)] } }

theorem witness_feed_control :
    let s := feeding {}
    let o := controlMsg 1 0 [(16, 22, 65536)]
    (ucieOf s 0).up = true ∧ bits o 0 4 = 1 ∧ bits o 16 22 = 65536 ∧ feedMsgBad 0 o = false ∧
    feedMsgBad 1 o = true ∧ bits (controlMsg 1 0 [(16, 22, 65537)]) 16 22 % 16 ≠ 0 ∧ (chan s 0).isOpen = false ∧
    (chan (feeding { isOpen := true }) 0).isOpen = true ∧ bits (controlMsg 2 0 []) 0 4 = 2 ∧ feedMsgBad 0 (controlMsg 2 0 []) = false := by
  decide +kernel

theorem witness_feed_record :
    let r : FeedRec := { channel := 0, hdr := 9, payload := List.replicate 16 0 }
    let s := feeding { isOpen := true, free := 16, uses := [(0, { owner := some 0 })] }
    bits r.hdr 0 4 = 9 ∧ carries s 0 6 = true ∧ bufLength r.hdr = 32 ∧ task? s 0 0 = some lookTask ∧ lookTask.state = .active ∧
    (Tab.getD (chan s 0).uses 0 {}).owner = some (tid 0 0) ∧ (Tab.getD (chan s 0).uses 0 {}).draining = false ∧
    (Tab.getD (chan (feeding { isOpen := true, uses := [(0, { draining := true })] }) 0).uses 0 {}).draining = true ∧
    bufLength r.hdr ≤ (chan (feeding { isOpen := true }) 0).free := by
  decide +kernel

/-- An operand set. -/
def ops (dst a b : Nat) : RowOp := { pred := 0, pneg := false, dst := dst, srcA := a, srcB := b, srcC := 0 }

/-- Core 0 runs a program whose pass A is the words given, on row 7 of table 5. -/
def running (r : RowRun) : State := { dev with work := { tbl := { tables := [(5, {})] }, upd := { runs := [(0, r)] } } }

/-- That run at its first instruction. -/
def runOf (ws : List Word32) : RowRun :=
  { grad := { key := mkKey 5 7, elems := [] }, prog := { secA := ws, secB := ws }, begun := true, p := [1, 255, 255, 255] }

theorem witness_row_program :
    let r := runOf [instrWord 1 (ops 3 1 2)]
    let s := running r
    Tab.get? s.work.upd.runs 0 = some r ∧ runTable s r = some {} ∧ engineHeld s 0 = false ∧ r.v.length = 128 ∧ r.s.length = 8 ∧
    r.p.length = 4 ∧ r.code[r.pc]? = some (instrWord 1 (ops 3 1 2)) := by
  decide +kernel

theorem witness_row_words : ∀ op < 64, (runOf [instrWord op (ops 17 1 2)]).code[0]? = some (instrWord op (ops 17 1 2)) := by
  decide +kernel

theorem witness_row_commit :
    let r := { runOf [] with sect := 3 }
    (rowOf (running r) (mkKey 5 7)).committing = false ∧ (rowOf (running r) (mkKey 5 7)).move = none := by
  decide +kernel

/-- A program image of one NOP in pass A at 12,288: the header's magic, version and one instruction. -/
def nopCells : List Host.Cell := [(12288, 0x50), (12289, 0x52), (12290, 0x4F), (12291, 0x47), (12292, 1), (12296, 1)]

/-- The device with that image. -/
def withImage : State := { dev with mem := nopCells }

/-- The program that it holds. -/
def nopProgram : Program := { secA := [0], consts := List.replicate 8 0 }

theorem witness_program_load :
    let m := call 0 (args [(64, 56, 12288)])
    let a := progArgs false m
    let s0 := mbxIn 0x24 m a withImage
    MbxOpen withImage ∧ zeroFields a (progUnused false) = true ∧ ctxOk s0 m 0 = true ∧ areaOk s0 0 12288 64 .r .any = true ∧
    imageLength (devRead s0 12288 64) = 68 ∧ areaOk s0 0 12288 68 .r .any = true ∧ areaFenced s0 12288 68 = none ∧
    slotForeign withImage 0 0 = false := by
  unfold MbxOpen
  decide +kernel

theorem witness_program_image :
    (match checkImage 0 (devRead withImage 12288 68) with
      | .ok p => decide (p = nopProgram)
      | .error _ => false) = true := by
  decide +kernel

theorem witness_program_bad :
    (match checkImage 0 (devRead { withImage with mem := nopCells ++ [(12352, 1)] } 12288 68) with
      | .ok _ => false
      | .error i => decide (i = 0)) = true := by
  decide +kernel

theorem witness_program_write :
    let a : State := { dev with work := { upd := { loading := [(2, [{ id := 1, program := some nopProgram }, { id := 2 }])], programs := [(3, { ctx := 1 })] } }
                                mbx := { busy := true, running := some { opcode := 0x24, wait := .programLoad 2 1 } } }
    slotForeign a 3 0 = true ∧ slotInUse a 2 = false ∧ progArgs true (call 0 0) = args [(3, 1, 1)] ∧
    zeroFields (args [(3, 1, 1)]) (progUnused true) = true := by
  decide +kernel

theorem witness_program_used :
    let w : UpdateWork := { programs := [(2, nopProgram)] }
    slotInUse { withTask { ttype := .scatter, state := .active } with work := { upd := { works := [(0, w)] } } } 2 = true := by
  decide +kernel

/-- The task of a SCATTER from memory on the map of SEQ 3 at 12,288, with gradients at 16,384. -/
def scatterTask (st : TaskState) : Task :=
  { ttype := .scatter, state := st
    part := toBytes 128 (packFields [(3, 1, 1), (32, 32, 3), (128, 56, 12288), (192, 56, 16384), (256, 32, 16)]) }

/-- The retained map, with its header in memory: one bag, one row, one reference. -/
def theMap : RetainedMap := { seq := 3, addr := 12288, bags := 1, retained := true }

/-- The device with the task and the map. -/
def scattering (t : Task) (u : Updates) : State :=
  { withTask t with
    mem := [(12288, 0x42), (12289, 0x41), (12290, 0x47), (12291, 0x4D), (12292, 1), (12296, 1), (12300, 1), (12304, 1), (12312, 3),
      (12374, 5), (12380, 1)]
    work := { upd := u, tbl := { tables := [(5, {})] } } }

theorem witness_scatter_admission :
    let x := scatterTask .queued
    let s := scattering x { maps := [theMap] }
    let h := devNat s 12288 64
    tasksRun s = true ∧ admissible s 0 0 = some x ∧ scReleaseOnly x = false ∧ scHeld s x = false ∧ scReserved x = false ∧
    findMap s 0 3 12288 = some theMap ∧ areaFenced s 12288 64 = none ∧ startLost s x theMap h = none ∧ mapCorrupt h theMap = false ∧
    (areaFenced { s with faults := { s.faults with fences := [(locDev 12288, 0)] } } 12288 64).isSome = true ∧ scStrideBad x 1 = false ∧ scAreaBad s x theMap h = none ∧
    shardedFault s x = false ∧ programFault s x = none ∧ memGate 0 0 .r 16384 16 (fetched 0 0 [(false, 16384, 16)] s) = none ∧
    findMap (scattering x {}) 0 3 12288 = none ∧ scReserved { x with part := toBytes 128 1024 } = true := by
  decide +kernel

theorem witness_scatter_release :
    let x := { scatterTask .queued with part := toBytes 128 (packFields [(2, 1, 1), (32, 32, 3), (128, 56, 12288)]) }
    scReleaseOnly x = true ∧ scReserved x = false ∧ sameMap 0 3 12288 { theMap with releasing := true } = true ∧
    mapBusy (scattering x { maps := [{ theMap with releasing := true }] }) 0 3 12288 = false ∧
    mapBusy (scattering (scatterTask .active) { works := [(0, { mapSeq := 3, mapAddr := 12288 })] }) 0 3 12288 = true := by
  decide +kernel

/-- The work of the task on its one row, key (5, 0). -/
def scWork0 : UpdateWork :=
  { fromMemory := true, mapSeq := 3, mapAddr := 12288, gradAddr := 16384, stride := 16, bags := 1, dir := [(mkKey 5 0, 0, 1)]
    refsAt := 12384, handles := [5], ingest := { fromMemory := true, done := true } }

theorem witness_scatter_deposit :
    let s := scattering (scatterTask .active) { works := [(0, scWork0)] }
    work? s 0 0 = some scWork0 ∧ look? s 0 0 = none ∧ entryFor scWork0 (mkKey 5 0) 0 = some 0 ∧ enginesRun s 3 = true ∧
    engineHeld s (3 * 2048) = false ∧ mapRef s scWork0 0 = { bag := 0, slot := 0, neg := false, weight := none } ∧
    bagHasGrad scWork0 0 = true ∧ gradLost s scWork0 0 = none ∧ refsLost s scWork0 0 1 = none ∧
    (openBucket s scWork0 0 0 3).isSome = true := by
  decide +kernel

theorem witness_scatter_finish :
    let w := { scWork0 with runs := [(0, 0)], homes := [(0, 3)], whole := [(0, emptyBucket 0 1)], slots := [(5, 0)], programs := [(0, nopProgram)] }
    let s := scattering (scatterTask .active) { works := [(0, w)] }
    runCount 1 ≤ (w.runs.filter fun r => decide (r.1 = 0)).length ∧ keyBound s w (mkKey 5 0) = true ∧
    (openEntry w (mkKey 5 0)).isSome = true ∧ (boundProgram w 5).isSome = true := by
  decide +kernel

theorem witness_scatter_program :
    let g : RowGrad := { key := mkKey 5 0, elems := [0] }
    let w := { scWork0 with ready := [g], programs := [(0, nopProgram)], slots := [(5, 0)] }
    let s := scattering (scatterTask .active) { works := [(0, w)] }
    rowRunning s g.key = false ∧ coreFor s g.key 9 = true ∧ takeRead (tid 0 0) g.key none (some (0, 0)) s = (.got none [], s) ∧
    readPlace s g.key none = none ∧ boundProgram w (keyHandle g.key) = some nopProgram := by
  decide +kernel

/-- A run on core 9 that commits. -/
def commitRun : RowRun := { grad := { key := mkKey 5 0, elems := [0] }, sect := 3, phase := .committing, image := List.replicate 16 0 }

/-- The device with that run, the row having a backing location in the tier given. -/
def committing (tier : Nat) (p : RunPhase) : State :=
  let s := scattering (scatterTask .active) { works := [(0, scWork0)], runs := [(9, { commitRun with phase := p })] }
  { s with work := { s.work with tbl := { s.work.tbl with
      rows := [(mkKey 5 0, { place := { tier := tier, addr := 32 }, backing := List.replicate 16 0, committing := true })] } } }

theorem witness_commit_done :
    let s := committing 1 .committing
    let u := runWay (mkKey 5 0) s
    (match commitRow (mkKey 5 0) commitRun.image true u with
      | .done s' => rowUp s' (mkKey 5 0) && (throughT4 (.commit 9) 5 u s').1
      | _ => false) = true := by
  decide +kernel

/-- The same table with a published generation and no delta pool. -/
def deltaLess : State :=
  let s := committing 1 .committing
  { s with work := { s.work with tbl := { s.work.tbl with tables := [(5, { highest := 1, gens := [(1, {})] })] } } }

theorem witness_commit_full :
    (match commitRow (mkKey 5 0) commitRun.image true (runWay (mkKey 5 0) deltaLess) with
      | .deltaFull => true
      | _ => false) = true ∧
    (match commitRow (mkKey 5 0) commitRun.image true (runWay (mkKey 5 0) (scattering (scatterTask .active) {})) with
      | .tableFull => true
      | _ => false) = true := by
  decide +kernel

theorem witness_clean :
    let c : T0Copy := { cluster := 0, core := 0, line := none, bytes := List.replicate 16 0, dirty := true, pinned := false, age := 0, shadow := some 256 }
    let r : Row := { place := { tier := 1, addr := 32 }, backing := List.replicate 16 1, t0 := some c }
    let d : Delta := { lo := 0, hi := 0, data := some (List.replicate 8192 0), shadow := some 256, since := 5 }
    let s0 := committing 1 .shadowWait
    let s := { s0 with work := { s0.work with tbl := { s0.work.tbl with
      cleaning := [256], rows := [(mkKey 5 0, r), (mkKey 5 1, { deltas := List.replicate 48 d })] } } }
    rowOf s (mkKey 5 0) = r ∧ rowUp s (mkKey 5 0) = true ∧ cleanTurn (cleanMarks s) (mkKey 5 0) = some (256, 0) ∧
    (s.work.upd.runs.all fun e => decide (e.2.phase = .shadowWait)) = true := by
  decide +kernel

theorem witness_commit_waits :
    coreHeld (committing 1 .committing) 9 = false ∧ (committing 1 .committing).work.tbl.maints = [] ∧
    Tab.get? (committing 1 (.deltaWait 0)).work.upd.runs 9 = some { commitRun with phase := .deltaWait 0 } ∧
    deltaFor {} (rowOf (committing 1 (.deltaWait 0)) (mkKey 5 0)) = none ∧
    (match commitRow (mkKey 5 0) commitRun.image true (committing 2 .t4Wait) with
      | .done s' => (rowOf s' (mkKey 5 0)).t0.isNone && decide (2 ≤ (rowOf s' (mkKey 5 0)).place.tier)
      | _ => false) = true := by
  decide +kernel

/-- Row (5, 0) is committed at stamp 1 under a generation 1 that is published, and has a delta pool. -/
def snapshotted : State :=
  let s := committing 1 .committing
  let d : BitVec 1024 := BitVec.ofNat 1024 (packFields [(256, 48, 2 ^ 48 - 1), (512, 32, 0xFFFFFFFF)])
  { s with work := { s.work with tbl := { s.work.tbl with tables := [(5, { highest := 1, gens := [(1, {})], desc := d })] } } }

theorem witness_snapshot :
    (match commitRow (mkKey 5 0) commitRun.image true snapshotted with
      | .done s' => decide ((rowOf s' (mkKey 5 0)).deltas.length = 1)
      | _ => false) = true ∧
    (match tbl? snapshotted 5 with
      | some t => decide (∀ d ∈ (rowOf snapshotted (mkKey 5 0)).deltas, d.hi < stampOf t (rowOf snapshotted (mkKey 5 0))) && Tab.has t.gens 1 &&
        decide ((rowOf snapshotted (mkKey 5 0)).stamp ≤ t.highest + 1)
      | none => false) = true := by
  decide +kernel

/-- Arguments of TABLE_CREATE: table 7, FP32, two elements, two ways, everything else zero. -/
def tableArgs : BitVec 2048 := args [(0, 16, 7), (32, 13, 1), (130, 4, 2)]

theorem witness_table_create :
    let m := call 0 tableArgs
    let d := tcDesc m
    MbxOpen dev ∧ bits d 0 16 = 7 ∧ ctxOk dev m (tdCtx d) = true ∧ tdReserved dev d = false ∧
    zeroFields (tcArgs false m) [(1025, 1023)] = true ∧ Tab.has dev.work.tbl.tables 7 = false ∧
    tdFault (mbxIn 0x20 m (tcArgs false m) dev) d = none ∧
    (newPartition 7 d (mbxIn 0x20 m (tcArgs false m) dev)).isSome = true ∧
    tdFault (mbxIn 0x20 m (tcArgs false m) dev) (BitVec.ofNat 1024 (packFields [(24, 4, 8)])) = some .badFormat := by
  unfold MbxOpen
  decide +kernel

/-- The device with table 7. -/
def tabled (tb : Table) : State := { dev with work := { tbl := { tables := [(7, tb)] } } }

/-- The device with every cluster retired. -/
def noClusters : State := { dev with faults := { dev.faults with retiredClusters := List.range 512 } }

/-- A scratchpad table that pins one row. -/
def pinDesc : BitVec 1024 := BitVec.ofNat 1024 (packFields [(0, 16, 7), (128, 2, 1), (192, 48, 1)])

theorem no_clusters (s : State) (h : s.faults.retiredClusters = List.range 512) : serviceClusters s = [] := by
  unfold serviceClusters
  rw [h]
  simp

theorem no_seats (d : BitVec 1024) (s : State) (m : tdMode d = 1) (n : pinnedRows d = 1) (h : serviceClusters s = [])
    (r : s.work.tbl.rows = []) : newPartition 7 d s = none := by
  have p : partOf s 7 d 1 {} = none := by
    unfold partOf makeSeats
    rw [h, if_pos ⟨rfl, Nat.one_pos⟩]
    rfl
  unfold newPartition reserveRows
  rw [m, n, r]
  simp only [p, List.foldl_nil, Option.map_none]

theorem witness_table_full : newPartition 7 pinDesc noClusters = none :=
  no_seats pinDesc noClusters (by decide +kernel) (by decide +kernel) (no_clusters noClusters (by simp only [noClusters])) (by rfl)

theorem witness_table_modify :
    let m := call 0 tableArgs
    let d := tcDesc m
    let tb : Table := { desc := setField d 192 48 5 }
    liveTbl (tabled tb) (tdCtx d) 7 = some tb ∧ zeroFields (tcArgs true m) [(1025, 1023)] = true ∧ tdFixed d = tdFixed tb.desc ∧
    tdFixed d ≠ tdFixed 0 ∧ tdFault (mbxIn 0x20 m (tcArgs true m) (tabled tb)) d = none ∧ tdMode d ≠ 1 ∧
    (∀ k ∈ [1, 2, 3, 4], tierRows (tabled tb) 7 k ≤ tdLimit d k) ∧ t0Rows (tabled tb) 7 ≤ tdLimit d 0 := by
  decide +kernel

theorem witness_table_load :
    let m := call 0 (args [(0, 16, 7), (64, 56, 4096), (128, 64, 16)])
    let a := loadArgs false m
    let b := loadArgs true m
    let s := tabled {}
    loadFault (mbxIn 0x21 m a s) m a = none ∧ loadFault (mbxIn 0x21 m b s) m b = none ∧ tbl? s 7 = some {} ∧ tableDevices s 7 = [] ∧
    (readImage (mbxIn 0x21 m a s) 0 4096 16).bad = some 0 ∧ (readImage (mbxIn 0x21 m a s) 0 4096 0).bad = none ∧
    (readImage (mbxIn 0x21 m a s) 0 4096 32).rows.length = 1 ∧
    (match mergeRows 1 7 {} (readImage (mbxIn 0x21 m a s) 0 4096 32).rows 0 s with
      | (_, n, st, left) => decide (n = 0) && decide (st = .tableFull) && left.isEmpty) = true := by
  decide +kernel

theorem witness_table_delete :
    let m := call 0 (args [(0, 16, 7)])
    let a := retArgs true m
    zeroFields a [(24, 1), (26, 2022)] = true ∧ ctxOk (tabled {}) m (bits a 16 8) = true ∧ bits a 0 16 = 7 ∧
    liveTbl (tabled {}) 0 7 = some {} ∧ liveTbl dev 0 7 = none := by
  decide +kernel

theorem witness_table_replace :
    let r : Replace := { id := 1, imageAddr := 4096, imageBytes := 0, ctx := 0 }
    let s := tabled { replaces := [r] }
    workingBusy s 7 = false ∧ scatterBusy s 7 = false ∧ NoneHeld s ∧
    (replaceTable 7 { replaces := [r] } { r with started := true } s).2.1 = .ok ∧
    (throughT4 (replaceWho 7) 7 s (replaceTable 7 { replaces := [r] } { r with started := true } s).1).1 = true ∧
    (replaceTable 7 { replaces := [r] } { r with started := true, imageBytes := 16 } s).2.1 = .badLoadEntry ∧
    tableBusy (tabled { deleting := true }) 7 = false ∧ tableBusy s 7 = true ∧ (ctxD s 0).destroying = false ∧
    workingBusy { s with tasks := [(0, { state := .active, bound := [(7, none)] })] } 7 = true := by
  unfold NoneHeld
  decide +kernel

theorem witness_merge_wait :
    let d : BitVec 1024 := setField 0 256 48 5
    let tb : Table := { desc := d, gens := [(1, {})], highest := 1 }
    let s0 := tabled tb
    let s : State := { s0 with work := { s0.work with tbl := { s0.work.tbl with
      rows := [(mkKey 7 0, { place := { tier := 1 }, stamp := 1, backing := zeroBytes 4 })] } } }
    let x : MergeLoad := { id := 3, handle := 7, left := [(0, zeroBytes 4)] }
    let run : Running := { opcode := 0x21, wait := .tableLoad 3 }
    let w : State := { s with mbx := { s.mbx with running := some run }, work := { s.work with tbl := { s.work.tbl with merges := [x] } } }
    t4Waiting w (.load 3) = false ∧
    (match mergeRows 3 7 tb [(0, zeroBytes 4)] 0 s with
      | (_, n, st, left) => decide (n = 0) && decide (st = .deltaPoolFull) && decide (left.length = 1)) = true ∧
    (w.work.tbl.merges.find? fun y => decide (y.id = 3)) = some x ∧ w.mbx.running = some run ∧
    (let tb' : Table := { tb with gens := [] }
     match mergeRows 3 7 tb' x.left 0 { w with work := { w.work with tbl := { w.work.tbl with tables := [(7, tb')] } } } with
      | (s1, n, st, _) => decide (n = 1) && decide (st = .ok) && decide (s1.mbx.running = some run)) = true := by
  decide +kernel

/-- The block of a publish of table 7 alone. -/
def pubBits (cutNow : Nat) : Nat := packFields [(0, 1, cutNow), (8, 7, 1), (64, 16, 7)]

theorem witness_publish :
    let m := call 0 (BitVec.ofNat 2048 (pubBits 0))
    let a0 := setField m.args 0 1 0
    MbxOpen (tabled {}) ∧ pubReserved (bits a0 0 1152) = false ∧ zeroFields a0 [(1152, 896)] = true ∧ ctxOk (tabled {}) m 0 = true ∧
    pubTables (bits a0 0 1152) = [7] ∧ pubFault (tabled {}) 0 [7] = none ∧ pubFault dev 0 [7] = some (.noTable, some 7) ∧
    tableDevices (tabled {}) 7 = [] ∧ replacing (tabled {}) 7 = false ∧ NoneHeld (tabled {}) := by
  unfold MbxOpen NoneHeld
  decide +kernel

/-- A publish of table 7 that waits. -/
def pub7 : Publish := { id := 1, ctx := 0, tables := [7], cutNow := false, task := none }

/-- The device with table 7 and that publish. -/
def publishing (tb : Table) (p : Publish) : State :=
  { withTask { ttype := .publish, state := .active } with
    work := { tbl := { tables := [(7, tb)], publishes := [p] } }
    mbx := { busy := true, running := some { opcode := 0x22, wait := .publish 1 } } }

theorem witness_publish_cut :
    let s := publishing {} pub7
    (s.work.tbl.publishes.find? fun x => decide (x.id = 1)) = some pub7 ∧ cutReady s pub7 = true ∧
    cutReady (publishing { replaces := [{ id := 2, imageAddr := 0, imageBytes := 0, ctx := 0, started := true }] } pub7) pub7 = false ∧
    cutReady (publishing { replaces := [{ id := 2, imageAddr := 0, imageBytes := 0, ctx := 0 }] } pub7) pub7 = true ∧
    NoneHeld s ∧ pub7.tables.Nodup ∧ (task? s 0 0).isSome = true := by
  unfold NoneHeld
  decide +kernel

theorem witness_publish_task :
    let x : Task := { ttype := .publish, part := toBytes 144 (pubBits 0) }
    let s : State := { withTask x with work := { tbl := { tables := [(7, {})] } } }
    tasksRun s = true ∧ admissible s 0 0 = some x ∧ pubReserved (ofBytes x.part) = false ∧ bitsOf (ofBytes x.part) 16 8 = 0 ∧
    pubFault s 0 (pubTables (ofBytes x.part)) = none ∧ bitsOf (ofBytes x.part) 0 1 = 0 ∧ pubReserved 2 = true := by
  decide +kernel

theorem witness_retire :
    let m := call 0 (args [(0, 16, 7), (192, 48, 1)])
    let a := retArgs false m
    let tb : Table := { highest := 1, gens := [(1, {})] }
    let read : State := { tabled tb with tasks := [(0, { state := .active, bound := [(7, some 1)] })] }
    zeroFields a [(24, 1), (26, 166), (240, 1808)] = true ∧ bits a 192 48 = 1 ∧ liveTbl (tabled tb) 0 7 = some tb ∧
    retireFault tb 1 = none ∧ retireFault tb 2 = some .generationUnknown ∧ readers (tabled tb) 7 1 = 0 ∧ readers read 7 1 ≠ 0 ∧
    Tab.get? [(1, ({ released := true } : Gen))] 1 = some { released := true } := by
  decide +kernel

theorem witness_relay :
    let s := chained (tabled {})
    let r : Relay := { id := 3, handle := 7, waiting := [1], localDone := true, job := .relay 3 }
    let t := { s with work := { s.work with chain := { s.work.chain with relays := [r] } } }
    let p := pkt 10 4095 (ctlBytes .relay 5 7 3 0 [])
    let u := pkt 10 4095 (ctlBytes .relayReport 3 0 3 0 [])
    CtlTaken .relay p s p.payload ∧ liveTbl s (pktCtx p) 7 = some {} ∧ CtlTaken .relayReport u t u.payload ∧
    bitsOf (ctlHead u.payload) 32 32 = 3 ∧ r.waiting = [pktSrc u] := by
  unfold CtlTaken PeerTaken
  decide +kernel

/-- The device with a table whose row 0 is the row given. -/
def withRow (tb : Table) (r : Row) : State :=
  { tabled tb with work := { (tabled tb).work with tbl := { (tabled tb).work.tbl with rows := [(mkKey 7 0, r)] } } }

/-- A T0 copy of cluster 0. -/
def copyT0 (dirty pinned : Bool) : T0Copy :=
  { cluster := 0, core := 0, line := some (0, 0), bytes := [3], dirty := dirty, pinned := pinned, age := 0, shadow := none }

theorem witness_orchard :
    let m := call 0 (args [(16, 16, 7), (64, 48, 0), (128, 48, 1)])
    let c := copyT0 true false
    let tb : Table := { desc := setField (setField 0 192 48 4) 130 4 2 }
    let s := withRow tb { place := { tier := 1 }, t0 := some c }
    MbxOpen s ∧ (∀ op ∈ [1, 2, 3], orchReserved (orchArgs op m) op = false ∧ orchFault (orchArgs op m) op tb = none ∧
      ((tableRows s 7).filter (orchSelects (orchArgs op m))).map Prod.fst = [mkKey 7 0]) ∧
    ctxOk s m 0 = true ∧ liveTbl s 0 7 = some tb ∧ liveTbl s 0 8 = none ∧ rowUp s (mkKey 7 0) = true ∧
    (rowOf s (mkKey 7 0)).committing = false ∧ (rowOf s (mkKey 7 0)).migrating = false ∧ (rowOf s (mkKey 7 0)).leaving = false ∧
    rowUp (withRow tb { place := { tier := 2, addr := 2 ^ 40 }, t0 := some c }) (mkKey 7 0) = false ∧
    orchReserved (orchArgs 3 (call 0 (args [(6, 2, 1)]))) 3 = true ∧
    orchFault (orchArgs 1 (call 0 (args [(64, 48, 9)]))) 1 tb = some .badRange := by
  unfold MbxOpen
  decide +kernel

theorem witness_orchard_waits :
    let tb : Table := { desc := BitVec.ofNat 1024 (packFields [(64, 3, 1), (130, 4, 2), (192, 48, 4), (256, 48, 4)]) }
    let s0 := withRow tb { place := { tier := 4, addr := 0, page := some 0 }, t0 := some (copyT0 true false) }
    let s := { s0 with work := { s0.work with tbl := { s0.work.tbl with cold := [(mkKey 7 0, { tier := 4, base := 0 })], t4 := { s0.work.tbl.t4 with attached := true } } } }
    let k := mkKey 7 0
    let s1 := withRow tb { place := { tier := 2, addr := 2 ^ 40 }, t0 := some (copyT0 false false) }
    let s2 := { s1 with work := { s1.work with tbl := { s1.work.tbl with loads := [(shardOf k, 8)] } } }
    (offerPlace s2 k).isSome = true ∧ (rowOf s2 k).move = none ∧
    rowUp s k = true ∧ t4Writes s (cleanRow k s) 7 ≠ [] ∧ t4Wrote s (.clean k) (t4Writes s (cleanRow k s) 7) = false := by
  decide +kernel

theorem witness_ways :
    let m := call 0 (args [(4, 2, 2), (16, 16, 7), (32, 5, 1)])
    let tb : Table := { desc := setField 0 130 4 2 }
    orchReserved (orchArgs 4 m) 4 = false ∧ orchFault (orchArgs 4 m) 4 tb = none := by
  decide +kernel

theorem witness_code_table :
    let m := call 0 (args [(6, 1, 1), (64, 56, 12288)])
    let c : Ctx := { codeSlots := [(0, { state := .active })] }
    let rel := call 0 (args [(0, 2, 1)])
    zeroFields (ctArgs 0 m) (ctUnused 0) = true ∧ ctxOk dev m 0 = true ∧ areaOk (mbxIn 0x26 m m.args dev) 0 12288 160 .r .any = true ∧
    areaFenced dev 12288 160 = none ∧ codeImageOk (devRead dev 12288 160) = false ∧ codeRefs dev 0 0 = 0 ∧
    (codeSlot dev 0 0).state ≠ .active ∧ (codeSlot { dev with ctxs := [(0, c)] } 0 0).state = .active ∧
    zeroFields (ctArgs 0 (call 0 4)) (ctUnused 0) = false ∧
    zeroFields (ctArgs 1 rel) (ctUnused 1) = true ∧ zeroFields (ctArgs 1 (call 0 4)) (ctUnused 1) = false ∧
    coldCompress { dev with ctxs := [(0, c)] } = coldCompress dev := by
  decide +kernel

theorem witness_code_pages :
    let pg : ColdPage := { coded := some (1, 1) }
    let s := { tabled {} with work := { (tabled {}).work with tbl := { (tabled {}).work.tbl with cold := [(mkKey 7 0, pg)] } } }
    codedPages s 0 1 = [mkKey 7 0] ∧ codedPages dev 0 1 = [] ∧ codeRefs s 0 1 ≠ 0 := by
  decide +kernel

theorem witness_shard_map :
    let m := call 0 (args [(8, 8, 0), (16, 16, 5), (32, 13, 1), (48, 16, 3), (64, 56, 12288)])
    let s := chained dev
    let s0 := mbxIn 0x27 m m.args s
    let es := smEntries s0 12288 1
    let map : ShardMap := { ctx := 0, mayMove := false, eligible := 3, entries := es.map fun e => (bitsOf e 0 48, bitsOf e 48 4) }
    let full := { s with work := { s.work with chain := { s.work.chain with maps := List.replicate 1024 (9, {}) } } }
    zeroFields m.args smUnused = true ∧ ctxOk s m 0 = true ∧ areaOk s0 0 12288 8 .r .any = true ∧ areaFenced s0 12288 8 = none ∧
    smEntriesOk es = true ∧ mapDevices map = [0, 1] ∧ mapNamed s 5 = false ∧ mapsFull s 5 = false ∧ reachable s 1 = true ∧
    smEntriesOk [2 ^ 60] = false ∧ reachable dev 1 = false ∧ mapDevices { map with eligible := 1 } = [0] ∧ mapsFull full 5 = true ∧
    mapDevices { map with eligible := 0, users := 4 } = [0, 2] ∧ ¬ 2 < s.work.chain.size := by
  decide +kernel

theorem witness_map_update :
    let s0 := chained dev
    let m : ShardMap := { version := 1, entries := [(0, 1)] }
    let p (op : MapOp) := pkt 8 4095 (mapBytes 5 op m)
    let q := pkt 10 4095 (ctlBytes .mapInstalled 0 5 0 0 [])
    let s := { s0 with work := { s0.work with chain := { s0.work.chain with
      installing := [(5, { map := m, left := [1] })], mapsAgreed := [(5, m)] } } }
    (∀ op ∈ [MapOp.newer, .ask, .install, .forget],
      PeerTaken 8 (p op) s (p op).payload ∧ bitsOf (ofBytes ((p op).payload.take 16)) 16 2 = op.code) ∧
    mapOfBytes 0 (p .newer).payload = m ∧ installAnswer s 5 0 = 0 ∧ CtlTaken .mapInstalled q s q.payload ∧
    bitsOf (ctlHead q.payload) 16 16 = 5 ∧ bitsOf (ctlHead q.payload) 8 8 = 0 ∧ pktSrc q = 1 ∧ worseAnswer 0 2 = 2 := by
  unfold CtlTaken PeerTaken
  decide +kernel

/-- Arguments of T4_ATTACH: rings of 64 entries, vector 4, page 9, one buffer, 16 pages, 5 ms. -/
def t4Args (cap : Nat) : BitVec 2048 :=
  args [(0, 4, 6), (16, 10, 4), (26, 10, 9), (64, 56, 2 ^ 52), (128, 56, 2 ^ 52 + 4096), (192, 56, 2 ^ 52 + 8192), (256, 16, 1),
    (288, 48, cap), (352, 14, 5)]

/-- The device with a pinned HOST range and an attachment. -/
def agented (t : T4) : State :=
  { dev with ranges := [(2 ^ 52, { kind := .host, r := true, w := true, a := true, len := 65536, pinned := true })]
             work := { tbl := { t4 := t } } }

theorem witness_t4_attach :
    let m := call 0 (t4Args 16)
    MbxOpen (agented {}) ∧ t4Reserved m.args = false ∧ t4AreasOk (agented {}) 0 m.args = true ∧ t4AreasOk dev 0 m.args = false ∧
    Tab.has dev.queues 9 = false ∧ Tab.has dev.queues 0 = true ∧ t4Reserved 1 = true ∧ t4Used (agented {}) = 0 ∧
    (∀ e ∈ (agented {}).ranges, e.2.kind ≠ .flash) ∧ t4Reserved (t4Args 0) = false ∧
    t4Used (withRow { desc := 1 } { place := { tier := 4, page := some 0 } }) = 0 := by
  unfold MbxOpen
  decide +kernel

theorem witness_t4_rows :
    let r : Row := { place := { tier := 4, page := some 0 } }
    let k := mkKey 7 0
    let s := withRow { desc := 1 } r
    let s1 := withRow { desc := 1 } { r with move := some { dest := .place { tier := 1 } } }
    (rowOf s1 k).move.isSome = true ∧ (rowOf s1 k).target = some { tier := 1 } ∧ (tbl? s (keyHandle k)).isSome = true ∧
    moveReady s k = false ∧ (rowOf s k).place.tier = 4 := by
  decide +kernel

/-- The device with an outstanding request for the page in which row 0 of table 7 lies. -/
def requested (who : T4Who) (e : Nat) (data : List Byte) : State :=
  let s0 := agented { attached := true, cplAddr := 2 ^ 52 + 4096, bounce := 2 ^ 52 + 8192, outstanding := [(0, who, 0, 0, data)] }
  let k := mkKey 7 0
  { s0 with tasks := [(0, { state := .active })], hostMem := cellApply 0 [] [(4100, e)]
            work := { s0.work with
              tbl := { s0.work.tbl with tables := [(7, {})], cold := [(k, { tier := 4 })]
                                        rows := [(k, { place := { tier := 4, page := some 0 } })] }
              upd := { runs := [(9, { commitRun with phase := .t4Wait })] } } }

theorem witness_t4_doorbell :
    let k := mkKey 7 0
    let s := requested (.read (tid 0 0) k) 0 []
    let e (s : State) := devNat s (2 ^ 52 + 4096) 16
    hostUp s = true ∧ (1 - (t4Of s).taken).toNat = 1 ∧ bitsOf (e s) 0 32 = 0 ∧ bitsOf (e s) 32 8 = 0 ∧
    bitsOf (e (hostWrote [(4100, 1)] s)) 32 8 = 1 ∧ bitsOf (e (hostWrote [(4100, 9)] s)) 32 8 = 9 ∧
    NoneHeld s ∧ isActive s 0 0 = true ∧ pageInT4 s 0 = some (k, { tier := 4 }) ∧
    (openBlock s 7 0 { tier := 4 } (devRead s (2 ^ 52 + 8192) 4096)).isSome = true ∧
    keyIndex k ∈ (rowOf s k).place.pages (placedOf s k) ∧ s.work.tbl.maints = [] := by
  unfold NoneHeld
  decide +kernel

theorem witness_t4_commit :
    let s := requested (.commit 9) 0 [1]
    (Tab.del (t4Of s).outstanding 0).any (fun x => decide (x.2.1 = .commit 9)) = false ∧ s.work.tbl.pending = [] ∧
    s.faults.retiring = [] ∧ (t4Of s).waiting = [] ∧ (task? s commitRun.queue commitRun.seq).isSome = true := by
  decide +kernel

/-- The device with table 7 and one row of it. -/
def moving (r : Row) : State :=
  let s := chained (tabled { desc := packFields [(130, 4, 2), (192, 48, 100)], part := { nsets := 2 } })
  { s with work := { s.work with tbl := { s.work.tbl with rows := [(mkKey 7 0, r)], loads := [(mkKey 7 0, 9)] } } }

/-- A row in T1 with a move. -/
def movedRow (m : RowMove) : Row := { place := { tier := 1 }, backing := [1], move := some m }

theorem witness_moves :
    let d : RowMove := { dest := .place { tier := 1, addr := 64 } }
    let s := moving (movedRow d)
    let key := mkKey 7 0
    let clean : T0Copy := { cluster := 0, core := 0, line := none, bytes := [], dirty := false, pinned := false, age := 0, shadow := none }
    let dirty : T0Copy := { clean with dirty := true, shadow := some 259 }
    rowOf s key = movedRow d ∧ destUp s key d.dest = true ∧ (copyStep key d.dest s).1 = true ∧ destUp s key (.device 5) = false ∧
    (copyStep key (.device 1) (moving { movedRow d with place := { tier := 4, page := some 0 } })).1 = false ∧
    switchRoom s key 3 none clean = true ∧ switchRoom s key 3 none dirty = true ∧ s.work.tbl.maints = [] ∧ s.work.tbl.pending = [] ∧
    s.faults.retiring = [] ∧ s.work.tbl.swaps = [] ∧ releasing s = [] ∧ destUp s key (.device 1) = true ∧
    t4Writes s (switchPlace key d { tier := 1, addr := 64 } s) 7 = [] ∧
    ownerReduce s 0 = false ∧ shardMoved s key 1 = true := by
  decide +kernel

/-- The device with a sharded table and two rows of one range. -/
def sharing (r : Row) : State :=
  let s := chained (tabled { desc := BitVec.ofNat 1024 (packFields [(135, 1, 1)]) })
  { s with work := { s.work with
      tbl := { s.work.tbl with rows := [(mkKey 7 0, r), (mkKey 7 1, { chain := 2, place := { tier := 5 } })] }
      chain := { s.work.chain with maps := [(0, { mayMove := true, eligible := 3, entries := [(0, 0)] })] } } }

theorem witness_shards :
    let s := sharing { place := { tier := 1 } }
    let t := sharing { chain := 2, place := { tier := 5 } }
    shardMoved s (mkKey 7 0) 1 = false ∧ shardMoved t (mkKey 7 0) 1 = true ∧
    (tbl? s 7).map (fun tb => tdShardMap tb.desc) = some 0 ∧ (Tab.get? s.work.chain.maps 0).isSome = true := by
  decide +kernel

theorem witness_resize :
    let s := moving {}
    let tb : Table := { desc := packFields [(130, 4, 2), (192, 48, 100)], part := { nsets := 2 } }
    let f := footprint (shapeOf tb.desc)
    (s.work.tbl.tables.filter fun e => decide (tdMode e.2.desc = 0)) = [(7, tb)] ∧ tableLoad s 7 = 9 ∧
    2 * (2 * 2 * f) < cacheSpace s ∧ belowLimit (4 * 2 - 1) (tdLimit tb.desc 0) = true ∧
    (partOf s 7 tb.desc 4 tb.part).isSome = true ∧
    2 * cacheSpace s < 2 ^ 40 * 2 * f := by
  decide +kernel

theorem witness_no_part (s : State) (h : serviceClusters s = []) (d : BitVec 1024) (p : Partition) : partOf s 7 d 4 p = none := by
  unfold partOf makeSeats
  rw [h, if_pos ⟨rfl, by decide⟩]
  rfl

theorem witness_move_packet :
    let s := moving (movedRow { dest := .device 1 })
    let p := pkt 7 4095 (toBytes 32 (mkKey 7 0))
    let q := pkt 10 4095 (ctlBytes .loadReport 0 0 0 77 [])
    PeerTaken 7 p s p.payload ∧ bitsOf (ofBytes (p.payload.take 16)) 0 64 = mkKey 7 0 ∧ keyHandle (mkKey 7 0) = 7 ∧
    (rowOf s (mkKey 7 0)).written = true ∧ (rowOf s (mkKey 7 1)).written = false ∧ CtlTaken .loadReport q s q.payload := by
  unfold CtlTaken PeerTaken
  decide +kernel

/-- Arguments of RANGE_MAP: the kind, rights R and W, DEV_BASE and LENGTH given. -/
def mapArgs (kind base len : Nat) : BitVec 2048 := args [(4, 3, kind), (16, 2, 3), (64, 56, base), (128, 48, len)]

theorem witness_range_map :
    let m := call 0 (mapArgs 2 (2 ^ 52) 8192)
    let a := rmArgs 1 m
    MbxOpen dev ∧ RangeKind.ofCode (bits a 4 3) = some .host ∧ mapReserved a .host = false ∧ ctxOk dev m (rmCtx a) = true ∧
    inRegion dev .host (rmBase a) (rmLen a) = true ∧ (∀ e ∈ dev.ranges, meets e.1 e.2.len (rmBase a) (rmLen a) = false) ∧
    inRegion dev .host 4096 4096 = false ∧ RangeKind.ofCode 7 = none ∧ mapReserved (mapArgs 2 0 0) .host = true ∧
    (∃ e ∈ dev.ranges, meets e.1 e.2.len 8192 4096 = true) := by
  unfold MbxOpen
  decide +kernel

theorem witness_range_stack :
    let m := call 0 (mapArgs 0 (2 ^ 20) 8192)
    let a := rmArgs 1 m
    let g : Range := { kind := .stack, r := true, w := true, len := 8192 }
    let x : Pending := { job := .placing 0, kind := .map (2 ^ 20) g }
    let s1 := updTables (fun w => { w with pending := w.pending ++ [x], nextPublish := 1 }) dev
    let row : Row := { place := { tier := 1, addr := 2 ^ 20 }, fenced := true }
    RangeKind.ofCode (bits a 4 3) = some .stack ∧ mapReserved a .stack = false ∧ inRegion dev .stack (2 ^ 20) 8192 = true ∧
    reachesSlice dev (2 ^ 20) 8192 = false ∧ (∀ e ∈ rangesHeld dev, meets e.1 e.2 (2 ^ 20) 8192 = false) ∧
    memWf dev = true ∧ allPages dev = [] ∧ poolUsed s1 1 ≤ poolBytes s1 1 ∧
    moveReady (withRow {} row) (mkKey 7 0) = false ∧ placeMeets (withRow {} row) (mkKey 7 0) 1 (2 ^ 20) 8192 row.place = true ∧
    reachesSlice { dev with faults := { dev.faults with retiring := [3] } } (2 ^ 30 - 8192) 8192 = true ∧
    (t4Of dev).attached = false ∧ fitTier (agented { attached := true, capacity := 16 }) 4 4096 4096 = some 0 ∧
    poolRoom (agented { attached := true, capacity := 16 }) 4 4096 = true := by
  decide +kernel

theorem witness_range_other :
    let u := call 0 (args [(64, 56, 4096)])
    let g : Range := { r := true, w := true, a := true, len := 65536 }
    namedRange dev 0 4096 = some g ∧ namedRange dev 0 8192 = none ∧ ctxOk dev u 0 = true ∧
    zeroFields (rmArgs 2 u) (rmReserved ++ unmapUnused ++ [(16, 3)]) = true ∧ rmBase (rmArgs 2 u) = 4096 ∧
    zeroFields (rmArgs 3 u) (rmReserved ++ unmapUnused) = true ∧ rmRights (rmArgs 3 u) = false ∧ rmBase (rmArgs 2 (call 0 0)) = 0 ∧
    zeroFields (rmArgs 2 (call 0 (2 ^ 400))) rmReserved = false := by
  decide +kernel

/-- The device with a MIGRATABLE range of the host, and page 1 of it on the device where told. -/
def migratable (pages : Tab Nat) : State :=
  { dev with ranges := [(4096, { r := true, w := true, a := true, len := 65536 }),
      (2 ^ 52, { kind := .host, r := true, w := true, migratable := true, len := 65536, devicePages := pages })] }

theorem witness_migrate :
    let e : OutFault :=
      { space := 2 ^ 52, migrate := true, hostPage := 2, devAddr := 2 ^ 52, accR := true, accW := false, waiters := [5], firstTask := (0, 0)
        firstStream := 0, ctx := 0, recorded := true, requested := false, further := false }
    let s0 := migratable []
    let tr : Transfer := { queue := 0, seq := 0, src := 2 ^ 52, dst := 4096, len := 16, since := 0 }
    let s := { s0 with
      ats := { s0.ats with outFaults := [(3, e)] }, streams := { s0.streams with transfers := [(5, tr)] }
      tasks := [(0, { state := .active })] }
    let i := call 0 (args [(16, 16, 3)])
    let o := call 0 (args [(64, 56, 2 ^ 52), (128, 48, 8192)])
    migrateEntry s 3 = some e ∧ migrateEntry s 4 = none ∧ (freePage s).isSome = true ∧ (Tab.get? s.ranges e.space).isSome = true ∧
    zeroFields (prArgs 1 i) (prReserved ++ [(32, 8), (64, 56), (128, 48)]) = true ∧
    zeroFields (prArgs 3 o) (prReserved ++ [(16, 16)]) = true ∧ ctxOk s o 0 = true ∧
    (∃ g, ctxRange (migratable [(1, 2 ^ 20)]) 0 (2 ^ 52) 8192 = some (2 ^ 52, g) ∧ g.migratable = true) ∧
    (∃ g, ctxRange s 0 4096 4096 = some (4096, g) ∧ g.migratable = false) ∧ ctxRange s 0 0 4096 = none ∧
    areaQuiet s (2 ^ 52) 8192 = true ∧
    areaQuiet { s with streams := { s.streams with transfers := [(5, { tr with issued := true })] } } (2 ^ 52) 8192 = false ∧
    freePage { dev with stackTab := [] } = none ∧ zeroFields (prArgs 1 (call 0 16)) prReserved = false ∧ transfer? s 5 = some tr := by
  refine ⟨?_, ?_, ?_, ?_, ?_, ?_, ?_, ⟨_, rfl, rfl⟩, ⟨_, rfl, rfl⟩, ?_, ?_, ?_, ?_, ?_, ?_⟩ <;> decide +kernel

theorem witness_unmap_drain :
    let g : Range := { r := true, len := 65536, unmapping := true }
    let s := { dev with ranges := [(4096, g)] }
    let x : Pending := { job := .unmap 4096, kind := .unpool 4096 }
    let s1 := updTables (fun w => { w with pending := w.pending ++ [x] }) s
    rangeRefs s 4096 = 0 ∧ areaQuiet s 4096 65536 = true ∧ (ctxD s 0).destroying = false ∧ poolUsed s1 3 ≤ poolBytes s1 3 ∧
    allPages s = [] ∧ x ∈ s1.work.tbl.pending ∧ x ∉ s.work.tbl.pending ∧ hostUp { dev with links := {} } = false := by
  decide +kernel

theorem witness_window_commands :
    let o := call 0 (args [(16, 2, 3), (48, 12, 5), (64, 56, 4096), (128, 48, 4096), (256, 16, 2)])
    let c := call 0 (args [(48, 12, 5)])
    let s := chained dev
    let a := rmArgs 4 o
    let zs := rmReserved ++ [(4, 3), (16, 32), (64, 56), (128, 48), (192, 80)]
    MbxOpen s ∧ zeroFields a (rmReserved ++ [(4, 3), (19, 29), (192, 64)]) = true ∧ rmLen a = 4096 ∧ rmBase a = 4096 ∧ ctxOk s o 0 = true ∧
    (ctxRange s 0 4096 4096).isSome = true ∧ ctxRange s 0 0 4096 = none ∧ Tab.has s.windows 5 = false ∧
    zeroFields (rmArgs 5 c) zs = true ∧ Tab.get? s.windows 5 = none ∧ dev.work.chain.valid = false ∧
    zeroFields (rmArgs 5 (call 0 16)) zs = false ∧
    Tab.get? { s with windows := [(5, { ctx := 1 })] }.windows 5 = some { ctx := 1 } := by
  unfold MbxOpen
  decide +kernel

/-- The device with a window of 4,096 bytes that device 1 may use. -/
def windowed (b : Bool) : State :=
  { chained dev with windows := [(5, { base := 4096, len := 4096, r := b, w := b, a := b, mask := 2 })] }

/-- A WINDOW packet with the operation, status and bytes given. -/
def windowPkt (op st n : Nat) (bs : List Byte) : PeerPkt := pkt 9 windowJob (windowHead op (if op = 4 then 3 else 0) st 5 0 n ++ bs)

theorem witness_window_requests :
    let s := windowed true
    ∀ op ∈ [1, 3, 4], let p := windowPkt op 0 16 (List.replicate 16 1)
      PeerTaken 9 p s p.payload ∧ windowBad (ctlHead p.payload) = false ∧ bitsOf (ctlHead p.payload) 0 4 = op ∧
      (windowCheck s p (ctlHead p.payload) op).1 = 0 ∧ (windowCheck (windowed false) p (ctlHead p.payload) op).1 = 3 := by
  unfold PeerTaken
  decide +kernel

/-- The device with a transfer that awaits the answer of device 1. -/
def awaiting (tr : Transfer) (w : WindowReq) : State :=
  let s := chained (withTask { ttype := .copy, state := .active })
  { s with
    streams := { s.streams with transfers := [(8, tr)], streams := [(0, {})] }
    work := { s.work with chain := { s.work.chain with windowReqs := [(2, w)] } } }

theorem witness_window_answers :
    let tr : Transfer := { src := 2 ^ 53, dst := 4096, len := 16, issued := true }
    let w : WindowReq := { transfer := 8, dst := 1 }
    let s := awaiting tr w
    (∀ op ∈ [2, 5], let p := windowPkt op 0 16 (List.replicate 16 1)
      PeerTaken 9 p s p.payload ∧ windowBad (ctlHead p.payload) = false ∧ bitsOf (ctlHead p.payload) 0 4 = op) ∧
    oldestWindow s 1 = some (2, w) ∧ transfer? s 8 = some tr ∧ areaFenced s tr.src 16 = none ∧ migrateJobs s = [] ∧
    endKind s tr.dst = .stack ∧ (task? s 0 0).isSome = true ∧
    (let lw : LookupWork := { writing := [3], done := [(3, { body := [] })] }
     let b := awaiting { tr with gate := some true, sentOut := true } w
     let b : State := { b with work := { b.work with idx := { b.work.idx with lookups := [(0, lw)] } } }
     b.work.idx.lookups = [(tid 0 0, lw)] ∧ (Tab.get? lw.done 3).isSome = true ∧ b.work.chain.remotes = [] ∧
       b.streams.transfers = [(8, { tr with gate := some true, sentOut := true })]) ∧
    (let far : State := { s with ranges := (2 ^ 53, { kind := .peer, len := 4096, chainAddr := 1 }) :: s.ranges }
     endKind far tr.src = .peer) ∧ oldestWindow (windowed true) 1 = none := by
  unfold PeerTaken
  decide +kernel

theorem witness_stream_commands :
    let a := setField (args [(4, 4, 1), (16, 16, 5), (32, 16, 6)]) 0 4 1
    MbxOpen dev ∧ zeroFields a [(10, 6), (48, 2000)] = true ∧ bits a 16 16 = 5 ∧ bits a 32 16 = 6 ∧
    zeroFields (setField (args [(48, 3, 1)]) 0 4 2) [(4, 44), (52, 1996)] = true ∧ populated dev 1 = true ∧ populated dev 2 = false ∧
    zeroFields (setField (args [(52, 3, 1)]) 0 4 2) [(4, 44), (52, 1996)] = false ∧ bits (0 : BitVec 2048) 16 16 = 0 ∧
    (policyAt dev 1 1).1 = 0xFFFF ∧ (policyAt { dev with streams := { policy := [(4, (5, 6))] } } 1 1).1 = 5 := by
  unfold MbxOpen
  decide +kernel

/-- A task whose descriptor has the fields given. -/
def streamTask (ty : TaskType) (st : TaskState) (fs : List (Nat × Nat × Nat)) : Task :=
  { ttype := ty, state := st, part := toBytes 64 (packFields fs) }

theorem witness_copy :
    let x := streamTask .copy .queued [(0, 12, 3), (64, 56, 4096)]
    let s := withTask x
    let w (a : Arming) : State := { s with ctxs := [(0, { armings := [(3, a)] })] }
    tasksRun s = true ∧ admissible s 0 0 = some x ∧ coReserved x = false ∧ coReserved (streamTask .copy .queued [(16, 1, 1)]) = true ∧
    armingOf s 0 3 = {} ∧ armingOf (w { waiting := some (0, 9) }) 0 3 = { waiting := some (0, 9) } ∧
    retired (w {}) (0, 0) = false ∧ retired (w {}) (0, 5) = true ∧ (Tab.get? s.ctxs 0).isSome = true := by
  decide +kernel

theorem witness_semaphores :
    let x := streamTask .semSignal .active [(0, 12, 3), (16, 31, 2)]
    let y := streamTask .semWait .queued [(0, 12, 3), (16, 31, 2)]
    let wait (v : Nat) : State := { dev with ctxs := [(0, { sems := [(3, v)], waiters := [{ sem := 3, count := 2, who := .task 0 0 }] })] }
    seReserved x = false ∧ seReserved (streamTask .semWait .queued []) = true ∧ earlierDone (withTask x) 0 0 = true ∧
    admissible (withTask y) 0 0 = some y ∧ semVal (withTask x) 0 3 + 2 ≤ 0x7FFFFFFF ∧
    (ctxD (wait 2) 0).waiters.find? (fun w => decide (w.sem = 3)) = some { sem := 3, count := 2, who := .task 0 0 } ∧
    semVal (wait 2) 0 3 = 2 ∧ semVal (wait 1) 0 3 = 1 ∧ semVal (wait 0x7FFFFFFF) 0 3 = 0x7FFFFFFF ∧
    admissible (withTask { x with state := .queued }) 0 0 = some { x with state := .queued } ∧
    earlierDone { withTask { x with seq := 1 } with
      tasks := [(0, { state := .active }), (1, { x with seq := 1 })] } 0 1 = false := by
  decide +kernel

/-- The device with a COPY that runs, its block list at 4,096 with the entry given. -/
def copying (e : Nat) (z : Stream) (trs : Tab Transfer) : State :=
  { withTask (streamTask .copy .active [(0, 12, 3)]) with
    streams := { streams := [(0, z)], transfers := trs, nextTransfer := 9 }
    mem := cellWrite 0 [] 4096 (toBytes 32 e) }

/-- An entry of 600 bytes from 8,192 to 12,288. -/
def copyEntry : Nat := packFields [(0, 56, 8192), (64, 56, 12288), (128, 24, 599)]

theorem witness_entry :
    let z : Stream := { entries := 2, listAddr := 4096, started := true }
    let s := fetched 0 0 [(false, 4096, 32)] (copying copyEntry z [])
    stream? s 0 0 = some z ∧ memGate 0 0 .r 4096 32 s = none ∧ areaFenced s 4096 32 = none ∧ devNat s 4096 32 = copyEntry ∧
    entryFault copyEntry = none ∧ bitsOf copyEntry 156 1 = 0 ∧ entryFault (copyEntry + 2 ^ 152 * 13) = some 1 ∧
    entryFault (copyEntry + 2 ^ 156) = none ∧ bitsOf (copyEntry + 2 ^ 156) 156 1 = 1 ∧
    replicaPieces copyEntry 0 = [(8192, 12288, 512), (8704, 12800, 88)] := by
  decide +kernel

theorem witness_transfer :
    let tr : Transfer := { src := 8192, dst := 12288, len := 512 }
    let z : Stream := { entries := 1, listAddr := 4096, started := true, nextEntry := 1 }
    let s := copying 0 z [(4, tr)]
    let d := copying 0 z [(4, { tr with issued := true })]
    let v : State := { s with ranges := [] }
    inOrder s 4 tr = true ∧ hasTokens s tr = true ∧ mayIssue s 4 tr = true ∧ isChosen s 4 tr = true ∧ transferCheck s 0 tr = none ∧
    needsHost s 8192 512 = false ∧ endUnreachable s 8192 = false ∧ transferNeed s tr = none ∧ endKind s 8192 = .stack ∧
    (transferCheck v 0 tr).isSome = true ∧ mayIssue v 4 tr = true ∧ isChosen v 4 tr = true ∧
    t4Waiting d (.transfer 4) = false ∧ windowOpenFor d 4 = false ∧ migrateJobs d = [] ∧ areaFenced d 8192 512 = none ∧
    areaFenced { d with faults := { d.faults with fences := [(locDev 8192, 0)] } } 8192 512 = some (locDev 8192) ∧
    hasTokens { s with streams := { s.streams with policy := [(0, (5, 6))], tokens := [(0, -1)] } } tr = false ∧
    relayed (copying 0 { z with relays := [{ entry := 0, replica := 0, src := 8192, bytes := List.replicate 512 7 }] }
      [(4, { tr with replica := 1, chain := some 0, issued := true })]) { tr with replica := 1, chain := some 0, issued := true } 0 =
      some (List.replicate 512 7) := by
  decide +kernel

/-- The same with a range in device 1 at the source, and a HOST range at the destination. -/
def farCopy (tr : Transfer) : State :=
  let s := chained (copying 0 { entries := 1, listAddr := 4096, started := true, nextEntry := 1 } [(4, tr)])
  let far : Range := { kind := .peer, r := true, w := true, len := 4096, chainAddr := 1 }
  let host : Range := { kind := .host, r := true, w := true, len := 4096 }
  { s with ranges := s.ranges ++ [(2 ^ 52, host), (2 ^ 53, far)] }

theorem witness_transfer_far :
    let a : Transfer := { src := 2 ^ 53, dst := 12288, len := 512 }
    let b : Transfer := { src := 8192, dst := 2 ^ 52, len := 512 }
    let down (s : State) : State := { s with links := { s.links with host := {} } }
    let cut : State := { farCopy a with work := {} }
    mayIssue (farCopy a) 4 a = true ∧ isChosen (farCopy a) 4 a = true ∧ transferCheck (farCopy a) 0 a = none ∧
    endKind (farCopy a) a.src = .peer ∧ (rangeAt (farCopy a) a.src 512).isSome = true ∧ endUnreachable cut a.src = true ∧
    mayIssue cut 4 a = true ∧ isChosen cut 4 a = true ∧
    mayIssue (farCopy b) 4 b = true ∧ isChosen (farCopy b) 4 b = true ∧
    (transferNeed (farCopy b) b).map PageNeed.migrate = some false ∧ needsHost (down (farCopy b)) b.dst 512 = true ∧
    mayIssue (down (farCopy b)) 4 b = true ∧ isChosen (down (farCopy b)) 4 b = true ∧ hostUp (down (farCopy b)) = false := by
  decide +kernel

theorem witness_topology :
    let m := call 0 (args [(64, 56, 4096)])
    let root : State := { dev with sys := { dev.sys with chainRoot := true } }
    let up : State := { root with links := { root.links with peers := [(2, { up := true, lanes := 16 })] } }
    MbxOpen root ∧ zeroFields (setField m.args 0 1 0) [(1, 63), (120, 1928)] = true ∧ areaOk dev 0 4096 400 .w .stackOrPinned = true ∧
    areaOk dev 0 0 400 .w .stackOrPinned = false ∧ zeroFields (setField (0 : BitVec 2048) 0 1 1) [(1, 2047)] = true ∧
    chainHeld root = false ∧ ((up.links.peers.filter fun e => e.2.up).map Prod.fst) = [2] ∧
    (root.links.peers.filter fun e => e.2.up) = [] ∧ chainHeld (windowed true) = true ∧
    zeroFields (setField (4 : BitVec 2048) 0 1 1) [(1, 2047)] = false := by
  unfold MbxOpen
  decide +kernel

/-- The device in an enumeration. -/
def enumerating (peers : Tab Link) (c : Chain) : State :=
  { dev with links := { dev.links with peers := peers }, work := { chain := c } }

theorem witness_enum :
    let l : Link := { up := true, lanes := 16 }
    let s := enumerating [(0, l), (1, l)] {}
    (peerLink s 0).up = true ∧ (peerLink s 3).up = false ∧ s.sys.chainRoot = false ∧ s.work.chain.enumStatus = 0 ∧
    ((s.links.peers.filter fun e => e.2.up && !decide (e.1 = 0)).map Prod.fst) = [1] ∧
    (([(0, l)] : Tab Link).filter fun e => e.2.up && !decide (e.1 = 0)) = [] ∧
    enumPorts (enumerating [(0, l), (1, l)] { token := true, offered := some 0, usedPorts := [0] }) = [1] ∧
    enumPorts (enumerating [(0, l)] { token := true, offered := some 0, usedPorts := [0] }) = [] ∧ s.sys.bootStep = 14 := by
  decide +kernel

theorem witness_chain_table :
    let p := pkt 10 4095 (ctlBytes .chainTable 0 2 0 0 [])
    let s := enumerating [(0, { up := true, lanes := 16 })] { enumStatus := 1 }
    awaitsTable s p = true ∧ awaitsTable (chained dev) p = false ∧ CtlTaken .chainTable p (chained dev) p.payload ∧
    s.work.chain.enumStatus ∉ [0, 3, 4] ∧ bitsOf (ctlHead p.payload) 32 32 = 0 ∧ (chained dev).work.chain.epoch = 0 := by
  unfold CtlTaken PeerTaken
  decide +kernel

theorem witness_cal_read :
    let m := call 0 (args [(64, 56, 4096), (128, 32, 32)])
    MbxServes false true dev ∧ MbxOpen dev ∧ zeroFields (opArgs 1 m) calReserved = true ∧
    areaOk (mbxIn 0x51 m (opArgs 1 m) dev) 0 4096 32 .w .stackOrPinned = true ∧ areaOk dev 0 0 32 .w .stackOrPinned = false ∧
    zeroFields (opArgs 1 (call 0 16)) calReserved = false ∧ (calUsed dev).length = 32 ∧ updateBusy dev = false ∧
    areaFenced dev 4096 32 = none ∧
    (areaFenced { dev with faults := { dev.faults with fences := [(locDev 4096, 0)] } } 4096 32).isSome = true := by
  unfold MbxServes MbxOpen
  decide +kernel

/-- A set without entries at 4,096. -/
def setCells : List Host.Cell := cellWrite 0 [] 4096 (calImage dev 0 [])

theorem witness_cal_write :
    let m := call 0 (args [(64, 56, 4096), (128, 32, 32)])
    let s := { dev with mem := setCells }
    let img := devRead (mbxIn 0x52 m (opArgs 1 m) s) 4096 32
    zeroFields (opArgs 1 m) calReserved = true ∧ areaOk s 0 4096 32 .r .stackOrPinned = true ∧ calLength img = 32 ∧
    calOk s (img.take 32) = true ∧ calOk s (devRead dev 4096 32) = false ∧ zeroFields (opArgs 2 (call 0 0)) [(4, 2044)] = true ∧
    updateBusy { dev with fw := { stagedFw := true } } = true := by
  decide +kernel

/-- A firmware header of protocol version 2 from a flash address on; the bytes that no check reads stay erased. -/
def fwCells (a : Nat) : List Host.Cell :=
  [(a, 0x46), (a + 1, 0x57), (a + 2, 0x49), (a + 3, 0x4D), (a + 4, 1), (a + 5, 0), (a + 6, 2), (a + 10, 2), (a + 11, 0), (a + 16, 1),
    (a + 17, 0), (a + 18, 0), (a + 19, 0)]

/-- The device with that image in the staged slot. -/
def staged (f : FwUpd) : State := { dev with fw := f, flash := fwCells (imageAddr (.slot (stagedSlot dev))) }

theorem witness_fw_verify : fwCheck 0 true (staged { stagedFw := true, verifiedFw := true }) = .ok := by decide +kernel

theorem witness_fw_refused : fwCheck 0 false (staged { stagedFw := true, verifiedFw := true }) = .badSignature := by decide +kernel

theorem witness_fw_protocol :
    bitsOf (imageHeader (staged { stagedFw := true, verifiedFw := true }) (.slot (stagedSlot dev))) 48 8 = 2 := by decide +kernel

theorem witness_fw_args :
    (∀ op ∈ [2, 3, 4, 5], zeroFields (opArgs op (call 0 0)) (fwReserved op) = true) ∧ fwTarget (call 0 0) = 0 ∧
    fwTarget (call 0 (args [(5, 1, 1)])) = 1 ∧ zeroFields (opArgs 4 (call 0 (args [(5, 1, 1)]))) (fwReserved 4) = true := by
  decide +kernel

theorem witness_fw_present :
    fwPresent (staged { stagedFw := true }) 0 = true ∧ fwPresent dev 0 = false ∧ fwPresent dev 1 = false ∧ dev.sys.lowerUp = true ∧
    MbxOpen { dev with sys := { dev.sys with lowerUp := false } } := by
  unfold MbxOpen
  decide +kernel

theorem witness_fw_stage :
    let m := call 0 (args [(64, 56, 4096), (128, 32, 4096), (160, 32, 8192)])
    let a := opArgs 1 m
    zeroFields a (fwReserved 1) = true ∧ bits a 128 32 = 4096 ∧ bits a 160 32 = 8192 ∧ fwTarget m = 0 ∧
    (stageArea dev 0).2 = 0x1000000 ∧ areaOk (mbxIn 0x53 m a dev) 0 4096 8192 .r .any = true ∧ areaOk dev 0 0 8192 .r .any = false := by
  decide +kernel

theorem witness_unlock :
    let s : State := { rdy with fw := { nonce := some 5 }, fuses := { rdy.fuses with vendorDebugKeyHash := 9 } }
    MbxOpen s ∧ zeroFields (opArgs 1 (call 0 0)) [(4, 2044)] = true ∧ zeroFields (opArgs 1 (call 0 16)) [(4, 2044)] = false ∧
    zeroFields (opArgs 2 (call 0 0)) [(6, 58), (1608, 440)] = true ∧ zeroFields (opArgs 2 (call 0 64)) [(6, 58), (1608, 440)] = false ∧
    unlockStatus 0 true true s = .ok ∧ unlockStatus 0 true false s = .unlockRefused ∧ unlockStatus 0 true true dev = .contextsExist ∧
    unlockStatus 0 true true { rdy with fw := { unlockRefusals := 8 } } = .unlockLockedOut ∧
    unlockStatus 0 true true rdy = .challengeStale := by
  unfold MbxOpen
  decide +kernel

theorem witness_context_key :
    let c : Ctx := { key := some 7 }
    let s : State := { dev with spdm := { dev.spdm with sessions := [{ id := 0, established := true }] } }
    let k : State := { s with ctxs := [(0, c)] }
    let cold : State := { k with work := { tbl := { tables := [(7, {})], cold := [(mkKey 7 0, { tier := 2, base := 0, encrypted := true })] } } }
    ckFault 1 (ckArgs 1 (call 0 0)) (call 0 0) (some 9) s = none ∧ ckFault 1 (ckArgs 1 (call 0 0)) (call 0 0) none s = some .keyUnwrapFailed ∧
    ckFault 2 (ckArgs 2 (call 0 0)) (call 0 0) (some 9) k = none ∧ ckFault 3 (ckArgs 3 (call 0 0)) (call 0 0) none k = none ∧
    ckFault 3 (ckArgs 3 (call 0 0)) (call 0 0) none cold = some .keyInUse ∧ ckFault 2 (ckArgs 2 (call 0 0)) (call 0 0) (some 9) cold = none ∧
    ctxPages k 0 ColdPage.encrypted = [] ∧ ctxPages cold 0 ColdPage.encrypted = [mkKey 7 0] := by
  decide +kernel

/-- A REDUCE of job 3 with ranks 0 and 1 and a deadline of 10 us. -/
def reduceTask (st : TaskState) (fs : List (Nat × Nat × Nat)) : Task :=
  { ttype := .reduce, state := st, part := toBytes 128 (packFields ([(0, 12, 3), (16, 16, 3), (144, 32, 10)] ++ fs)) }

theorem witness_reduce :
    let x := reduceTask .queued []
    let y := reduceTask .queued [(12, 2, 1), (320, 56, 4096), (384, 32, 2), (448, 56, 8192)]
    let s := chained (withTask x)
    let u := chained (withTask y)
    tasksRun s = true ∧ admissible s 0 0 = some x ∧ rdFault s x (rdJob x) 3 = none ∧ (rdJob x).array = false ∧
    rdFault s (reduceTask .queued [(45, 3, 1)]) (rdJob x) 3 = some .badReserved ∧ admissible u 0 0 = some y ∧
    rdFault u y (rdJob y) 3 = none ∧ (rdJob y).array = true ∧ memGate 0 0 .r 4096 8 (fetched 0 0 [(false, 4096, 8)] u) = none ∧ rdLost s (rdJob x) = none ∧ rdLost u (rdJob y) = none ∧
    areaFenced { u with faults := { u.faults with fences := [(locDev 4096, 0)] } } 4096 8 = some (locDev 4096) := by
  decide +kernel

theorem witness_reduce_again :
    let x := reduceTask .queued []
    let s0 := chained (withTask x)
    let s := { s0 with work := { s0.work with chain := { s0.work.chain with jobs := [(3, { queue := 5 })] } } }
    rdFault s x (rdJob x) 3 = none ∧ (job? s 3).isSome = true := by
  decide +kernel

theorem witness_reduce_residual :
    let x := reduceTask .queued [(192, 56, 4096), (256, 64, 63)]
    let s := chained (withTask x)
    let lost := { s with faults := { s.faults with fences := [(locDev 4096, 0)] } }
    admissible lost 0 0 = some x ∧ rdFault lost x (rdJob x) 3 = some .residualMismatch ∧ rdHeaderLost s (rdJob x) = none ∧
    (rdHeaderLost lost (rdJob x)).isSome = true ∧ areaFenced s 4096 64 = none ∧ (areaFenced lost 4096 64).isSome = true ∧
    residLost s 4096 0 1 = none := by
  decide +kernel

/-- The device with job 3 open. -/
def reducing (j : Job) : State :=
  let s := chained (withTask { ttype := .scatter, state := .active })
  { s with work := { s.work with
      chain := { s.work.chain with jobs := [(3, j)] }
      upd := { works := [(0, { scWork0 with programs := [(0, nopProgram)], slots := [(5, 0)], local' := [(7, emptyBucket 0 1)] })] }
      tbl := { tables := [(5, { desc := packFields [(59, 1, 1)] })] } } }

theorem witness_flush :
    let x : Task := { ttype := .flush, part := toBytes 128 (packFields [(0, 12, 3), (64, 56, 4096), (128, 64, 64)]) }
    let s0 := reducing { ranks := 3, queue := 1 }
    let s := { s0 with tasks := [(0, x), (tid 1 0, { ttype := .reduce, state := .active, queue := 1 })] }
    admissible s 0 0 = some x ∧ flReserved x = false ∧ jobFault s 0 3 0 none = none ∧
    residBad s 0 4096 0 1 64 = false ∧ residBad s 0 4096 0 1 63 = true ∧ jobFault (reducing { queue := 2 }) 0 3 0 none = some .reduceJobUnknown ∧
    flReserved { x with part := toBytes 128 4096 } = true := by
  decide +kernel

theorem witness_job_packets :
    let c := pkt 3 3 (toBytes 64 1)
    let d := pkt 5 3 (toBytes 16 (2 ^ 33))
    let e := pkt 6 3 (toBytes 16 2)
    let r := pkt 10 4095 (ctlBytes .resend 0 3 0 7 [])
    let j : Job := { ranks := 3, seenFrom := [1] }
    let s := reducing j
    PeerTaken 3 c s c.payload ∧ PeerTaken 5 d s d.payload ∧ PeerTaken 6 e s e.payload ∧ CtlTaken .resend r s r.payload ∧
    pktJob c = 3 ∧ pktSrc c = 1 ∧ pktLast c = true ∧ ranksOf 3 = [0, 1] ∧ (groupOf (jobMode j) c.payload).1 = 1 ∧
    (groupOf (jobMode j) c.payload).2.1 = false ∧ hasPassed j 0 1 = false ∧ hasPassed { j with ranksDone := [0] } 0 1 = true ∧
    reachable s 0 = true ∧ reachable s 1 = true ∧ checkedElems 1 1 = [] ∧ job? (reducing {}) 9 = none ∧ bitsOf (ofBytes (d.payload.take 16)) 32 32 = 2 ∧
    bitsOf (ofBytes (e.payload.take 16)) 1 1 = 1 ∧ bitsOf (ctlHead r.payload) 64 64 = 7 ∧
    combinerOf (reducing { ranks := 2 }) { ranks := 2 } 7 = 1 ∧ me s = 0 := by
  unfold CtlTaken PeerTaken
  decide +kernel

theorem witness_job_result :
    let j : Job := { ranks := 3, contributor := some (0, 0) }
    let r := pkt 4 3 (toBytes 48 (mkKey 5 0))
    let s := reducing j
    PeerTaken 4 r s r.payload ∧ (resultOf r.payload).key = mkKey 5 0 ∧ (resultOf r.payload).nonfinite = 0 ∧
    keyBound s scWork0 (mkKey 5 0) = true ∧ (openEntry scWork0 (mkKey 5 0)).isSome = true ∧
    ((work? s 0 0).bind fun w => boundProgram w 5).isSome = true := by
  unfold PeerTaken
  decide +kernel

theorem witness_job_slots :
    let b : JobBucket := { slots := [(0, { state := .closed }), (1, {})] }
    let late : JobBucket := { slots := [(0, {}), (1, { state := .late })] }
    let j : Job := { ranks := 3, backups := [none, some 2], buckets := [(7, b), (8, late)] }
    job? (reducing j) 3 = some j ∧ Tab.get? j.buckets 7 = some b ∧ Tab.get? b.slots 1 = some {} ∧ j.backups.getD 1 none = some 2 ∧
    (b.slots.map Prod.fst).Nodup ∧ (Tab.get? late.slots 1).map RankSlot.state = some .late ∧
    (combiners (reducing j) { ranks := 2 ^ 5 }).contains 5 = true ∧ hasPassed j 2 7 = false ∧ waitsOn (reducing j) 3 { ranks := 2 ^ 5 } 5 = true ∧
     reachable (reducing j) 5 = false ∧ reachable (reducing j) 1 = true := by
  decide +kernel

/-- The device with a remote task of device 1 with tag 3, and a table 5 of the descriptor and rows given. -/
def serving (x : RemoteTask) (fs : List (Nat × Nat × Nat)) (rows : Tab Row) : State :=
  let s := chained dev
  { s with work := { s.work with
      chain := { s.work.chain with remotes := [(remoteKey 1 3, x)], maps := [(0, { entries := [(0, 1)] })] }
      tbl := { tables := [(5, { desc := packFields ([(64, 48, 100)] ++ fs), highest := 1 })], rows := rows } } }

theorem witness_task_begin :
    let body := ctlBytes .taskBegin 0 0 7 (packFields [(0, 4, 1), (4, 12, 3), (16, 16, 1)]) (boundBytes [(5, 1)])
    let late := ctlBytes .taskBegin 0 0 7 (packFields [(0, 4, 1), (4, 12, 3), (16, 16, 1)]) (boundBytes [(5, 2)])
    let s := serving {} [] []
    CtlTaken .taskBegin (pkt 10 3 body) s body ∧ CtlTaken .taskBegin (pkt 10 3 late) s late ∧
    namesRetired s (remoteOf (pkt 10 3 body) body) = true ∧ namesRetired s (remoteOf (pkt 10 3 late) late) = false := by
  unfold CtlTaken PeerTaken
  decide +kernel

theorem witness_probe :
    let r : Ref := { bag := 0, slot := 2, neg := false, weight := none }
    let key := mkKey 5 7
    let body := probeEntry false key [r]
    let p := { pkt 1 3 body with hdr := peerHeader 1 1 0 3 0 0 0 2 false none }
    let x : RemoteTask := { src := 1, tag := 3, replyTo := 1, replyTag := 3 }
    let s := serving x [] []
    let waits : RemoteTask := { x with bound := [(5, 9)] }
    let lost := serving x [] [(key, { place := { tier := 1 }, fenced := true })]
    let far := serving x [(135, 1, 1)] []
    let busy := serving x [] [(key, { place := { tier := 1 }, committing := true })]
    let gone := serving x [] [(key, { place := { tier := 5 }, chain := 9 })]
    PeerTaken 1 p s body ∧ remoteKey (pktSrc p) (pktJob p) = remoteKey 1 3 ∧ Tab.get? s.work.chain.remotes (remoteKey 1 3) = some x ∧
    remoteReady s x = true ∧ remoteReady (serving waits [] []) waits = false ∧ pktLast p = false ∧
    probeRows false body.length body = [(key, [r])] ∧ strayOwner s key = none ∧ readFor s key none = .got none [] ∧
    readFor lost key none = .lost ∧ readFor busy key none = .wait ∧ readFor gone key none = .away ∧ strayOwner far key = some 1 ∧
    keyIndex key ≤ tdRowLimit (packFields [(64, 48, 100)]) ∧ tdElems (packFields [(64, 48, 100)]) = x.elems ∧
    (takeRead (2 ^ 64 + remoteKey 1 3) key none none s).1 = .got none [] ∧
    (enterRow (2 ^ 64 + remoteKey 1 3) key none true [] s).1 = true ∧ (homesFor s key none none).head? = some (mix64 key % 512) ∧
    enginesRun s (mix64 key % 512) = true ∧ accumRoom s (mix64 key % 512) (freshBytes x (mix64 key % 512) [r]) = true := by
  unfold PeerTaken
  decide +kernel

theorem witness_probe_last :
    let p := pkt 1 3 []
    let x : RemoteTask := { src := 1, tag := 3, replyTo := 1, replyTag := 3, frames := [(512 + 4, emptyBucket 0 1)] }
    let s := serving x [] []
    PeerTaken 1 p s [] ∧ remoteReady s x = true ∧ pktLast p = true ∧ probeRows false 0 [] = [] ∧ reachable s 1 = true ∧
    CtlTaken .taskEnd (pkt 10 3 (ctlBytes .taskEnd 0 0 7 0 [])) s (ctlBytes .taskEnd 0 0 7 0 []) := by
  unfold CtlTaken PeerTaken
  decide +kernel

/-- The device with module 0 up and HELLO done. -/
def helloed : State :=
  withModule { up := true, lanes := 64, helloOk := true, classes := 0x1FF, hdmBase := 2 ^ 40 }

theorem witness_cxl :
    let s := helloed
    let at' (a n : Nat) : CxlReq := { tag := 1, addr := 2 ^ 40 + a, write := false, data := [], len := n }
    let peer : State := { s with ranges := [(4096, { kind := .peer, r := true, len := 4096, chainAddr := 1 })] }
    let torn : State := { s with faults := { s.faults with fences := [(locDev 4096, 0)] } }
    s.sys.frozen = false ∧ carries s 0 1 = true ∧ carries dev 0 1 = false ∧ carries s 0 3 = true ∧ carries s 0 5 = true ∧
    cxlContext s 0 = 0 ∧ accessFault s 0 .r 4096 16 = none ∧ accessFault s 0 .w 4096 16 = none ∧
    (rangeAt s 4096 16).isSome = true ∧ accessFault s 0 .r 0 16 = some (3, 0) ∧ endUnreachable s 4096 = false ∧
    needsHost s 4096 16 = false ∧ areaFenced s 4096 16 = none ∧ areaFenced torn 4096 16 = some (locDev 4096) ∧
    accessFault peer 0 .r 4096 16 = none ∧ ((rangeAt peer 4096 16).map fun e => e.2.kind) = some .peer ∧
    (at' 4096 16).addr - (ucieOf s 0).hdmBase = 4096 := by
  decide +kernel

theorem witness_debug_access :
    let s : State := { helloed with sys := { helloed.sys with cfg := { helloed.sys.cfg with ucieDebug := true } } }
    carries s 0 5 = true ∧ s.sys.cfg.ucieDebug = true ∧ helloed.sys.cfg.ucieDebug = false ∧ s.sys.engState ≠ .reset ∧
    windowSelector s 0 = false := by
  decide +kernel

theorem witness_expander :
    let l : Link := { up := true, lanes := 8 }
    let tr : Transfer := { src := 2 ^ 40, dst := 4096, len := 16, issued := true }
    let s0 := copying copyEntry {} [(8, tr)]
    let s : State := { s0 with links := { s0.links with expanders := [(0, l), (1, {})] }
                               ranges := (2 ^ 40, { kind := .expander, len := 4096 }) :: s0.ranges }
    (expander s 0).up = true ∧ (expander s 1).up = false ∧ Tab.has s.links.expanders 1 = true ∧ 8 + 0 ∈ transferPorts s tr ∧
    migrateJobs s = [] ∧ (task? s 0 0).isSome = true := by
  decide +kernel

theorem witness_peer_link :
    let links (u : Bool) := [linkWord { a := 0, pa := 0, b := 1, pb := 0, width := 16, up := u },
      linkWord { a := 0, pa := 1, b := 1, pb := 1, width := 16, up := true }]
    let p : SentPkt := { seq := 0, hdr := 0, payload := [], raw := [] }
    let w := { poolWork with far := [mkKey 5 7] }
    let s0 := chained (pooling w)
    let chain (u : Bool) (f : Tab Flow) : State :=
      { s0 with links := { s0.links with peers := [(0, { up := true, lanes := 16 }), (1, { up := true, lanes := 16 })] }
                work := { s0.work with chain := { s0.work.chain with links := links u, flows := f, maps := [(0, { entries := [(0, 1)] })] } } }
    let s := chain true [(flowKey 1 0, { unacked := [p] })]
    let down := chain false []
    (peerLink s 0).up = true ∧ routePort s 1 = some 0 ∧ routePort (markLink 0 0 false s) 1 = some 1 ∧
    routePort down 1 = some 1 ∧ routePort (markLink 0 16 true down) 1 = some 0 ∧ (peerLink s 2).up = false ∧
    roleOf 0x300 2 = 3 ∧ (task? s0 0 0).isSome = true ∧
    (let one := { s0 with work := { s0.work with chain := { s0.work.chain with maps := [(0, { entries := [(0, 1)] })] } } }
     s0.work.idx.lookups = [(tid 0 0, w)] ∧ strandedKey (markLink 0 0 false one) w = some (mkKey 5 7)) := by
  decide +kernel

theorem witness_packet_rows :
    let s := chained dev
    let p := pkt 1 3 []
    let old : State := { s with work := { s.work with chain := { s.work.chain with accepted := [(flowKey 1 3, 1)] } } }
    let ahead : State := { s with work := { s.work with chain := { s.work.chain with accepted := [(flowKey 1 3, 2 ^ 32 - 1)] } } }
    let coded := { p with hdr := peerHeader 1 1 0 3 0 0 0 0 true (some 0) }
    peerUp s 0 = true ∧ s.work.chain.valid = true ∧ pktBad p = false ∧ pktType p = 1 ∧ pktDst p = 0 ∧ pktOld s p = false ∧
    pktOld old p = true ∧ pktOld ahead p = false ∧ pktAhead ahead p = true ∧ pktAhead s coded = false ∧ pktBody s coded = none ∧
    pktDst { p with hdr := peerHeader 1 1 2 3 0 0 0 0 true none } ≠ 0 ∧ pktBad { p with hdr := 0 } = true ∧
    windowPktBad (windowPkt 7 0 16 []) = true ∧ routePort s 1 = some 0 ∧ awaitsTable s (pkt 10 4095 (ctlBytes .chainTable 0 2 0 0 [])) = false ∧
    groupPktBad s (pkt 3 3 (List.replicate 32 0xFF)) = true ∧ groupPktBad s (pkt 3 3 (List.replicate 32 0)) = false ∧
    ({ s with work := { s.work with chain := { s.work.chain with jobsOver := [3] } } }).work.chain.jobsOver.contains 3 = true := by
  decide +kernel

theorem witness_ack_notice :
    let x : SentPkt := { seq := 4, hdr := peerHeader 3 0 1 3 0 0 4 0 true (some 2), payload := [], raw := [] }
    let note := ctlBytes .codeNotice 1 2 9 0 []
    let ask := ctlBytes .uncoded 0 3 4 0 []
    let s0 := chained dev
    let s : State := { s0 with work := { s0.work with chain := { s0.work.chain with flows := [(flowKey 1 3, { unacked := [x] })] } } }
    let a := { pkt 11 3 [] with hdr := peerHeader 11 1 0 3 0 4 0 0 true none }
    pktType a = 11 ∧ pktBad a = false ∧ seqBefore 32 (pktAux a) 4 = false ∧ codeRefs s0 0 2 = 0 ∧ bit x.hdr 40 = true ∧
    bits x.hdr 32 8 = 0 ∧ bits x.hdr 41 2 = 2 ∧ CtlTaken .codeNotice (pkt 10 3 note) s note ∧ CtlTaken .uncoded (pkt 10 7 ask) s ask ∧
    (([x].find? fun x => decide (x.seq = 4)) = some x) ∧ (([x].find? fun x => decide (x.seq = 5)) = none) := by
  unfold CtlTaken PeerTaken
  decide +kernel

theorem witness_flit :
    let w := encodeWord 7
    lostIn (List.replicate 16 w) = [] ∧ correctedIn (List.replicate 16 w) = [] ∧
    correctedIn ((w ^^^ 3) :: List.replicate 15 w) = [(0, 0)] ∧ lostIn ((w ^^^ 3) :: List.replicate 15 w) = [] ∧
    lostIn ((w ^^^ 0x11) :: List.replicate 15 w) = [0] := by
  decide +kernel

/-- The device with a stalled transfer from page 2 of a HOST range, and the translation state given. -/
def hosted (g : Range) (a : Ats) : State :=
  let tr : Transfer := { src := 2 ^ 52 + 8192, dst := 4096, len := 16, stalled := true }
  { withTask (streamTask .copy .active []) with
    ranges := [(4096, { r := true, w := true, len := 65536 }), (2 ^ 52, { g with kind := .host, r := true, len := 65536 })]
    streams := { streams := [(0, {})], transfers := [(8, tr)] }, ats := { a with requests := [(0, 2)] } }

theorem witness_ats :
    let tr : Transfer := { src := 2 ^ 52 + 8192, dst := 4096, len := 16, stalled := true }
    let r (b : Bool) : AtsReply := { pasid := 0, hostAddr := 8192, len := 4096, translated := 0, read := b, write := false }
    let e : OutFault := { space := 0, migrate := false, hostPage := 2, devAddr := 2 ^ 52 + 8192, accR := true, accW := false, waiters := [8],
                          firstTask := (0, 0), firstStream := 0, ctx := 0, recorded := true, requested := false, further := false }
    let s := hosted {} {}
    let p := hosted { pinned := true } {}
    let w := hosted {} { outFaults := [(0, e)] }
    let full : State := { s with fq := { s.fq with enable := true } }
    let a := hosted {} { outFaults := [(0, { e with requested := true })] }
    hostUp s = true ∧ transferNeed (installCopy (r true) s) tr = none ∧
    (transferNeed (installCopy (r false) s) tr).map (fun n => (n.migrate, n.space, n.page, n.pinned)) = some (false, 0, 2, false) ∧
    (transferNeed (installCopy (r false) p) tr).map (fun n => n.pinned) = some true ∧ fqFull full.fq = false ∧
    stillNeeds (installCopy (r true) w) e 8 = false ∧ stillNeeds (installCopy (r false) w) e 8 = true ∧
    (task? s 0 0).isSome = true ∧ requestedEntry a 0 = some { e with requested := true } ∧ requestedEntry a 1 = none ∧
    transfer? a 8 = some tr ∧ usesSpace s 0 { tr with issued := true } = true := by
  decide +kernel

theorem witness_patrol_bank :
    let w := encodeWord 7
    let key := mkKey 5 7
    let copy (c : T0Copy) : State :=
      { dev with work := { tbl := { tables := [(5, {})], rows := [(key, { place := { tier := 1 }, t0 := some c })] } } }
    let held (d : Delta) : State := { dev with work := { tbl := { tables := [(5, {})], rows := [(key, { deltas := [d] })] } } }
    let c : T0Copy := { cluster := 0, core := 3, bytes := [1], dirty := true, pinned := false, line := none, age := 0, shadow := none }
    dev.sys.bootStep = 14 ∧ 0 ∈ serviceClusters dev ∧ (lullOf dev 0).state = 0 ∧ decodeWord w = .good ∧
    decodeWord (w ^^^ 3) = .corrected 0 w ∧ decodeWord (w ^^^ 0x11) = .uncorrectable ∧ wordHolds (copy c) 3 1 key = true ∧ copyHolds (copy c) 3 1 c = true ∧
    wordHolds (held { place := { addr := 3 }, lo := 1, hi := 1, data := some [1] }) 3 1 key = true ∧
    homeWord (copy c) 1 = true ∧ spareList dev 0 ≠ [] := by
  decide +kernel

theorem witness_patrol_hbm :
    let key := mkKey 5 7
    let r : Row := { place := { tier := 1, addr := 4096 }, backing := [1] }
    let s (r : Row) : State := { dev with work := { tbl := { tables := [(5, {})], rows := [(key, r)] } } }
    inStack dev 4096 64 = true ∧ rowAt dev 4096 = none ∧ deltaAt dev 4096 = none ∧
    (let d : Delta := { lo := 1, hi := 1, data := some [1], place := { tier := 1, addr := 4096 } }
     let x := s { deltas := [d] }
     rowAt x 4096 = none ∧ deltaAt x 4096 = some (key, d) ∧ (rowOf x key).deltas = [d]) ∧ rowAt (s r) 4096 = some key ∧ r.written = true ∧ (rowOf (s r) key).t0 = none ∧
    populated dev 0 = true ∧ (stackPort dev 0).lost = false ∧ stackOf 4096 = 0 ∧ sliceRange dev 0 = none ∧
    (let g : Range := { len := 2 ^ 30 }
     sliceRange { dev with ranges := [(0, g)] } 0 = some (0, g)) ∧
    (let x : State := { dev with faults := { dev.faults with retiring := [1] } }
     (emptyArea 1 (sliceOf x 0).1 (sliceOf x 0).2 x).1 = .gone ∧ (Tab.get? x.stackTab 0).isSome = true) ∧
    (let x : State := { s { r with place := { tier := 1, addr := 2 ^ 30 - 4096 }, fenced := true } with faults := { dev.faults with retiring := [1] } }
     (emptyArea 1 (sliceOf x 0).1 (sliceOf x 0).2 x).1 = .stuck) := by
  decide +kernel

theorem witness_bond_flit :
    let w := encodeWord 7
    let s := withTask { ttype := .copy, state := .active }
    (bondOf dev 3).lost = false ∧ lostIn (List.replicate 64 w) = [] ∧ correctedIn ((w ^^^ 3) :: List.replicate 63 w) = [(0, 0)] ∧
    lostIn ((w ^^^ 0x11) :: List.replicate 63 w) = [0] ∧ correctedIn ((w ^^^ 0x11) :: List.replicate 63 w) = [] ∧
    (task? s 0 0).map Task.recomputed = some false := by
  decide +kernel

/-- The device with cluster 0 about to leave, and one row with the copy given. -/
def leavingRow (x : T0Copy) : State :=
  { dev with faults := { dev.faults with leaving := [0] }
             work := { tbl := { tables := [(5, {})], rows := [(mkKey 5 7, { place := { tier := 1, addr := 4096 }, t0 := some x })] } } }

theorem witness_leave :
    let x : T0Copy := { cluster := 0, core := 3, bytes := [1], dirty := true, pinned := true, line := none, age := 0, shadow := none }
    let s := leavingRow x
    0 ∈ serviceClusters dev ∧ 0 ∈ s.faults.leaving ∧ (bondOf s 0).lost = false ∧ serviceClusters s ≠ [] ∧
    (tbl? s 5).isSome = true ∧ keyHandle (mkKey 5 7) = 5 ∧
    s.work.tbl.tables = [(5, {})] ∧ homeless { s with faults := { s.faults with retiredClusters := [0] } } {} = false ∧ isPinned { desc := packFields [(128, 2, 1), (192, 48, 9)], pinBelow := 9 } 7 = true := by
  decide +kernel

/-- Every cluster but the last. -/
def outOfService : List Nat := List.range 511

theorem last_cluster (s : State) (h : s.faults.retiredClusters = outOfService) : serviceClusters s = [511] := by
  have e : List.range 512 = List.range 511 ++ [511] := List.range_succ
  unfold serviceClusters
  rw [h, e, List.filter_append]
  simp [outOfService]

/-- The device with its last cluster about to leave. -/
def lastLeaves : State := { dev with faults := { dev.faults with leaving := [511], retiredClusters := outOfService } }

theorem witness_last_cluster : 511 ∈ lastLeaves.faults.leaving ∧ serviceClusters lastLeaves = [511] :=
  ⟨List.mem_singleton.mpr rfl, last_cluster lastLeaves (by simp only [lastLeaves])⟩

theorem witness_host_loss :
    let w : Nat × Nat × Nat := (0, 0, 4095)
    let x : Task := { ttype := .fence, state := .active, hostWrites := [w] }
    let s := withTask x
    hostUp dev = true ∧ hostVictims dev = [] ∧ migrateJobs dev = [] ∧ (t4Of dev).outstanding = [] ∧ hostUp { dev with attach := { lost := true } } = false ∧
    (hostNeed s x).isSome = true ∧ s.journal.markers = [] ∧
    (let r : State := { dev with ranges := [(2 ^ 52, { kind := .host, len := 65536 })] }
     hostRing r (2 ^ 52) = true) := by
  decide +kernel

/-- The device as an I3C target with address 8. -/
def onBus (s : State) : State := { s with i3c := { s.i3c with dynAddr := some 8 } }

theorem witness_i3c :
    i3cAnswers rdy = false ∧ rdy.sys.engState ≠ .reset ∧ rdy.i3c.dynAddr = none ∧ i3cAnswers (onBus rdy) = true ∧
    2 + 8 ≤ (onBus rdy).i3c.mwl ∧ imgWaits (onBus (bootAt 5 2)) = true ∧ i3cAnswers (onBus (bootAt 5 2)) = true ∧
    imgWaits (onBus rdy) = false ∧ bit (1 : Byte) 0 = true := by
  decide +kernel

theorem test_idcode : ((after .idcode { rdy with fuses := { rdy.fuses with lowerId := BitVec.ofNat 128 (1 + 0x12 * 4 + 0x43 * 2 ^ 48) } }).sent).getLast? =
    some (.tap (tapBits 32 (1 + 0x43 * 2 + 0x8400 * 2 ^ 12 + 2 * 2 ^ 28))) := by decide +kernel

theorem witness_spdm :
    let s : State := { rdy with spdm := { versionDone := true, capsDone := true, algDone := true, sessions := [{ id := 7, established := true }] } }
    s.sys.lowerUp = true ∧ hostUp s = true ∧ s.sys.frozen = false ∧ s.spdm.sessions.length < 4 ∧ rdy.spdm.versionDone = false ∧
    hostUp { rdy with attach := { lost := true } } = false ∧ ({ id := 7, established := true } : SpdmSession) ∈ s.spdm.sessions := by
  decide +kernel

/-- The device after both processors have failed. -/
def frozenSafe : State := { rdy with sys := { rdy.sys with frozen := true, engState := .safe, safeCause := .recoveryFailed } }

theorem witness_frozen : frozenSafe.sys.frozen = true ∧ frozenSafe.sys.engState = .safe ∧ frozenSafe.sys.safeCause ≠ .bootImageInvalid ∧
    frozenSafe.pending = [] ∧ Machine.step frozenSafe = .next { frozenSafe with clock := frozenSafe.clock + 1 } ∧
    3 ≤ frozenSafe.sys.bootStep := ⟨rfl, rfl, by decide, rfl, rfl, by decide⟩

theorem witness_canonical : memWf dev = true ∧ memWf { dev with mem := [(4096, 7), (4099, 1)] } = true ∧
    memWf { dev with mem := [(4096, 0)] } = false ∧ Machine.step dev = .next { dev with clock := dev.clock + 1 } :=
  ⟨by decide, by decide, by decide, rfl⟩

theorem witness_code : decodeWord (encodeWord 7 ^^^ BitVec.ofNat 144 (9 * 2 ^ 140)) = .corrected 35 (encodeWord 7) ∧
    decodeWord (encodeWord 7 ^^^ BitVec.ofNat 144 (9 * 2 ^ 140) ^^^ 5) = .uncorrectable := by decide +kernel

/-! ### Ill-formed commands -/

/-- A packet that came in on no peer port. -/
def badPort : PeerPkt := { port := 12, hdr := 0, payload := [] }

/-- A packet whose payload is not whole units of 16 bytes. -/
def badUnits : PeerPkt := { port := 0, hdr := 0, payload := [1] }

/-- An instruction word with every field at zero. -/
def zeroOp : RowOp := { pred := 0, pneg := false, dst := 0, srcA := 0, srcB := 0, srcC := 0 }

theorem test_wf_issuer : ∀ c ∈ [Instr.engInfo (call 256 0), .mailboxBadOpcode (call 256 0) 1, .mailboxBadOpcode (call 0 0) 65536], c.wf = false := by
  decide

theorem test_wf_units : ∀ c ∈ [Instr.islandClockLockLoss 512, .stackTempRead 12 0, .mpHeartbeat 2, .lullL1Entry 256, .loadReplaceStart 65536,
    .generationRetire 65536 0, .generationRetire 0 (2 ^ 48), .programSlotWrite 8, .unmapDrainDone (2 ^ 56), .deferredCommandEnd 64,
    .registerWrite .bar0 (2 ^ 24) false 0, .msixUnmask 1024, .holdoffExpire 1024, .sqDoorbell 1024 0 [], .deliveryAcked 32], c.wf = false := by
  decide

theorem test_wf_tasks : ∀ c ∈ [Instr.lookup 1024 0, .lookup 0 (2 ^ 32), .retainedMapRelease 256 0 0, .retainedMapRelease 0 (2 ^ 32) 0,
    .retainedMapRelease 0 0 (2 ^ 56), .armingStart 256 0, .armingStart 0 4096, .semWaitServed 256 0, .semWaitServed 0 4096,
    .pitterUnitGrant 0 0 64, .rowTransitArrive 0 0 (2 ^ 64) 0, .rowTransitArrive 0 0 0 512, .rowDeposit 0 0 0 (2 ^ 40) 0 0,
    .rowDeposit 0 0 0 0 0 (2 ^ 20), .bagOpen 0 0 (2 ^ 24) 0, .bagOpen 0 0 0 512, .bagFinish 0 0 (2 ^ 24), .rowProgramStart 0 0 0 ⟨2 ^ 20, []⟩,
    .chunkStart (2 ^ 20), .cleanWriteDone 65536 0, .cleanWriteDone 0 (2 ^ 48)], c.wf = false := by
  decide

theorem test_wf_row_program : ∀ c ∈ [Instr.fadd (2 ^ 20) zeroOp, .fadd 0 { zeroOp with pred := 4 }, .fadd 0 { zeroOp with dst := 32 },
    .fadd 0 { zeroOp with srcA := 32 }, .fadd 0 { zeroOp with srcB := 32 }, .fadd 0 { zeroOp with srcC := 32 }], c.wf = false := by
  decide

theorem test_wf_ports : ∀ c ∈ [Instr.ucieLinkUp 8 64, .ucieLinkUp 0 129, .ucieLinkDown 8, .ucieNak 0 65536, .ucieDebugAccess 0 (2 ^ 24) false 0,
    .headwindRefill 16 0 0, .headwindRefill 0 28 0, .priResponse 65536 0, .priResponse 0 16, .priResponseTimeout 65536, .t4Timeout (2 ^ 32),
    .hostLinkRetrain 129, .peerLinkUp 12 4, .peerLinkUp 0 129, .peerFlitReceive 12 [], .peerFlitReceive 0 [], .probeReq badPort,
    .probeReq badUnits, .enumTokenOffer 12 false 0 0, .enumTokenOffer 0 false 17 0, .chainTable badPort.port badPort.hdr badPort.payload], c.wf = false := by
  decide

theorem test_wf_faults : ∀ c ∈ [Instr.patrolScrubBank (2 ^ 20) 0 none 0, .patrolScrubBank 0 384 none 0, .patrolScrubHbm (2 ^ 39) [0, 0, 0, 0],
    .patrolScrubHbm 0 [], .correctedSummary 16, .rowRepairDone (2 ^ 39) none, .channelRetireDone 12 0, .channelRetireDone 0 256,
    .bondFlitReceive 256 0 [] false none, .bondFlitReceive 0 2 [] false none, .bondFlitReceive 0 0 [] false none,
    .slotDeadline 4096 0 0, .slotDeadline 0 (2 ^ 64) 0, .slotDeadline 0 0 16, .combinerUnreachableDeadline 4096 0,
    .combinerUnreachableDeadline 0 16], c.wf = false := by
  decide

theorem test_wf_sideband : ∀ c ∈ [Instr.i3cPrivateRead 65536, .entdaa 128, .setmwl 65536, .getCertificate 16, .getMeasurements 256], c.wf = false := by
  decide

theorem test_wf_takes_bounds : ∀ c ∈ [Instr.islandClockLockLoss 511, .headwindRefill 15 27 0, .lookup 1023 (2 ^ 32 - 1), .entdaa 127, .chainTable 11 badPort.hdr badPort.payload],
    c.wf = true := by
  decide

end Sys2Proof.Tests
end

section
/-! SUPPORT. What a fault record, an interrupt cause and a change of ENG_STATE leave alone, as facts about `SameButReports`. -/

namespace Sys2Proof

open Sys2Proof.Machine

/-! ### States that differ in reports only -/

/-- The states that differ from `s` in reports only are those in which the report fields alone are written. -/
theorem sameButReports_iff {s t : State} : SameButReports s t ↔ ∃ e c q m i n o u,
    t = { s with events := e, counters := c, fq := q, hostMem := m, irq := i, i3c := n, sent := o
                 links := { s.links with ucie := u } } := by
  constructor
  · intro h
    exact ⟨_, _, _, _, _, _, _, _, h⟩
  · rintro ⟨e, c, q, m, i, n, o, u, rfl⟩
    rfl

theorem SameButReports.refl (s : State) : SameButReports s s := rfl

theorem SameButReports.trans {s t u : State} (h₁ : SameButReports s t) (h₂ : SameButReports t u) : SameButReports s u := by
  obtain ⟨_, _, _, _, _, _, _, _, rfl⟩ := sameButReports_iff.mp h₁
  obtain ⟨_, _, _, _, _, _, _, _, rfl⟩ := sameButReports_iff.mp h₂
  rfl

theorem SameButReports.sys_eq {s t : State} (h : SameButReports s t) : t.sys = s.sys := by
  unfold SameButReports at h
  rw [h]

theorem SameButReports.fw_eq {s t : State} (h : SameButReports s t) : t.fw = s.fw := by
  unfold SameButReports at h
  rw [h]

theorem SameButReports.mpLower_eq {s t : State} (h : SameButReports s t) : t.mpLower = s.mpLower := by
  unfold SameButReports at h
  rw [h]

theorem SameButReports.mpUpper_eq {s t : State} (h : SameButReports s t) : t.mpUpper = s.mpUpper := by
  unfold SameButReports at h
  rw [h]

end Sys2Proof

namespace Sys2Proof.Machine

/-! ### Fault records (R393, R456) -/

/-- A fault record changes nothing but reports. -/
theorem faultRecord_sameButReports (r : FaultRecord) (s : State) : SameButReports s (faultRecord r s) := by
  obtain ⟨q, m, u, i, o, h⟩ := faultRecord_frame r s
  rw [h]
  rfl

@[simp] theorem faultRecord_sys (r : FaultRecord) (s : State) : (faultRecord r s).sys = s.sys :=
  (faultRecord_sameButReports r s).sys_eq

@[simp] theorem faultRecord_fw (r : FaultRecord) (s : State) : (faultRecord r s).fw = s.fw :=
  (faultRecord_sameButReports r s).fw_eq

@[simp] theorem faultRecord_mpLower (r : FaultRecord) (s : State) : (faultRecord r s).mpLower = s.mpLower :=
  (faultRecord_sameButReports r s).mpLower_eq

@[simp] theorem faultRecord_mpUpper (r : FaultRecord) (s : State) : (faultRecord r s).mpUpper = s.mpUpper :=
  (faultRecord_sameButReports r s).mpUpper_eq

/-- A written record takes a place of the queue, and no RECORD_SEQ. -/
theorem fqWrite_recordSeq (r : FaultRecord) (s : State) : (fqWrite r s).fq.recordSeq = s.fq.recordSeq := by
  obtain ⟨m, u, i, o, h⟩ := fqWrite_frame r s
  rw [h]

/-- Every fault record takes one RECORD_SEQ, written or not (R393, R456). -/
@[simp] theorem faultRecord_recordSeq (r : FaultRecord) (s : State) :
    (faultRecord r s).fq.recordSeq = seqNext 32 s.fq.recordSeq := by
  unfold faultRecord
  dsimp only
  split
  · split <;> rfl
  · exact fqWrite_recordSeq _ _

/-! ### Interrupt causes (R394) -/

/-- The bit of a cause is among the seven of the register. -/
theorem Cause.testBit_mask (c : Cause) : (BitVec.ofNat 7 (2 ^ c.index)).toNat.testBit c.index = true := by
  cases c <;> decide

/-- The message of a vector changes no cause. -/
theorem sendVector_causes (v : Nat) (s : State) : (sendVector v s).irq.causes = s.irq.causes := by
  unfold sendVector
  split
  · obtain ⟨u, o, h⟩ := postMsg_frame s.sys.cfg.ucieVectorModule 4 0 (toBytes 16 v) s
    rw [h]
  · dsimp only
    split
    · rfl
    · split <;> rfl

/-- A raised cause is 1. -/
theorem raiseCause_sets (c : Cause) (s : State) : (raiseCause c s).irq.causes.toNat.testBit c.index = true := by
  unfold raiseCause
  split
  · assumption
  · have hbit : (s.irq.causes ||| BitVec.ofNat 7 (2 ^ c.index)).toNat.testBit c.index = true := by
      rw [BitVec.toNat_or, Nat.testBit_or, c.testBit_mask, Bool.or_true]
    dsimp only
    split
    · rw [sendVector_causes]
      exact hbit
    · exact hbit

/-! ### ENG_STATE and SAFE (R354) -/

@[simp] theorem raiseIbi_irq (k : Nat) (s : State) : (raiseIbi k s).irq = s.irq := by
  obtain ⟨i, o, h⟩ := raiseIbi_frame k s
  rw [h]

/-- A change of ENG_STATE sets cause STATE_CHANGE. -/
theorem setEngState_raises (st : EngState) (s : State) (h : s.sys.engState ≠ st) :
    (setEngState st s).irq.causes.toNat.testBit Cause.stateChange.index = true := by
  unfold setEngState
  rw [if_neg h, raiseIbi_irq]
  exact raiseCause_sets .stateChange _

/-- The frozen form of SAFE is STATE, SAFE_CAUSE and the freeze; the rest is reports of the change. -/
theorem enterSafe_frozen (c : SafeCause) (s : State) : ∃ u i o t, enterSafe c true s = { s with
    sys := { s.sys with engState := .safe, safeCause := c, frozen := true }
    links := { s.links with ucie := u }, irq := i, sent := o, i3c := t } := by
  obtain ⟨u, i, o, t, h⟩ := setEngState_frame .safe { s with sys := { s.sys with safeCause := c } }
  exact ⟨u, i, o, t, by simp [enterSafe, whenS, h]⟩

@[simp] theorem enterSafe_frozen_sys (c : SafeCause) (s : State) :
    (enterSafe c true s).sys = { s.sys with engState := .safe, safeCause := c, frozen := true } := by
  obtain ⟨u, i, o, t, h⟩ := enterSafe_frozen c s
  rw [h]

@[simp] theorem enterSafe_frozen_fq (c : SafeCause) (s : State) : (enterSafe c true s).fq = s.fq := by
  obtain ⟨u, i, o, t, h⟩ := enterSafe_frozen c s
  rw [h]

theorem enterSafe_frozen_sameButReports (c : SafeCause) (s : State) :
    SameButReports { s with sys := (enterSafe c true s).sys } (enterSafe c true s) := by
  obtain ⟨u, i, o, t, h⟩ := enterSafe_frozen c s
  rw [h]
  rfl

/-- Entry into SAFE from another state sets cause STATE_CHANGE. -/
theorem enterSafe_raises (c : SafeCause) (s : State) (h : s.sys.engState ≠ .safe) :
    (enterSafe c true s).irq.causes.toNat.testBit Cause.stateChange.index = true :=
  setEngState_raises .safe { s with sys := { s.sys with safeCause := c } } h

end Sys2Proof.Machine
end

section
/-! SUPPORT. The management processors: what reads and writes of their state do, and what a failure, a restart and a sequencer's
loss change (R461 to R464). -/

namespace Sys2Proof.Machine

/-! ### Reads after writes -/

@[simp] theorem mpOf_putMp (half : Nat) (m : MpState) (s : State) : mpOf (putMp half m s) half = m := by
  by_cases h : half = 0 <;> simp [mpOf, putMp, h]

@[simp] theorem mpUp_setMpUp (half : Nat) (b : Bool) (s : State) : mpUp (setMpUp half b s) half = b := by
  by_cases h : half = 0 <;> simp [mpUp, setMpUp, h]

@[simp] theorem mpOf_setMpUp (half k : Nat) (b : Bool) (s : State) : mpOf (setMpUp half b s) k = mpOf s k := rfl

@[simp] theorem mpUp_putMp (half k : Nat) (m : MpState) (s : State) : mpUp (putMp half m s) k = mpUp s k := by
  by_cases h : half = 0 <;> simp [mpUp, putMp, h]

theorem half_cases {half : Nat} (h : half < 2) : half = 0 ∨ half = 1 := by omega

theorem mpOf_putMp_other {half : Nat} (h : half < 2) (m : MpState) (s : State) :
    mpOf (putMp half m s) (1 - half) = mpOf s (1 - half) := by
  obtain rfl | rfl := half_cases h <;> rfl

theorem mpUp_setMpUp_other {half : Nat} (h : half < 2) (b : Bool) (s : State) :
    mpUp (setMpUp half b s) (1 - half) = mpUp s (1 - half) := by
  obtain rfl | rfl := half_cases h <;> rfl

/-- A processor's state is a field of its own. -/
theorem putMp_frame (half : Nat) (m : MpState) (s : State) : ∃ l u, putMp half m s = { s with mpLower := l, mpUpper := u } := by
  unfold putMp
  split
  · exact ⟨m, s.mpUpper, rfl⟩
  · exact ⟨s.mpLower, m, rfl⟩

theorem putMp_eq (half : Nat) (m : MpState) (s : State) :
    putMp half m s = { s with mpLower := (putMp half m s).mpLower, mpUpper := (putMp half m s).mpUpper } := by
  obtain ⟨l, u, h⟩ := putMp_frame half m s
  rw [h]

@[simp] theorem putMp_sys (half : Nat) (m : MpState) (s : State) : (putMp half m s).sys = s.sys := by
  obtain ⟨l, u, h⟩ := putMp_frame half m s
  rw [h]

@[simp] theorem putMp_fq (half : Nat) (m : MpState) (s : State) : (putMp half m s).fq = s.fq := by
  obtain ⟨l, u, h⟩ := putMp_frame half m s
  rw [h]

@[simp] theorem putMp_fw (half : Nat) (m : MpState) (s : State) : (putMp half m s).fw = s.fw := by
  obtain ⟨l, u, h⟩ := putMp_frame half m s
  rw [h]

@[simp] theorem setMpUp_fq (half : Nat) (b : Bool) (s : State) : (setMpUp half b s).fq = s.fq := rfl

@[simp] theorem setMpUp_fw (half : Nat) (b : Bool) (s : State) : (setMpUp half b s).fw = s.fw := rfl

@[simp] theorem setMpUp_engState (half : Nat) (b : Bool) (s : State) : (setMpUp half b s).sys.engState = s.sys.engState := by
  by_cases h : half = 0 <;> simp [setMpUp, h]

@[simp] theorem setMpUp_frozen (half : Nat) (b : Bool) (s : State) : (setMpUp half b s).sys.frozen = s.sys.frozen := by
  by_cases h : half = 0 <;> simp [setMpUp, h]

@[simp] theorem mpOf_faultRecord (r : FaultRecord) (s : State) (k : Nat) : mpOf (faultRecord r s) k = mpOf s k := by
  simp [mpOf]

@[simp] theorem mpUp_faultRecord (r : FaultRecord) (s : State) (k : Nat) : mpUp (faultRecord r s) k = mpUp s k := by
  simp [mpUp]

/-! ### What the processors' rows may change -/

/-- Nothing differs but ENG_STATE and its neighbours, the two processors and reports: no table, task or byte of memory. -/
def SameButProcessors (s t : State) : Prop :=
  SameButReports { s with sys := t.sys, mpLower := t.mpLower, mpUpper := t.mpUpper } t

theorem SameButProcessors.trans {s t u : State} (h₁ : SameButProcessors s t) (h₂ : SameButProcessors t u) :
    SameButProcessors s u := by
  obtain ⟨_, _, _, _, _, _, _, _, h₁⟩ := sameButReports_iff.mp h₁
  obtain ⟨_, _, _, _, _, _, _, _, h₂⟩ := sameButReports_iff.mp h₂
  unfold SameButProcessors SameButReports
  rw [h₂, h₁]

theorem sameButProcessors_of_reports {s t : State} (h : SameButReports s t) : SameButProcessors s t := by
  unfold SameButProcessors
  rwa [h.sys_eq, h.mpLower_eq, h.mpUpper_eq]

theorem sameButProcessors_sys (y : Sys) (s : State) : SameButProcessors s { s with sys := y } := rfl

theorem putMp_sameButProcessors (half : Nat) (m : MpState) (s : State) : SameButProcessors s (putMp half m s) := by
  obtain ⟨l, u, h⟩ := putMp_frame half m s
  rw [h]
  rfl

theorem setMpUp_sameButProcessors (half : Nat) (b : Bool) (s : State) : SameButProcessors s (setMpUp half b s) :=
  sameButProcessors_sys _ s

theorem faultRecord_sameButProcessors (r : FaultRecord) (s : State) : SameButProcessors s (faultRecord r s) :=
  sameButProcessors_of_reports (faultRecord_sameButReports r s)

theorem enterSafe_frozen_sameButProcessors (c : SafeCause) (s : State) : SameButProcessors s (enterSafe c true s) :=
  (sameButProcessors_sys _ s).trans (sameButProcessors_of_reports (enterSafe_frozen_sameButReports c s))

/-! ### A processor fails (R461 to R463) -/

/-- The processor of a half is down, and its failure is noted and recorded. -/
def mpDown (half : Nat) (s : State) : State :=
  faultRecord (recoveryRecord 1 half 0) (setMpUp half false
    (putMp half { mpOf s half with failed := true, failedAt := s.clock, handedOver := false, restarts := 0 } s))

/-- A failure takes the processor down; without the other processor R463 applies. -/
theorem mpFail_eq (half : Nat) (s : State) :
    mpFail half s = if mpUp (mpDown half s) (1 - half) then mpDown half s else bothMpFailed half (mpDown half s) := rfl

@[simp] theorem mpUp_mpDown (half : Nat) (s : State) : mpUp (mpDown half s) half = false := by simp [mpDown]

theorem mpUp_mpDown_other {half : Nat} (h : half < 2) (s : State) : mpUp (mpDown half s) (1 - half) = mpUp s (1 - half) := by
  simp [mpDown, mpUp_setMpUp_other h]

@[simp] theorem mpOf_mpDown (half : Nat) (s : State) : mpOf (mpDown half s) half =
    { mpOf s half with failed := true, failedAt := s.clock, handedOver := false, restarts := 0 } := by
  simp [mpDown]

@[simp] theorem mpDown_engState (half : Nat) (s : State) : (mpDown half s).sys.engState = s.sys.engState := by simp [mpDown]

@[simp] theorem mpDown_frozen (half : Nat) (s : State) : (mpDown half s).sys.frozen = s.sys.frozen := by simp [mpDown]

@[simp] theorem mpDown_recordSeq (half : Nat) (s : State) : (mpDown half s).fq.recordSeq = seqNext 32 s.fq.recordSeq := by
  simp [mpDown]

theorem mpDown_sameButProcessors (half : Nat) (s : State) : SameButProcessors s (mpDown half s) :=
  ((putMp_sameButProcessors half _ s).trans (setMpUp_sameButProcessors half false _)).trans
    (faultRecord_sameButProcessors _ _)

/-- Both processors down: the device is in SAFE with RECOVERY_FAILED, frozen, and EFPEL_PROTOCOL is 0 again (R3, R463). -/
@[simp] theorem bothMpFailed_sys (half : Nat) (s : State) : (bothMpFailed half s).sys =
    { s.sys with engState := .safe, safeCause := .recoveryFailed, frozen := true, protocol := 0 } := by
  simp [bothMpFailed]

@[simp] theorem bothMpFailed_recordSeq (half : Nat) (s : State) :
    (bothMpFailed half s).fq.recordSeq = seqNext 32 s.fq.recordSeq := by
  simp [bothMpFailed]

@[simp] theorem mpUp_bothMpFailed (half k : Nat) (s : State) : mpUp (bothMpFailed half s) k = mpUp s k := by
  simp [mpUp]

theorem bothMpFailed_raises (half : Nat) (s : State) (h : s.sys.engState ≠ .safe) :
    (bothMpFailed half s).irq.causes.toNat.testBit Cause.stateChange.index = true := by
  refine enterSafe_raises .recoveryFailed _ ?_
  simpa using h

theorem bothMpFailed_sameButProcessors (half : Nat) (s : State) : SameButProcessors s (bothMpFailed half s) :=
  ((faultRecord_sameButProcessors _ s).trans (sameButProcessors_sys _ _)).trans
    (enterSafe_frozen_sameButProcessors .recoveryFailed _)

/-! ### A processor restarts (R462) -/

/-- The processor of a half is up again, and its down time is recorded. -/
def mpRestored (half : Nat) (s : State) : State :=
  faultRecord (recoveryRecord 2 half ((s.clock - (mpOf s half).failedAt) / 100)) (setMpUp half true
    (putMp half { mpOf s half with failed := false, restarting := false, handedOver := false, restarts := 0 } s))

/-- After the lower processor's restart a waiting ACTIVATE begins (log entry 14). -/
theorem mpRejoin_eq (half : Nat) (s : State) :
    mpRejoin half s = if half = 0 then startActivate (mpRestored half s) else mpRestored half s := rfl

@[simp] theorem mpUp_mpRestored (half : Nat) (s : State) : mpUp (mpRestored half s) half = true := by simp [mpRestored]

theorem mpUp_mpRestored_other {half : Nat} (h : half < 2) (s : State) :
    mpUp (mpRestored half s) (1 - half) = mpUp s (1 - half) := by
  simp [mpRestored, mpUp_setMpUp_other h]

@[simp] theorem mpOf_mpRestored (half : Nat) (s : State) : mpOf (mpRestored half s) half =
    { mpOf s half with failed := false, restarting := false, handedOver := false, restarts := 0 } := by
  simp [mpRestored]

@[simp] theorem mpRestored_fw (half : Nat) (s : State) : (mpRestored half s).fw = s.fw := by simp [mpRestored]

@[simp] theorem mpRestored_recordSeq (half : Nat) (s : State) :
    (mpRestored half s).fq.recordSeq = seqNext 32 s.fq.recordSeq := by
  simp [mpRestored]

theorem mpRestored_sameButProcessors (half : Nat) (s : State) : SameButProcessors s (mpRestored half s) :=
  ((putMp_sameButProcessors half _ s).trans (setMpUp_sameButProcessors half true _)).trans
    (faultRecord_sameButProcessors _ _)

/-- The upper processor goes down to start the staged image. -/
theorem startActivate_begins {s : State} (ha : s.fw.activating = true) (hs : s.fw.activateStep = 0) (hu : mpUp s 0 = true) :
    startActivate s = setMpUp 1 false
      (putMp 1 { s.mpUpper with restarting := true, failedAt := s.clock, failed := false, gaveUp := false } s) := by
  unfold startActivate
  exact if_pos ⟨ha, hs, hu⟩

theorem startActivate_none {s : State} (h : s.fw.activating = false ∨ s.fw.activateStep ≠ 0) : startActivate s = s := by
  unfold startActivate
  refine if_neg ?_
  rintro ⟨ha, hs, -⟩
  exact h.elim (by simp [ha]) (absurd hs)

theorem startActivate_sameButProcessors (s : State) : SameButProcessors s (startActivate s) := by
  unfold startActivate
  split
  · exact (putMp_sameButProcessors 1 _ s).trans (setMpUp_sameButProcessors 1 false _)
  · exact sameButProcessors_of_reports (SameButReports.refl s)

theorem mpRejoin_quiet {half : Nat} {s : State} (h : half = 1 ∨ s.fw.activating = false ∨ s.fw.activateStep ≠ 0) :
    mpRejoin half s = mpRestored half s := by
  rw [mpRejoin_eq]
  split
  · next h0 => exact startActivate_none (by simpa [h0] using h)
  · rfl

/-! ### The rows, while the state is not frozen (R461 to R464) -/

theorem exec_mpHeartbeat {half : Nat} {s : State} (hf : s.sys.frozen = false) (hh : half < 2) (hu : mpUp s half = true) :
    exec (.mpHeartbeat half) s = .next (putMp half { mpOf s half with lastBeat := s.clock } s) :=
  (live_next _ hf).trans (by simp [hh, hu])

theorem exec_mpFailure {half : Nat} {s : State} {c : Instr} (hc : c = .mpFatalTrap half ∨ c = .mpFailureDeclared half)
    (hf : s.sys.frozen = false) (hh : half < 2) (hu : mpUp s half = true) : exec c s = .next (mpFail half s) := by
  obtain rfl | rfl := hc
  · exact (live_next _ hf).trans (by simp [hh, hu])
  · exact (live_next _ hf).trans (by simp [hh, hu])

theorem exec_mpHandoverDone {half : Nat} {s : State} (hf : s.sys.frozen = false) (hh : half < 2)
    (hm : (mpOf s half).failed = true) (hd : (mpOf s half).handedOver = false) (hu : mpUp s (1 - half) = true) :
    exec (.mpHandoverDone half) s = .next (putMp half { mpOf s half with handedOver := true, restarting := true } s) :=
  (live_next _ hf).trans (by simp [hh, hm, hd, hu])

theorem exec_mpRestartDone {half : Nat} {s : State} (ok : Bool) (hf : s.sys.frozen = false) (hh : half < 2)
    (hm : (mpOf s half).failed = true) (hr : (mpOf s half).restarting = true) :
    exec (.mpRestartDone half ok) s = .next (if ok then mpRejoin half s else mpRestartFail half s) :=
  (live_next _ hf).trans (by simp [hh, hm, hr])

theorem exec_sequencerMismatch {half : Nat} {s : State} (hf : s.sys.frozen = false) (hh : half < 2)
    (ho : (mpOf s half).sequencerOut = false) (he : s.sys.engState ≠ .reset) :
    exec (.sequencerMismatch half) s =
      .next (faultRecord (recoveryRecord 4 half 0) (putMp half { mpOf s half with sequencerOut := true } s)) :=
  (live_next _ hf).trans (by simp [hh, ho, he])

theorem exec_watchdogSafe {s : State} (hf : s.sys.frozen = false) (hl : s.mpLower.sequencerOut = true)
    (hu : s.mpUpper.sequencerOut = true) : exec .watchdogSafe s = .next (enterSafe .recoveryFailed true s) :=
  (live_next _ hf).trans (by simp [hl, hu])

/-! ### What each row does -/

/-- A heartbeat is noted, and nothing else. -/
theorem mpHeartbeat_notes {half : Nat} {s : State} (hf : s.sys.frozen = false) (hh : half < 2) (hu : mpUp s half = true) :
    Completes (.mpHeartbeat half) s fun t =>
      (mpOf t half).lastBeat = s.clock ∧ mpOf t (1 - half) = mpOf s (1 - half) ∧
        t = { s with mpLower := t.mpLower, mpUpper := t.mpUpper } := by
  refine ⟨_, exec_mpHeartbeat hf hh hu, by simp, mpOf_putMp_other hh _ s, ?_⟩
  exact putMp_eq half _ s

/-- A failure while the other processor runs: the device keeps running, in the state it was in (R461, R462). -/
theorem mpFailure_survived {half : Nat} {s : State} {c : Instr} (hc : c = .mpFatalTrap half ∨ c = .mpFailureDeclared half)
    (hf : s.sys.frozen = false) (hh : half < 2) (hu : mpUp s half = true) (ho : mpUp s (1 - half) = true) :
    Completes c s fun t =>
      mpUp t half = false ∧ mpUp t (1 - half) = true ∧ (mpOf t half).failed = true ∧ (mpOf t half).failedAt = s.clock ∧
      t.sys.engState = s.sys.engState ∧ t.sys.frozen = false ∧ t.fq.recordSeq = seqNext 32 s.fq.recordSeq ∧
      SameButProcessors s t := by
  have other : mpUp (mpDown half s) (1 - half) = true := (mpUp_mpDown_other hh s).trans ho
  refine ⟨mpDown half s, ?_, by simp, other, by simp, by simp, by simp, by simp [hf], by simp, mpDown_sameButProcessors half s⟩
  rw [exec_mpFailure hc hf hh hu, mpFail_eq, if_pos other]

/-- A failure while the other processor is down freezes the state in SAFE (R463). -/
theorem mpFailure_of_both {half : Nat} {s : State} {c : Instr} (hc : c = .mpFatalTrap half ∨ c = .mpFailureDeclared half)
    (hf : s.sys.frozen = false) (hh : half < 2) (hu : mpUp s half = true) (ho : mpUp s (1 - half) = false) :
    Completes c s fun t =>
      mpUp t half = false ∧ mpUp t (1 - half) = false ∧ t.sys.engState = .safe ∧ t.sys.safeCause = .recoveryFailed ∧
      t.sys.frozen = true ∧ t.sys.protocol = 0 ∧ t.fq.recordSeq = seqNext 32 (seqNext 32 s.fq.recordSeq) ∧
      (s.sys.engState ≠ .safe → t.irq.causes.toNat.testBit Cause.stateChange.index = true) ∧ SameButProcessors s t := by
  have other : mpUp (mpDown half s) (1 - half) = false := (mpUp_mpDown_other hh s).trans ho
  refine ⟨bothMpFailed half (mpDown half s), ?_, by simp, by simp [other], by simp, by simp, by simp, by simp, by simp, ?_, ?_⟩
  · rw [exec_mpFailure hc hf hh hu, mpFail_eq, if_neg (by simp [other])]
  · intro he
    exact bothMpFailed_raises half _ (by simpa using he)
  · exact (mpDown_sameButProcessors half s).trans (bothMpFailed_sameButProcessors half _)

/-- The survivor holds the duties, and the failed processor restarts (R462). -/
theorem mpHandoverDone_restarts {half : Nat} {s : State} (hf : s.sys.frozen = false) (hh : half < 2)
    (hm : (mpOf s half).failed = true) (hd : (mpOf s half).handedOver = false) (hu : mpUp s (1 - half) = true) :
    Completes (.mpHandoverDone half) s fun t =>
      mpOf t half = { mpOf s half with handedOver := true, restarting := true } ∧ mpOf t (1 - half) = mpOf s (1 - half) ∧
      t = { s with mpLower := t.mpLower, mpUpper := t.mpUpper } :=
  ⟨_, exec_mpHandoverDone hf hh hm hd hu, mpOf_putMp half _ s, mpOf_putMp_other hh _ s, putMp_eq half _ s⟩

/-- A restart of the lower processor that succeeds begins an ACTIVATE that waited for it (log entry 14). -/
theorem mpRestartDone_activates {s : State} (hf : s.sys.frozen = false) (hm : (mpOf s 0).failed = true)
    (hr : (mpOf s 0).restarting = true) (ha : s.fw.activating = true) (hs : s.fw.activateStep = 0) :
    Completes (.mpRestartDone 0 true) s fun t =>
      mpUp t 0 = true ∧ mpUp t 1 = false ∧ t.mpUpper.restarting = true ∧ t.mpLower.failed = false ∧ SameButProcessors s t := by
  have begins := startActivate_begins (s := mpRestored 0 s) (by simpa using ha) (by simpa using hs) (mpUp_mpRestored 0 s)
  have lower : (mpRestored 0 s).mpLower = { mpOf s 0 with failed := false, restarting := false, handedOver := false, restarts := 0 } :=
    mpOf_mpRestored 0 s
  refine ⟨startActivate (mpRestored 0 s), exec_mpRestartDone true hf (by decide) hm hr, ?_, ?_, ?_, ?_, ?_⟩
  · rw [begins]
    exact mpUp_mpRestored 0 s
  · rw [begins]
    exact mpUp_setMpUp 1 false _
  · rw [begins]
    rfl
  · rw [begins]
    exact congrArg MpState.failed lower
  · exact (mpRestored_sameButProcessors 0 s).trans (startActivate_sameButProcessors _)

/-- A restart that succeeds brings the processor up again, with its down time recorded (R462). -/
theorem mpRestartDone_rejoins {half : Nat} {s : State} (hf : s.sys.frozen = false) (hh : half < 2)
    (hm : (mpOf s half).failed = true) (hr : (mpOf s half).restarting = true)
    (hq : half = 1 ∨ s.fw.activating = false ∨ s.fw.activateStep ≠ 0) :
    Completes (.mpRestartDone half true) s fun t =>
      mpUp t half = true ∧ mpUp t (1 - half) = mpUp s (1 - half) ∧ (mpOf t half).failed = false ∧
      (mpOf t half).restarting = false ∧ t.fq.recordSeq = seqNext 32 s.fq.recordSeq ∧ SameButProcessors s t := by
  refine ⟨mpRestored half s, ?_, by simp, mpUp_mpRestored_other hh s, by simp, by simp, by simp, mpRestored_sameButProcessors half s⟩
  rw [exec_mpRestartDone true hf hh hm hr, if_pos rfl, mpRejoin_quiet hq]

/-- The first two restarts that fail are only counted (R462). -/
theorem mpRestartDone_retries {half : Nat} {s : State} (hf : s.sys.frozen = false) (hh : half < 2)
    (hm : (mpOf s half).failed = true) (hr : (mpOf s half).restarting = true) (hn : (mpOf s half).restarts < 2) :
    Completes (.mpRestartDone half false) s fun t =>
      (mpOf t half).restarts = (mpOf s half).restarts + 1 ∧ (mpOf t half).restarting = true ∧ t.sys = s.sys ∧ t.fq = s.fq := by
  refine ⟨putMp half { mpOf s half with restarts := (mpOf s half).restarts + 1 } s, ?_, by simp, by simp [hr], by simp, by simp⟩
  simp [exec_mpRestartDone false hf hh hm hr, mpRestartFail, hn]

/-- The third restart that fails leaves the half without its processor, and is recorded (R462). -/
theorem mpRestartDone_givesUp {half : Nat} {s : State} (hf : s.sys.frozen = false) (hh : half < 2)
    (hm : (mpOf s half).failed = true) (hr : (mpOf s half).restarting = true) (hn : (mpOf s half).restarts = 2) :
    Completes (.mpRestartDone half false) s fun t =>
      (mpOf t half).gaveUp = true ∧ (mpOf t half).restarting = false ∧ t.sys = s.sys ∧
      t.fq.recordSeq = seqNext 32 s.fq.recordSeq := by
  refine ⟨mpRestartFail half s, exec_mpRestartDone false hf hh hm hr, ?_⟩
  simp [mpRestartFail, hn]

/-- A sequencer whose copies disagree is out, and recorded (R464). -/
theorem sequencerMismatch_recorded {half : Nat} {s : State} (hf : s.sys.frozen = false) (hh : half < 2)
    (ho : (mpOf s half).sequencerOut = false) (he : s.sys.engState ≠ .reset) :
    Completes (.sequencerMismatch half) s fun t =>
      (mpOf t half).sequencerOut = true ∧ mpOf t (1 - half) = mpOf s (1 - half) ∧
      t.fq.recordSeq = seqNext 32 s.fq.recordSeq ∧
      SameButReports { s with mpLower := t.mpLower, mpUpper := t.mpUpper } t := by
  refine ⟨_, exec_sequencerMismatch hf hh ho he, by simp, ?_, by simp, ?_⟩
  · rw [mpOf_faultRecord, mpOf_putMp_other hh]
  · rw [faultRecord_mpLower, faultRecord_mpUpper, ← putMp_eq]
    exact faultRecord_sameButReports _ _

/-- With both sequencers out the watchdogs freeze the state in SAFE (R464). -/
theorem watchdogSafe_freezes {s : State} (hf : s.sys.frozen = false) (hl : s.mpLower.sequencerOut = true)
    (hu : s.mpUpper.sequencerOut = true) :
    Completes .watchdogSafe s fun t =>
      t.sys = { s.sys with engState := .safe, safeCause := .recoveryFailed, frozen := true } ∧
      SameButReports { s with sys := t.sys } t :=
  ⟨_, exec_watchdogSafe hf hl hu, enterSafe_frozen_sys _ s, enterSafe_frozen_sameButReports _ s⟩

end Sys2Proof.Machine

namespace Sys2Proof

open Sys2Proof.Machine

/-- Settles O11: each row of R461 to R464 in its own lemma above; that no table, task or byte of memory changes is
`SameButProcessors`, which every update that the rows are made of keeps. -/
theorem processorsFailOver : Obligations.ProcessorsFailOver := by
  unfold Obligations.ProcessorsFailOver
  intro h s hh hf
  refine ⟨mpHeartbeat_notes hf hh, fun c hc => mpFailure_survived hc hf hh, fun c hc => mpFailure_of_both hc hf hh,
    mpHandoverDone_restarts hf hh, ?_, mpRestartDone_rejoins hf hh, mpRestartDone_retries hf hh,
    mpRestartDone_givesUp hf hh, sequencerMismatch_recorded hf hh, watchdogSafe_freezes hf⟩
  rintro rfl
  exact mpRestartDone_activates hf

end Sys2Proof
end

section
/-! SUPPORT. Bit fields: what a field reads in a number packed from fields, and in a block with one field replaced. -/

namespace Sys2Proof.Machine

/-! ### One field of a number -/

/-- Bit `i` of a field is bit `lo + i` of the number. -/
theorem testBit_bitsOf (x lo len i : Nat) : (bitsOf x lo len).testBit i = (decide (i < len) && x.testBit (lo + i)) := by
  rw [bitsOf, Nat.testBit_mod_two_pow, Nat.testBit_shiftRight]

/-- A field above every bit of the number reads zero. -/
theorem bitsOf_eq_zero {x lo : Nat} (len : Nat) (h : x < 2 ^ lo) : bitsOf x lo len = 0 := by
  rw [bitsOf, Nat.shiftRight_eq_div_pow, Nat.div_eq_of_lt h, Nat.zero_mod]

/-- A field below every bit of the number reads zero. -/
theorem bitsOf_eq_zero_of_dvd {x lo len m : Nat} (h : 2 ^ m ∣ x) (hm : lo + len ≤ m) : bitsOf x lo len = 0 := by
  obtain ⟨c, rfl⟩ := Nat.dvd_trans (Nat.pow_dvd_pow 2 hm) h
  rw [bitsOf, Nat.shiftRight_eq_div_pow, Nat.pow_add, Nat.mul_assoc, Nat.mul_div_cancel_left _ (Nat.two_pow_pos lo),
    Nat.mul_mod_right]

/-- A field that holds every bit of the number reads the number. -/
theorem bitsOf_eq_self {x len : Nat} (h : x < 2 ^ len) : bitsOf x 0 len = x := Nat.mod_eq_of_lt h

/-- A number is the field of its low bits and the rest above it. -/
theorem bitsOf_low_add_high {x m n : Nat} (h : x < 2 ^ (m + n)) : bitsOf x 0 m + bitsOf x m n * 2 ^ m = x := by
  have hhi : bitsOf x m n = x / 2 ^ m := by
    rw [bitsOf, Nat.shiftRight_eq_div_pow]
    exact Nat.mod_eq_of_lt (Nat.div_lt_of_lt_mul (by rwa [← Nat.pow_add]))
  rw [hhi, bitsOf, Nat.shiftRight_zero, Nat.mul_comm]
  exact Nat.mod_add_div x (2 ^ m)

/-- Fields of a sum whose terms share no bits add up. -/
theorem bitsOf_add {a b m : Nat} (ha : a < 2 ^ m) (hb : 2 ^ m ∣ b) (lo len : Nat) :
    bitsOf (a + b) lo len = bitsOf a lo len + bitsOf b lo len := by
  obtain ⟨c, rfl⟩ := hb
  simp only [bitsOf, Nat.shiftRight_eq_div_pow]
  rcases Nat.le_total m lo with h | h
  · obtain ⟨d, rfl⟩ := Nat.exists_eq_add_of_le h
    simp only [Nat.pow_add, ← Nat.div_div_eq_div_mul]
    rw [Nat.add_mul_div_left _ _ (Nat.two_pow_pos m), Nat.mul_div_cancel_left _ (Nat.two_pow_pos m), Nat.div_eq_of_lt ha,
      Nat.zero_add, Nat.zero_div, Nat.zero_mod, Nat.zero_add]
  · obtain ⟨d, rfl⟩ := Nat.exists_eq_add_of_le h
    have hx : a / 2 ^ lo < 2 ^ d := Nat.div_lt_of_lt_mul (by rwa [← Nat.pow_add])
    rw [Nat.pow_add, Nat.mul_assoc, Nat.add_mul_div_left _ _ (Nat.two_pow_pos lo), Nat.mul_div_cancel_left _ (Nat.two_pow_pos lo)]
    rcases Nat.le_total len d with h' | h'
    · obtain ⟨e, rfl⟩ := Nat.exists_eq_add_of_le h'
      rw [Nat.pow_add, Nat.mul_assoc, Nat.mul_mod_right, Nat.add_zero, Nat.add_mul_mod_self_left]
    · obtain ⟨e, rfl⟩ := Nat.exists_eq_add_of_le h'
      have hx' : a / 2 ^ lo < 2 ^ (d + e) := Nat.lt_of_lt_of_le hx (Nat.pow_le_pow_right (by decide) h')
      rw [Nat.mod_eq_of_lt hx', Nat.pow_add, Nat.mul_mod_mul_left, Nat.mod_mul, Nat.add_mul_mod_self_left, Nat.mod_eq_of_lt hx,
        Nat.add_mul_div_left _ _ (Nat.two_pow_pos d), Nat.div_eq_of_lt hx, Nat.zero_add]

/-- The part of a field within the window of `len` bits from bit `lo`, as a field of the window. -/
def clipField (lo len : Nat) (f : Nat × Nat × Nat) : Nat × Nat × Nat :=
  (f.1 - lo, min (f.2.1 - (lo - f.1)) (len - (f.1 - lo)), f.2.2 >>> (lo - f.1))

/-- The number that holds one field and zero elsewhere. -/
def placeField (f : Nat × Nat × Nat) : Nat := f.2.2 % 2 ^ f.2.1 * 2 ^ f.1

theorem testBit_placeField (f : Nat × Nat × Nat) (i : Nat) :
    (placeField f).testBit i = (decide (f.1 ≤ i) && (decide (i - f.1 < f.2.1) && f.2.2.testBit (i - f.1))) := by
  rw [placeField, Nat.mul_comm, Nat.testBit_two_pow_mul, Nat.testBit_mod_two_pow]

theorem placeField_lt (f : Nat × Nat × Nat) : placeField f < 2 ^ (f.1 + f.2.1) := by
  rw [placeField, Nat.add_comm, Nat.pow_add]
  exact Nat.mul_lt_mul_of_pos_right (Nat.mod_lt _ (Nat.two_pow_pos _)) (Nat.two_pow_pos _)

/-- A window on one field shows the part of the field within it. -/
theorem bitsOf_placeField (f : Nat × Nat × Nat) (lo len : Nat) :
    bitsOf (placeField f) lo len = placeField (clipField lo len f) := by
  obtain ⟨p, n, v⟩ := f
  refine Nat.eq_of_testBit_eq fun i => ?_
  simp only [testBit_bitsOf, testBit_placeField, clipField, Nat.testBit_shiftRight]
  by_cases h : p - lo ≤ i
  · have same : lo - p + (i - (p - lo)) = lo + i - p := by omega
    have bounds : (i < len ∧ p ≤ lo + i ∧ lo + i - p < n) ↔ i - (p - lo) < min (n - (lo - p)) (len - (p - lo)) := by omega
    rw [same, Bool.eq_iff_iff]
    simp only [Bool.and_eq_true, decide_eq_true_eq, ← bounds, h, true_and, and_assoc]
  · have : ¬ p ≤ lo + i := by omega
    simp [h, this]

/-! ### Numbers packed from fields -/

theorem packFields_eq_sum (fs : List (Nat × Nat × Nat)) : packFields fs = (fs.map placeField).sum := by
  rw [List.sum_eq_foldl, List.foldl_map]
  rfl

theorem packFields_cons (f : Nat × Nat × Nat) (fs : List (Nat × Nat × Nat)) :
    packFields (f :: fs) = placeField f + packFields fs := by
  simp [packFields_eq_sum]

/-- The fields lie at bit `base` or above, and each ends before the next begins. -/
def fieldsRise (base : Nat) : List (Nat × Nat × Nat) → Bool
  | [] => true
  | f :: fs => decide (base ≤ f.1) && fieldsRise (f.1 + f.2.1) fs

theorem fieldsRise_cons {base : Nat} {f : Nat × Nat × Nat} {fs : List (Nat × Nat × Nat)} (h : fieldsRise base (f :: fs) = true) :
    base ≤ f.1 ∧ fieldsRise (f.1 + f.2.1) fs = true := by
  simpa [fieldsRise] using h

/-- Rising fields from bit `base` on leave the bits below it zero. -/
theorem two_pow_dvd_packFields {base : Nat} {fs : List (Nat × Nat × Nat)} (h : fieldsRise base fs = true) :
    2 ^ base ∣ packFields fs := by
  induction fs generalizing base with
  | nil => exact Nat.dvd_zero _
  | cons f fs ih =>
    obtain ⟨hb, hr⟩ := fieldsRise_cons h
    rw [packFields_cons]
    refine Nat.dvd_add (Nat.dvd_trans (Nat.pow_dvd_pow 2 hb) (Nat.dvd_mul_left _ _)) ?_
    exact Nat.dvd_trans (Nat.pow_dvd_pow 2 (by omega)) (ih hr)

/-- A window on rising fields shows the parts of the fields within it. -/
theorem bitsOf_packFields {base : Nat} {fs : List (Nat × Nat × Nat)} (h : fieldsRise base fs = true) (lo len : Nat) :
    bitsOf (packFields fs) lo len = packFields (fs.map (clipField lo len)) := by
  induction fs generalizing base with
  | nil => simp [packFields, bitsOf]
  | cons f fs ih =>
    obtain ⟨-, hr⟩ := fieldsRise_cons h
    rw [List.map_cons, packFields_cons, packFields_cons, bitsOf_add (placeField_lt f) (two_pow_dvd_packFields hr),
      bitsOf_placeField, ih hr]

theorem fieldsRise_mem {base : Nat} {fs : List (Nat × Nat × Nat)} (h : fieldsRise base fs = true) {f : Nat × Nat × Nat}
    (hf : f ∈ fs) : base ≤ f.1 := by
  induction fs generalizing base with
  | nil => exact absurd hf (by simp)
  | cons g fs ih =>
    obtain ⟨hb, hr⟩ := fieldsRise_cons h
    rcases List.mem_cons.mp hf with rfl | hf
    · exact hb
    · have := ih hr hf
      omega

/-- A window within one of the fields shows its part of that field alone. -/
theorem bitsOf_packFields_within {base : Nat} {fs : List (Nat × Nat × Nat)} (h : fieldsRise base fs = true) {p n v : Nat}
    (hf : (p, n, v) ∈ fs) {d len : Nat} (hd : d + len ≤ n) : bitsOf (packFields fs) (p + d) len = bitsOf v d len := by
  induction fs generalizing base with
  | nil => exact absurd hf (by simp)
  | cons g fs ih =>
    obtain ⟨-, hr⟩ := fieldsRise_cons h
    rw [packFields_cons, bitsOf_add (placeField_lt g) (two_pow_dvd_packFields hr)]
    rcases List.mem_cons.mp hf with rfl | hf
    · have hn : min (n - d) len = len := by omega
      rw [bitsOf_eq_zero_of_dvd (two_pow_dvd_packFields hr) (by dsimp only; omega), bitsOf_placeField]
      simp [clipField, placeField, hn, bitsOf]
    · have hg : g.1 + g.2.1 ≤ p + d := Nat.le_trans (fieldsRise_mem hr hf) (Nat.le_add_right p d)
      rw [bitsOf_eq_zero len (Nat.lt_of_lt_of_le (placeField_lt g) (Nat.pow_le_pow_right (by decide) hg)), Nat.zero_add, ih hr hf]

/-- A window above every field reads zero. -/
theorem bitsOf_packFields_above {base : Nat} {fs : List (Nat × Nat × Nat)} (hr : fieldsRise base fs = true) {lo : Nat} (len : Nat)
    (h : ∀ f ∈ fs, f.1 + f.2.1 ≤ lo) : bitsOf (packFields fs) lo len = 0 := by
  induction fs generalizing base with
  | nil => exact bitsOf_eq_zero len (Nat.two_pow_pos lo)
  | cons f fs ih =>
    obtain ⟨-, hfs⟩ := fieldsRise_cons hr
    have hf : f.1 + f.2.1 ≤ lo := h f List.mem_cons_self
    rw [packFields_cons, bitsOf_add (placeField_lt f) (two_pow_dvd_packFields hfs),
      bitsOf_eq_zero len (Nat.lt_of_lt_of_le (placeField_lt f) (Nat.pow_le_pow_right (by decide) hf)),
      ih hfs fun g hg => h g (List.mem_cons_of_mem f hg)]

/-! ### A block with one field replaced -/

/-- Within the replaced field the bits are the new ones, and elsewhere the old ones. -/
theorem testBit_putBits (x lo len v i : Nat) : (putBits x lo len v).testBit i =
    if lo ≤ i ∧ i < lo + len then v.testBit (i - lo) else x.testBit i := by
  have whole : x = 2 ^ lo * (2 ^ len * (x / 2 ^ (lo + len)) + bitsOf x lo len) + x % 2 ^ lo := by
    rw [bitsOf, Nat.shiftRight_eq_div_pow, Nat.pow_add, ← Nat.div_div_eq_div_mul, Nat.div_add_mod, Nat.div_add_mod]
  have put : putBits x lo len v = 2 ^ lo * (2 ^ len * (x / 2 ^ (lo + len)) + v % 2 ^ len) + x % 2 ^ lo := by
    have : x - bitsOf x lo len * 2 ^ lo = 2 ^ lo * (2 ^ len * (x / 2 ^ (lo + len))) + x % 2 ^ lo := by
      rw [Nat.mul_add, Nat.mul_comm _ (bitsOf x lo len)] at whole
      omega
    rw [putBits, this, Nat.mul_add, Nat.mul_comm (v % 2 ^ len), Nat.add_right_comm]
  rw [put, Nat.testBit_two_pow_mul_add _ (Nat.mod_lt _ (Nat.two_pow_pos lo)),
    Nat.testBit_two_pow_mul_add _ (Nat.mod_lt _ (Nat.two_pow_pos len)), Nat.testBit_mod_two_pow, Nat.testBit_mod_two_pow,
    Nat.testBit_div_two_pow]
  by_cases h1 : i < lo
  · have : ¬ lo ≤ i := by omega
    simp [h1, this]
  · by_cases h2 : i - lo < len
    · have : lo ≤ i ∧ i < lo + len := by omega
      simp [h1, h2, this]
    · have hn : ¬ (lo ≤ i ∧ i < lo + len) := by omega
      have hi : i - lo - len + (lo + len) = i := by omega
      simp only [h1, h2, hn, hi, if_false]

/-- A replacement within the block's width changes the bits of that field alone. -/
theorem testBit_setField {w : Nat} (x : BitVec w) (lo len v i : Nat) (h : lo + len ≤ w) : (setField x lo len v).toNat.testBit i =
    if lo ≤ i ∧ i < lo + len then v.testBit (i - lo) else x.toNat.testBit i := by
  rw [setField, BitVec.toNat_ofNat, Nat.testBit_mod_two_pow, testBit_putBits]
  by_cases hi : i < w
  · simp [hi]
  · have hn : ¬ (lo ≤ i ∧ i < lo + len) := by omega
    have hx : x.toNat.testBit i = false := Nat.testBit_lt_two_pow (Nat.lt_of_lt_of_le x.isLt (Nat.pow_le_pow_right (by decide) (by omega)))
    simp [hi, hn, hx]

/-- A replaced field reads as the new value. -/
theorem bits_setField_same {w : Nat} (x : BitVec w) {lo len : Nat} (v : Nat) (h : lo + len ≤ w) :
    bits (setField x lo len v) lo len = v % 2 ^ len := by
  refine Nat.eq_of_testBit_eq fun i => ?_
  rw [bits, testBit_bitsOf, testBit_setField x lo len v _ h, Nat.testBit_mod_two_pow]
  by_cases hi : i < len <;> simp [hi]

/-- A field apart from the replaced one reads as before. -/
theorem bits_setField_other {w : Nat} (x : BitVec w) {lo len lo' len' : Nat} (v : Nat) (h : lo + len ≤ w)
    (ha : lo' + len' ≤ lo ∨ lo + len ≤ lo') : bits (setField x lo len v) lo' len' = bits x lo' len' := by
  refine Nat.eq_of_testBit_eq fun i => ?_
  rw [bits, bits, testBit_bitsOf, testBit_bitsOf, testBit_setField x lo len v _ h]
  by_cases hi : i < len'
  · have hn : ¬ (lo ≤ lo' + i ∧ lo' + i < lo + len) := by omega
    rw [if_neg hn]
  · simp [hi]

end Sys2Proof.Machine
end

section
/-! SUPPORT. Register reads: the fields of each block, and what the words of the block read (R351, R352, R355, R392, R394, R395). -/

namespace Sys2Proof.Machine

/-! ### Whole fields -/

@[simp] theorem packFields_nil : packFields [] = 0 := rfl

@[simp] theorem placeField_none (p v : Nat) : placeField (p, 0, v) = 0 := by simp [placeField, Nat.mod_one]

@[simp] theorem placeField_word (p : Nat) {w : Nat} (x : BitVec w) : placeField (p, w, x.toNat) = x.toNat * 2 ^ p := by
  simp [placeField]

@[simp] theorem placeField_b2n (p : Nat) (b : Bool) : placeField (p, 1, b2n b) = b2n b * 2 ^ p := by
  cases b <;> simp [placeField, b2n]

/-- A 64-bit number is its two words. -/
theorem bits_words (x : Word64) : bits x 0 32 + bits x 32 32 * 2 ^ 32 = x.toNat := bitsOf_low_add_high x.isLt

/-- The whole of a word. -/
@[simp] theorem bitsOf_word {w : Nat} (x : BitVec w) : bitsOf x.toNat 0 w = x.toNat := bitsOf_eq_self x.isLt

/-! ### The mailbox block (R355) -/

/-- The fields of the mailbox block. -/
def mbxFields (s : State) : List (Nat × Nat × Nat) :=
  [(0, 16, s.mbx.opcode.toNat), (16, 8, s.mbx.issuer.toNat), (32, 32, s.mbx.tag.toNat), (64, 1, b2n s.mbx.busy),
    (65, 1, b2n s.mbx.done), (66, 1, b2n s.mbx.collision), (80, 16, s.mbx.status.toNat), (96, 32, s.mbx.tagEcho.toNat),
    (128, 64, s.mbx.ticketDone.toNat), (1024, 2048, s.mbx.args.toNat), (3072, 2048, s.mbx.result.toNat)]

theorem mbxFields_rise (s : State) : fieldsRise 0 (mbxFields s) = true := by simp [mbxFields, fieldsRise]

theorem readReg_mbx (s : State) {off : Nat} (h1 : 0x100 ≤ off) (h2 : off < 0x400) :
    readReg s .bar0 off false = bitsOf (packFields (mbxFields s)) (8 * (off - 0x100)) 32 := by
  change readBar0 s off = _
  rw [readBar0, if_neg (by omega), if_neg (by omega), if_pos h2]
  rfl

/-- A word of the mailbox block that lies within one field, from bit `d` of the field on. -/
theorem readReg_mbx_within (s : State) {off p n v d : Nat} (hf : (p, n, v) ∈ mbxFields s) (h1 : 0x100 ≤ off) (h2 : off < 0x400)
    (hp : 8 * (off - 0x100) = p + d) (hd : d + 32 ≤ n) : readReg s .bar0 off false = bitsOf v d 32 := by
  rw [readReg_mbx s h1 h2, hp, bitsOf_packFields_within (mbxFields_rise s) hf hd]

theorem readReg_opcode (s : State) : readReg s .bar0 0x100 false = s.mbx.opcode.toNat + s.mbx.issuer.toNat * 2 ^ 16 := by
  rw [readReg_mbx s (by decide) (by decide), bitsOf_packFields (mbxFields_rise s)]
  simp [mbxFields, clipField, packFields_cons]

theorem readReg_mbxStatus (s : State) : readReg s .bar0 0x108 false =
    b2n s.mbx.busy + b2n s.mbx.done * 2 + b2n s.mbx.collision * 4 + s.mbx.status.toNat * 2 ^ 16 := by
  rw [readReg_mbx s (by decide) (by decide), bitsOf_packFields (mbxFields_rise s)]
  simp [mbxFields, clipField, packFields_cons, Nat.add_assoc]

theorem readReg_tag (s : State) : readReg s .bar0 0x104 false = s.mbx.tag.toNat := by
  have hf : (32, 32, s.mbx.tag.toNat) ∈ mbxFields s := by simp [mbxFields]
  rw [readReg_mbx_within s hf (d := 0) (by decide) (by decide) (by decide) (by decide)]
  exact bitsOf_word _

theorem readReg_tagEcho (s : State) : readReg s .bar0 0x10C false = s.mbx.tagEcho.toNat := by
  have hf : (96, 32, s.mbx.tagEcho.toNat) ∈ mbxFields s := by simp [mbxFields]
  rw [readReg_mbx_within s hf (d := 0) (by decide) (by decide) (by decide) (by decide)]
  exact bitsOf_word _

theorem readReg_wide (s : State) (bar : Bar) (off : Nat) :
    readReg s bar off true = readReg s bar off false + readReg s bar (off + 4) false * 2 ^ 32 := rfl

theorem readReg_ticketDone (s : State) : readReg s .bar0 0x110 true = s.mbx.ticketDone.toNat := by
  have hf : (128, 64, s.mbx.ticketDone.toNat) ∈ mbxFields s := by simp [mbxFields]
  rw [readReg_wide, readReg_mbx_within s hf (d := 0) (by decide) (by decide) (by decide) (by decide),
    readReg_mbx_within s hf (d := 32) (by decide) (by decide) (by decide) (by decide)]
  exact bits_words _

theorem readReg_args (s : State) {k : Nat} (hk : k < 64) :
    readReg s .bar0 (0x180 + 4 * k) false = bits s.mbx.args (32 * k) 32 := by
  have hf : (1024, 2048, s.mbx.args.toNat) ∈ mbxFields s := by simp [mbxFields]
  exact readReg_mbx_within s hf (by omega) (by omega) (by omega) (by omega)

theorem readReg_result (s : State) {k : Nat} (hk : k < 64) :
    readReg s .bar0 (0x280 + 4 * k) false = bits s.mbx.result (32 * k) 32 := by
  have hf : (3072, 2048, s.mbx.result.toNat) ∈ mbxFields s := by simp [mbxFields]
  exact readReg_mbx_within s hf (by omega) (by omega) (by omega) (by omega)

theorem readReg_mbx_reserved (s : State) {off : Nat} (h1 : 0x380 ≤ off) (h2 : off < 0x400) : readReg s .bar0 off false = 0 := by
  rw [readReg_mbx s (by omega) h2]
  refine bitsOf_packFields_above (mbxFields_rise s) 32 ?_
  simp only [mbxFields, List.forall_mem_cons, List.not_mem_nil, false_imp_iff, implies_true, and_true]
  omega

/-! ### The fault-queue block (R392) -/

/-- The fields of the fault-queue block. -/
def fqFields (s : State) : List (Nat × Nat × Nat) :=
  [(0, 64, s.fq.base.toNat), (64, 1, b2n s.fq.enable), (128, 32, s.fq.prod.toNat), (160, 32, s.fq.cons.toNat),
    (192, 64, s.fq.dropped), (256, 1, b2n (fqFull s.fq))] ++
    (List.range 16).map fun k => (512 + 32 * k, 32, Tab.getD s.fq.classDropped k 0)

theorem fqFields_rise (s : State) : fieldsRise 0 (fqFields s) = true := rfl

theorem readReg_fq (s : State) {off : Nat} (h1 : 0x400 ≤ off) (h2 : off < 0x800) :
    readReg s .bar0 off false = bitsOf (packFields (fqFields s)) (8 * (off - 0x400)) 32 := by
  change readBar0 s off = _
  rw [readBar0, if_neg (by omega), if_neg (by omega), if_neg (by omega), if_pos h2]
  rfl

/-- A word of the fault-queue block that lies within one field, from bit `d` of the field on. -/
theorem readReg_fq_within (s : State) {off p n v d : Nat} (hf : (p, n, v) ∈ fqFields s) (h1 : 0x400 ≤ off) (h2 : off < 0x800)
    (hp : 8 * (off - 0x400) = p + d) (hd : d + 32 ≤ n) : readReg s .bar0 off false = bitsOf v d 32 := by
  rw [readReg_fq s h1 h2, hp, bitsOf_packFields_within (fqFields_rise s) hf hd]

theorem readReg_fqBase (s : State) : readReg s .bar0 0x400 true = s.fq.base.toNat := by
  have hf : (0, 64, s.fq.base.toNat) ∈ fqFields s := by simp [fqFields]
  rw [readReg_wide, readReg_fq_within s hf (d := 0) (by decide) (by decide) (by decide) (by decide),
    readReg_fq_within s hf (d := 32) (by decide) (by decide) (by decide) (by decide)]
  exact bits_words _

/-- FQ_ENABLE stands alone in its word: the word's other bits lie in the gap before FQ_PROD. -/
theorem readReg_fqEnable (s : State) : readReg s .bar0 0x408 false = b2n s.fq.enable := by
  rw [readReg_fq s (by decide) (by decide), bitsOf_packFields (fqFields_rise s)]
  simp [fqFields, clipField, packFields_cons, List.range_succ]

theorem readReg_fqProd (s : State) : readReg s .bar0 0x410 false = s.fq.prod.toNat := by
  have hf : (128, 32, s.fq.prod.toNat) ∈ fqFields s := by simp [fqFields]
  rw [readReg_fq_within s hf (d := 0) (by decide) (by decide) (by decide) (by decide)]
  exact bitsOf_word _

theorem readReg_fqCons (s : State) : readReg s .bar0 0x414 false = s.fq.cons.toNat := by
  have hf : (160, 32, s.fq.cons.toNat) ∈ fqFields s := by simp [fqFields]
  rw [readReg_fq_within s hf (d := 0) (by decide) (by decide) (by decide) (by decide)]
  exact bitsOf_word _

/-! ### The interrupt block (R394) -/

/-- The fields of the interrupt block. -/
def irqFields (s : State) : List (Nat × Nat × Nat) := [(0, 7, s.irq.causes.toNat), (16, 7, s.irq.enables.toNat)]

theorem irqFields_rise (s : State) : fieldsRise 0 (irqFields s) = true := rfl

theorem readReg_irq (s : State) {off : Nat} (h1 : 0x800 ≤ off) (h2 : off < 0x1000) :
    readReg s .bar0 off false = bitsOf (packFields (irqFields s)) (8 * (off - 0x800)) 32 := by
  change readBar0 s off = _
  rw [readBar0, if_neg (by omega), if_neg (by omega), if_neg (by omega), if_neg (by omega), if_pos h2]
  rfl

theorem readReg_causes (s : State) :
    readReg s .bar0 0x800 false = s.irq.causes.toNat + s.irq.enables.toNat * 2 ^ 16 := by
  rw [readReg_irq s (by decide) (by decide), bitsOf_packFields (irqFields_rise s)]
  simp [irqFields, clipField, packFields_cons]

theorem readReg_irq_reserved (s : State) {off : Nat} (h1 : 0x804 ≤ off) (h2 : off < 0x1000) : readReg s .bar0 off false = 0 := by
  rw [readReg_irq s (by omega) h2]
  refine bitsOf_packFields_above (irqFields_rise s) 32 ?_
  simp only [irqFields, List.forall_mem_cons, List.not_mem_nil, false_imp_iff, implies_true, and_true]
  omega

/-! ### Reserved offsets and the page of no queue (R352, R363) -/

theorem readReg_id_reserved (s : State) {off : Nat} (h1 : 0x30 ≤ off) (h2 : off < 0x100) : readReg s .bar0 off false = 0 := by
  change readBar0 s off = _
  rw [readBar0, if_neg (by omega), if_pos h2]

theorem readReg_beyond (s : State) {off : Nat} (h : 0x2000 ≤ off) : readReg s .bar0 off false = 0 := by
  change readBar0 s off = _
  rw [readBar0, if_neg (by omega), if_neg (by omega), if_neg (by omega), if_neg (by omega), if_neg (by omega), if_neg (by omega)]

theorem readReg_noQueue {s : State} {off : Nat} (h : Tab.get? s.queues (off / 0x1000) = none) : readReg s .bar2 off false = 0 := by
  simp [readReg, readBar2, h]

/-! ### The MSI-X table (R351, R395) -/

/-- The fields of an entry of the MSI-X table. -/
def msixFields (e : MsixEntry) : List (Nat × Nat × Nat) := [(0, 64, e.addr.toNat), (64, 32, e.data.toNat), (96, 1, b2n e.masked)]

theorem msixFields_rise (e : MsixEntry) : fieldsRise 0 (msixFields e) = true := rfl

/-- The words of entry `k`, `o` bytes from its first. -/
theorem readReg_msix (s : State) {k o : Nat} (hk : k < 1024) (ho : o < 16) : readReg s .bar4 (16 * k + o) false =
    bitsOf (packFields (msixFields (Tab.getD s.irq.msixTable k {}))) (8 * o) 32 := by
  have hlt : 16 * k + o < 0x4000 := by omega
  have hdiv : (16 * k + o) / 16 = k := by omega
  have hmod : (16 * k + o) % 16 = o := by omega
  change readBar4 s (16 * k + o) = _
  rw [readBar4, if_pos hlt, hdiv, hmod]
  rfl

/-- A word of an entry that lies within one field, from bit `d` of the field on. -/
theorem readReg_msix_within (s : State) {k o p n v d : Nat} (hk : k < 1024)
    (hf : (p, n, v) ∈ msixFields (Tab.getD s.irq.msixTable k {})) (ho : o < 16) (hp : 8 * o = p + d) (hd : d + 32 ≤ n) :
    readReg s .bar4 (16 * k + o) false = bitsOf v d 32 := by
  rw [readReg_msix s hk ho, hp, bitsOf_packFields_within (msixFields_rise _) hf hd]

theorem readReg_msixAddr (s : State) {k : Nat} (hk : k < 1024) :
    readReg s .bar4 (16 * k) true = (Tab.getD s.irq.msixTable k {}).addr.toNat := by
  have hf : (0, 64, (Tab.getD s.irq.msixTable k {}).addr.toNat) ∈ msixFields (Tab.getD s.irq.msixTable k {}) := by simp [msixFields]
  have low := readReg_msix_within s hk hf (o := 0) (d := 0) (by decide) (by decide) (by decide)
  have high := readReg_msix_within s hk hf (o := 4) (d := 32) (by decide) (by decide) (by decide)
  rw [readReg_wide, high, ← Nat.add_zero (16 * k), low]
  exact bits_words _

theorem readReg_msixData (s : State) {k : Nat} (hk : k < 1024) :
    readReg s .bar4 (16 * k + 8) false = (Tab.getD s.irq.msixTable k {}).data.toNat := by
  have hf : (64, 32, (Tab.getD s.irq.msixTable k {}).data.toNat) ∈ msixFields (Tab.getD s.irq.msixTable k {}) := by simp [msixFields]
  rw [readReg_msix_within s hk hf (d := 0) (by decide) (by decide) (by decide)]
  exact bitsOf_word _

theorem readReg_msixMask (s : State) {k : Nat} (hk : k < 1024) :
    readReg s .bar4 (16 * k + 12) false = b2n (Tab.getD s.irq.msixTable k {}).masked := by
  rw [readReg_msix s hk (by decide), bitsOf_packFields (msixFields_rise _)]
  simp [msixFields, clipField, packFields_cons]

/-! ### Register writes (R352) -/

theorem exec_registerWrite_word {s : State} (bar : Bar) {off : Nat} (v : Word64) (hu : hostUp s = true) (ha : off % 4 = 0) :
    exec (.registerWrite bar off false v) s = .next (writeReg bar off (v.toNat % 2 ^ 32) s) :=
  show execRegisterWrite bar off false v s = _ by simp [execRegisterWrite, hu, ha]

/-- A 64-bit write acts as its two halves. -/
theorem exec_registerWrite_wide {s : State} (bar : Bar) {off : Nat} (v : Word64) (hu : hostUp s = true) (ha : off % 8 = 0) :
    exec (.registerWrite bar off true v) s =
      .next (writeReg bar (off + 4) (v.toNat / 2 ^ 32) (writeReg bar off (v.toNat % 2 ^ 32) s)) :=
  show execRegisterWrite bar off true v s = _ by simp [execRegisterWrite, hu, ha]

/-- A write of an argument word puts it into the block of arguments (R355). -/
theorem writeReg_args (s : State) {k : Nat} (v : Nat) (hk : k < 64) : writeReg .bar0 (0x180 + 4 * k) v s =
    { s with mbx := { s.mbx with args := setField s.mbx.args (32 * k) 32 v } } := by
  have hbar : 0x100 ≤ 0x180 + 4 * k ∧ 0x180 + 4 * k < 0x400 := by omega
  have hargs : 0x180 ≤ 0x180 + 4 * k ∧ 0x180 + 4 * k < 0x280 := by omega
  have hlo : 8 * (0x180 + 4 * k - 0x180) = 32 * k := by omega
  have : 0x180 + 4 * k ≠ 0x100 ∧ 0x180 + 4 * k ≠ 0x104 ∧ 0x180 + 4 * k ≠ 0x108 ∧ 0x180 + 4 * k ≠ 0x110 ∧ 0x180 + 4 * k ≠ 0x114 := by
    omega
  obtain ⟨h0, h1, h2, h3, h4⟩ := this
  simp only [writeReg, writeBar0, writeMbx, if_pos hbar, if_neg h0, if_neg h1, if_neg h2, if_neg h3, if_neg h4, if_pos hargs, hlo]

/-- Entry `k` of the MSI-X table is put. -/
def putMsix (k : Nat) (e : MsixEntry) (s : State) : State :=
  { s with irq := { s.irq with msixTable := Tab.put s.irq.msixTable k e } }

@[simp] theorem msixTable_putMsix (k : Nat) (e d : MsixEntry) (s : State) : Tab.getD (putMsix k e s).irq.msixTable k d = e :=
  Tab.getD_put_same _ _ _ _

/-- A write of the lower or the upper word of an entry's address (R351). -/
theorem writeReg_msixAddr (s : State) {k o : Nat} (v : Nat) (hk : k < 1024) (ho : o = 0 ∨ o = 4) : writeReg .bar4 (16 * k + o) v s =
    putMsix k { Tab.getD s.irq.msixTable k {} with addr := setField (Tab.getD s.irq.msixTable k {}).addr (8 * o) 32 v } s := by
  have hlt : ¬ 0x4000 ≤ 16 * k + o := by omega
  have hdiv : (16 * k + o) / 16 = k := by omega
  have hmod : (16 * k + o) % 16 = o := by omega
  unfold writeReg writeMsix
  dsimp only
  rw [if_neg hlt, hdiv, hmod]
  obtain rfl | rfl := ho <;> rfl

/-! ### Reads after writes -/

theorem registerWrite_args_reads {s : State} (v : Word64) (hu : hostUp s = true) {k : Nat} (hk : k < 64) :
    Completes (.registerWrite .bar0 (0x180 + 4 * k) false v) s fun t =>
      readReg t .bar0 (0x180 + 4 * k) false = v.toNat % 2 ^ 32 := by
  have h := exec_registerWrite_word .bar0 v hu (off := 0x180 + 4 * k) (by omega)
  rw [writeReg_args s _ hk] at h
  refine ⟨_, h, (readReg_args _ hk).trans ?_⟩
  rw [bits_setField_same _ _ (by omega), Nat.mod_mod]

/-- The two halves of a word written one after the other read as the word. -/
theorem setField_halves (x v : Word64) : setField (setField x 0 32 (v.toNat % 2 ^ 32)) 32 32 (v.toNat / 2 ^ 32) = v := by
  refine BitVec.eq_of_toNat_eq ?_
  have hv := v.isLt
  rw [← bits_words, bits_setField_same _ _ (by decide), bits_setField_other _ _ (by decide) (by decide),
    bits_setField_same _ _ (by decide)]
  omega

theorem registerWrite_msixAddr_reads {s : State} (v : Word64) (hu : hostUp s = true) {k : Nat} (hk : k < 1024) :
    Completes (.registerWrite .bar4 (16 * k) true v) s fun t =>
      readReg t .bar4 (16 * k) true = v.toNat ∧ t.mbx = s.mbx ∧ t.mem = s.mem ∧ t.tasks = s.tasks := by
  have h := exec_registerWrite_wide .bar4 v hu (off := 16 * k) (by omega)
  have low : writeReg .bar4 (16 * k) (v.toNat % 2 ^ 32) s = _ := writeReg_msixAddr s _ hk (.inl rfl)
  rw [writeReg_msixAddr _ _ hk (.inr rfl), low, msixTable_putMsix] at h
  refine ⟨_, h, (readReg_msixAddr _ hk).trans ?_, rfl, rfl, rfl⟩
  rw [msixTable_putMsix]
  exact congrArg BitVec.toNat (setField_halves _ v)

end Sys2Proof.Machine

namespace Sys2Proof

open Sys2Proof.Machine

/-- Settles O19: the reads word by word of each block, then the two reads after writes. -/
theorem registersReadBack : Obligations.RegistersReadBack := by
  unfold Obligations.RegistersReadBack
  refine ⟨fun s => ⟨readReg_wide s, readReg_opcode s, readReg_tag s, readReg_mbxStatus s, readReg_tagEcho s, readReg_ticketDone s,
    fun k hk => ⟨readReg_args s hk, readReg_result s hk⟩, readReg_fqBase s, readReg_fqEnable s, readReg_fqProd s, readReg_fqCons s,
    readReg_causes s, ?_, fun off h => readReg_noQueue h,
    fun k hk => ⟨readReg_msixAddr s hk, readReg_msixData s hk, readReg_msixMask s hk⟩⟩,
    fun v s hu => ⟨fun k hk => registerWrite_args_reads v hu hk, fun k hk => registerWrite_msixAddr_reads v hu hk⟩⟩
  rintro off (⟨h1, h2⟩ | ⟨h1, h2⟩ | ⟨h1, h2⟩ | h) -
  · exact readReg_id_reserved s h1 h2
  · exact readReg_mbx_reserved s h1 h2
  · exact readReg_irq_reserved s h1 h2
  · exact readReg_beyond s h

end Sys2Proof
end

section
/-! SUPPORT. The end of a mailbox command: what it shows, and what differs then from the state in which the body ended (R356). -/

namespace Sys2Proof

open Sys2Proof.Machine

theorem MbxOnly.trans {s t u : State} (h₁ : MbxOnly s t) (h₂ : MbxOnly t u) : MbxOnly s u := by
  unfold MbxOnly at *
  rw [h₂, h₁]

theorem MbxOnly.counters_eq {s t : State} (h : MbxOnly s t) : t.counters = s.counters := by
  unfold MbxOnly at h
  rw [h]

end Sys2Proof

namespace Sys2Proof.Machine

/-- After the host's writes, GO changes the mailbox registers alone. -/
theorem mbxIn_mbxOnly (op : Nat) (m : MbxCall) (args : BitVec 2048) (s : State) :
    MbxOnly (hostWrote m.host s) (mbxIn op m args s) := rfl

theorem mbxEnd_mbxOnly (tag : Word32) (st : Status) (result : BitVec 2048) (s : State) :
    MbxOnly s (mbxEnd tag st result s) := by
  obtain ⟨u, i, o, h⟩ := mbxEnd_frame tag st result s
  rw [h]
  rfl

@[simp] theorem mbxEnd_mbx (tag : Word32) (st : Status) (result : BitVec 2048) (s : State) : (mbxEnd tag st result s).mbx =
    { s.mbx with
      result := result, status := BitVec.ofNat 16 st.code, tagEcho := tag, busy := false, done := true, running := none } := by
  obtain ⟨u, i, o, h⟩ := mbxEnd_frame tag st result s
  rw [h]

theorem mbxEnd_mbxEnds (m : MbxCall) (st : Status) (result : BitVec 2048) (s : State) :
    MbxEnds m st (mbxEnd m.tag st result s) := by
  refine ⟨?_, ?_, ?_, ?_, raiseCause_sets .mailboxDone _⟩ <;> simp

/-- A served command that its body refuses ends with that status, and has no other effect. -/
theorem mailbox_refuse_ends (op : Nat) (d : Bool) {a z : Bool} (args : BitVec 2048) {body : State → MbxRes} (m : MbxCall) {s : State}
    {st : Status} (hs : MbxServes a z s) (hr : body (mbxIn op m args s) = .refuse st) :
    MbxEnds m st (mailbox op d a z args body m s) ∧ MbxOnly (hostWrote m.host s) (mailbox op d a z args body m s) := by
  obtain ⟨hu, hb, hn⟩ := hs
  rw [mailbox_refuse op d a z args m hu hb hn hr]
  exact ⟨mbxEnd_mbxEnds m st 0 _, (mbxIn_mbxOnly op m args s).trans (mbxEnd_mbxOnly _ _ _ _)⟩

/-- A served command whose body replies, and which does not defer, ends with the reply in the state that the body left. -/
theorem mailbox_reply_ends (op : Nat) {d a z : Bool} (args : BitVec 2048) {body : State → MbxRes} (m : MbxCall) {s s1 : State}
    {st : Status} {r : Nat} (hs : MbxServes a z s) (hd : (d && m.defer) = false)
    (hr : body (mbxIn op m args s) = .reply s1 st r) :
    MbxEnds m st (mailbox op d a z args body m s) ∧
      (mailbox op d a z args body m s).mbx.result = BitVec.ofNat 2048 r ∧ MbxOnly s1 (mailbox op d a z args body m s) := by
  obtain ⟨hu, hb, hn⟩ := hs
  rw [mailbox_reply op d a z args m hu hb hn hd hr]
  exact ⟨mbxEnd_mbxEnds m st _ _, by simp, mbxEnd_mbxOnly _ _ _ _⟩

end Sys2Proof.Machine
end

section
/-! SUPPORT. State readback: the counters that CLEAR zeroes, the write of a record at OUT_ADDR, and the outcomes of a STATE_READ row
(R388, R484). -/

namespace Sys2Proof.Machine

/-! ### COUNTERS with CLEAR (R484) -/

/-- A table without the keys of a list has none of them, and the other keys as before. -/
theorem Tab.get?_filter_keys {α : Type} (ks : List Nat) (i : Nat) (t : Tab α) :
    Tab.get? (t.filter fun e => !ks.contains e.1) i = if i ∈ ks then none else Tab.get? t i := by
  induction t with
  | nil => simp [Tab.get?]
  | cons e t ih =>
    obtain ⟨j, v⟩ := e
    by_cases hj : j = i
    · subst hj
      by_cases hk : j ∈ ks
      · simpa [hk] using ih
      · simp [Tab.get?, hk]
    · by_cases hk : j ∈ ks <;> simpa [Tab.get?, hk, hj] using ih

theorem counterVal_clearGroup (g i : Nat) (s : State) :
    counterVal (clearGroup g s) i = if i ∈ groupCounters g then 0 else counterVal s i := by
  unfold counterVal clearGroup Tab.getD
  dsimp only
  rw [Tab.get?_filter_keys]
  split <;> rfl

/-! ### The record at OUT_ADDR (R388) -/

/-- The mailbox registers and the counters have no part in where a byte is written. -/
theorem devWrite_mbx_counters (x : Mailbox) (c : Counters) : ∀ (bs : List Byte) (a : Nat) (s : State),
    devWrite a bs { s with mbx := x, counters := c } = { devWrite a bs s with mbx := x, counters := c }
  | [], _, _ => rfl
  | b :: bs, a, s => by
    have byte : devSet a b { s with mbx := x, counters := c } = { devSet a b s with mbx := x, counters := c } := by
      have same : locate { s with mbx := x, counters := c } a = locate s a := rfl
      unfold devSet
      rw [same]
      dsimp only
      split <;> rfl
    rw [devWrite, devWrite, byte, devWrite_mbx_counters x c bs (a + 1) (devSet a b s)]

/-- Bytes are written at OUT_ADDR, unless it is zero, with the fences that they clear. -/
def writeOut (a : Nat) (bs : List Byte) (s : State) : State := if a = 0 then s else clearFences a bs.length (devWrite a bs s)

theorem writeOut_zero {a : Nat} (h : a = 0) (bs : List Byte) (s : State) : writeOut a bs s = s := if_pos h

theorem writeOut_pos {a : Nat} (h : a ≠ 0) (bs : List Byte) (s : State) :
    writeOut a bs s = clearFences a bs.length (devWrite a bs s) := if_neg h

theorem writeOut_mbx_counters (x : Mailbox) (c : Counters) (a : Nat) (bs : List Byte) (s : State) :
    writeOut a bs { s with mbx := x, counters := c } = { writeOut a bs s with mbx := x, counters := c } := by
  by_cases h : a = 0
  · rw [writeOut_zero h, writeOut_zero h]
  · rw [writeOut_pos h, writeOut_pos h, devWrite_mbx_counters]
    rfl

theorem writeOut_frame (a : Nat) (bs : List Byte) (s : State) : ∃ m h f,
    writeOut a bs s = { s with mem := m, hostMem := h, faults := f } := by
  by_cases h : a = 0
  · exact ⟨s.mem, s.hostMem, s.faults, writeOut_zero h bs s⟩
  · obtain ⟨m, hm, e⟩ := devWrite_frame bs a s
    exact ⟨m, hm, _, by rw [writeOut_pos h, e]; rfl⟩

@[simp] theorem writeOut_freeCtr (a : Nat) (bs : List Byte) (s : State) : (writeOut a bs s).freeCtr = s.freeCtr := by
  obtain ⟨m, h, f, e⟩ := writeOut_frame a bs s
  rw [e]

/-! ### What a STATE_READ leaves (R388, R389) -/

/-- The group of INDEX is zeroed where the row clears it. -/
def readClear (sel : Nat) (clear : Bool) (a : BitVec 2048) (s : State) : State :=
  if sel = 16 && clear then clearGroup (bits a 64 8) s else s

/-- A row without CLEAR leaves the counters. -/
theorem readClear_keep (sel : Nat) (a : BitVec 2048) (s : State) : readClear sel false a s = s := by simp [readClear]

/-- The counters after a row with CLEAR: those of the group are zero (R484). -/
theorem counterVal_readClear (a : BitVec 2048) (s : State) (i : Nat) :
    counterVal (readClear 16 true a s) i = if i ∈ groupCounters (bits a 64 8) then 0 else counterVal s i :=
  counterVal_clearGroup _ i s

/-- ROW_PLACEMENT takes two free values (log entry 27). -/
def readFree (sel : Nat) (s : State) : State := if sel = 6 then { s with freeCtr := s.freeCtr + 2 } else s

theorem readFree_eq (sel : Nat) (s : State) :
    readFree sel s = { s with freeCtr := if sel = 6 then s.freeCtr + 2 else s.freeCtr } := by
  unfold readFree
  split <;> rfl

/-- The state in which a STATE_READ that returns the record `r` has done its work. -/
def readEffect (sel : Nat) (clear : Bool) (a : BitVec 2048) (r : ReadRecord) (s : State) : State :=
  readFree sel (writeOut (bits a 128 56) (r.fit (bits a 192 32)) (readClear sel clear a s))

/-- The effect in the state in which GO left the mailbox is that of the write at OUT_ADDR, with the counters and the free values; the
mailbox registers have no part in it. -/
theorem readEffect_mbxIn (sel : Nat) (clear : Bool) (a : BitVec 2048) (r : ReadRecord) (op : Nat) (m : MbxCall) (s : State) :
    readEffect sel clear a r (mbxIn op m a s) = { writeOut (bits a 128 56) (r.fit (bits a 192 32)) (hostWrote m.host s) with
      mbx := (mbxIn op m a s).mbx
      counters := (readClear sel clear a s).counters
      freeCtr := if sel = 6 then s.freeCtr + 2 else s.freeCtr } := by
  have cleared : readClear sel clear a (mbxIn op m a s) = { hostWrote m.host s with
      mbx := (mbxIn op m a s).mbx, counters := (readClear sel clear a s).counters } := by
    unfold readClear
    split <;> rfl
  rw [readEffect, readFree_eq, cleared, writeOut_mbx_counters]
  simp

/-! ### The rows of STATE_READ (R388, R389) -/

/-- The command's reserved fields are zero, and it names the issuer's context where the selector takes one, and no context elsewhere. -/
def ReadNamed (sel : Nat) (a : BitVec 2048) (m : MbxCall) (s : State) : Prop :=
  zeroFields a [(24, 40), (184, 8), (224, 1824)] = true ∧
    if scopedSelector sel then bits a 16 8 = m.issuer % 256 ∧ Tab.has s.ctxs (m.issuer % 256) = true else bits a 16 8 = 0

/-- The checks of the row for the reserved fields and for the context pass. -/
theorem readNamed_checks {sel : Nat} {a : BitVec 2048} {m : MbxCall} {s : State} (h : ReadNamed sel a m s) :
    (!zeroFields a [(24, 40), (184, 8), (224, 1824)] || (!scopedSelector sel && decide (bits a 16 8 ≠ 0))) = false ∧
    (scopedSelector sel && !(decide (bits a 16 8 = m.issuer % 256) && Tab.has s.ctxs (bits a 16 8))) = false := by
  obtain ⟨hz, hc⟩ := h
  by_cases hsel : scopedSelector sel = true
  · rw [if_pos hsel] at hc
    obtain ⟨hctx, hhas⟩ := hc
    simp [hz, hsel, hctx, hhas]
  · rw [if_neg hsel] at hc
    simp [hz, hsel, hc]

/-- OUT_ADDR names an area that is not the issuer's to write. -/
def outRefused (a : BitVec 2048) (m : MbxCall) (s : State) : Bool :=
  decide (bits a 128 56 ≠ 0) && !areaOk s (m.issuer % 256) (bits a 128 56) (bits a 192 32) .w .stackOrPinned

/-- A STATE_READ whose area is not the issuer's ends BAD_ADDRESS. -/
theorem stateRead_badAddress {sel : Nat} {clear : Bool} {a : BitVec 2048} {m : MbxCall} {s : State} (ha : readArgs sel clear m = a)
    (hs : MbxServes true false s) (hn : ReadNamed sel a m s) (ho : outRefused a m (mbxIn 2 m a s) = true) :
    ∃ t, stateRead sel clear m s = .next t ∧ MbxEnds m .badAddress t ∧ MbxOnly (hostWrote m.host s) t := by
  subst ha
  refine ⟨_, rfl, mailbox_refuse_ends 2 true _ m hs ?_⟩
  obtain ⟨hzero, hctx⟩ := readNamed_checks (s := mbxIn 2 m (readArgs sel clear m) s) hn
  unfold outRefused at ho
  simp only [hzero, hctx, ho, Bool.false_eq_true, if_false, if_true]

/-- A STATE_READ whose checks pass returns the record, and its effect is `readEffect`. -/
theorem stateRead_ok {sel : Nat} {clear : Bool} {a : BitVec 2048} {m : MbxCall} {s : State} {r : ReadRecord}
    (ha : readArgs sel clear m = a) (hs : MbxServes true false s) (hn : ReadNamed sel a m s) (hd : m.defer = false)
    (hr : readRecord (mbxIn 2 m a s) sel (some (m.issuer % 256)) (bits a 64 64) = .ok r)
    (ho : outRefused a m (mbxIn 2 m a s) = false) :
    ∃ t, stateRead sel clear m s = .next t ∧ MbxEnds m .ok t ∧ t.mbx.result = BitVec.ofNat 2048 (readResult r.bytes) ∧
      MbxOnly (readEffect sel clear a r (mbxIn 2 m a s)) t := by
  subst ha
  refine ⟨_, rfl, mailbox_reply_ends 2 _ m hs (by simp [hd]) ?_⟩
  obtain ⟨hzero, hctx⟩ := readNamed_checks (s := mbxIn 2 m (readArgs sel clear m) s) hn
  unfold outRefused at ho
  simp only [hzero, hctx, ho, hr, Bool.false_eq_true, if_false]
  rfl

/-- Each row of STATE_READ reads its selector. -/
theorem exec_readRow : ∀ e ∈ readRows, ∀ (m : MbxCall) (s : State), exec (e.1 m) s = stateRead e.2.1 e.2.2 m s := by
  simp only [readRows, List.forall_mem_cons, List.not_mem_nil, false_imp_iff, implies_true, and_true]
  and_intros <;> exact fun _ _ => rfl

/-- A row that clears is a row of COUNTERS. -/
theorem readRow_clear : ∀ e ∈ readRows, e.2.2 = true → e.2.1 = 16 := by decide

/-- A row whose area is not the issuer's ends BAD_ADDRESS. -/
theorem readRow_badAddress {e : (MbxCall → Instr) × Nat × Bool} (he : e ∈ readRows) {a : BitVec 2048} {m : MbxCall} {s : State}
    (ha : readArgs e.2.1 e.2.2 m = a) (hs : MbxServes true false s) (hn : ReadNamed e.2.1 a m s)
    (ho : outRefused a m (mbxIn 2 m a s) = true) :
    Completes (e.1 m) s fun t => MbxEnds m .badAddress t ∧ MbxOnly (hostWrote m.host s) t := by
  unfold Completes
  rw [exec_readRow e he]
  exact stateRead_badAddress ha hs hn ho

/-- A row whose checks pass returns the record, writes it at OUT_ADDR, and zeroes the group that it clears; nothing else changes. -/
theorem readRow_ok {e : (MbxCall → Instr) × Nat × Bool} (he : e ∈ readRows) {a : BitVec 2048} {m : MbxCall} {s : State}
    {r : ReadRecord} (ha : readArgs e.2.1 e.2.2 m = a) (hs : MbxServes true false s) (hn : ReadNamed e.2.1 a m s)
    (hd : m.defer = false) (hr : readRecord (mbxIn 2 m a s) e.2.1 (some (m.issuer % 256)) (bits a 64 64) = .ok r)
    (ho : outRefused a m (mbxIn 2 m a s) = false) :
    Completes (e.1 m) s fun t =>
      MbxEnds m .ok t ∧ t.mbx.result = BitVec.ofNat 2048 (readResult r.bytes) ∧
      t.counters = (readClear e.2.1 e.2.2 a s).counters ∧
      MbxOnly { writeOut (bits a 128 56) (r.fit (bits a 192 32)) (hostWrote m.host s) with
        counters := t.counters, freeCtr := if e.2.1 = 6 then s.freeCtr + 2 else s.freeCtr } t := by
  unfold Completes
  rw [exec_readRow e he]
  obtain ⟨t, ht, hends, hres, honly⟩ := stateRead_ok ha hs hn hd hr ho
  rw [readEffect_mbxIn] at honly
  have hc := honly.counters_eq
  refine ⟨t, ht, hends, hres, hc, ?_⟩
  rwa [hc]

/-! ### The debug window (R401, R402) -/

/-- A snapshot of a selector that the window serves holds the record. -/
theorem takeSnapshot_ok {s : State} {r : ReadRecord} (hs : s.sys.engState ≠ .reset)
    (hw : windowSelector s s.dbg.selector.toNat = true)
    (hf : s.dbg.selector.toNat = 17 → (s.sys.lowerUp || s.sys.upperUp) = true)
    (hr : readRecord s s.dbg.selector.toNat none s.dbg.index.toNat = .ok r) :
    takeSnapshot s = { s with dbg := { s.dbg with
      status := BitVec.ofNat 16 Status.ok.code, length := BitVec.ofNat 32 r.bytes.length, snapshot := r.bytes } } := by
  have served : (!windowSelector s s.dbg.selector.toNat ||
      (decide (s.dbg.selector.toNat = 17) && !(s.sys.lowerUp || s.sys.upperUp))) = false := by
    by_cases h : s.dbg.selector.toNat = 17
    · simp [hw, hf h]
    · simp [hw, h]
  unfold takeSnapshot
  rw [if_neg hs, served, hr]
  rfl

/-- While debug is locked the window does not serve ACCUMULATOR. -/
theorem takeSnapshot_locked {s : State} (hs : s.sys.engState ≠ .reset) (hsel : s.dbg.selector = 17)
    (hl : s.sys.debugUnlocked = false) :
    takeSnapshot s = { s with dbg := { s.dbg with
      status := BitVec.ofNat 16 Status.badSelector.code, length := 0, snapshot := [] } } := by
  have refused : windowSelector s s.dbg.selector.toNat = false := by simp [windowSelector, hsel, hl]
  unfold takeSnapshot
  rw [if_neg hs, refused]
  rfl

/-- The window's registers name ACCUMULATOR and the index. -/
def selectAccumulator (i : BitVec 64) (s : State) : State := { s with dbg := { s.dbg with selector := 17, index := i } }

/-- STATE_READ_ACCUMULATOR is a snapshot with the selector and the index written first (log entry 25). -/
theorem exec_stateReadAccumulator {i : BitVec 64} {s : State} (hs : s.sys.engState ≠ .reset) :
    exec (.stateReadAccumulator i) s = .next (takeSnapshot (selectAccumulator i s)) :=
  show execStateReadAccumulator i s = _ by rw [execStateReadAccumulator, if_neg hs]; rfl

/-- ACCUMULATOR: a frame of the cluster in INDEX [8:0] (R389). -/
theorem readRecord_accumulator {s : State} {ctx : Option Nat} {i : Nat} {b : Bucket} (hi : i % 2 ^ 16 < 512)
    (hb : (clusterFrames s (i % 512))[bitsOf i 16 16]? = some b) : readRecord s 17 ctx i = .ok { head := frameRecord b } := by
  have cluster : bitsOf i 0 9 + 512 * bitsOf i 9 7 = i % 2 ^ 16 := by
    simp only [bitsOf, Nat.shiftRight_eq_div_pow]
    omega
  unfold readRecord
  simp only [cluster, if_neg (Nat.not_le.mpr hi), hb, plainRecord]

theorem stateReadAccumulator_ok {i : BitVec 64} {s : State} {b : Bucket} (hs : s.sys.engState ≠ .reset)
    (hu : s.sys.debugUnlocked = true) (hf : (s.sys.lowerUp || s.sys.upperUp) = true) (hi : i.toNat % 2 ^ 16 < 512)
    (hb : (clusterFrames s (i.toNat % 512))[bitsOf i.toNat 16 16]? = some b) :
    exec (.stateReadAccumulator i) s = .next { s with dbg := { s.dbg with
      selector := 17, index := i, status := BitVec.ofNat 16 Status.ok.code, length := BitVec.ofNat 32 (frameRecord b).length
      snapshot := frameRecord b } } := by
  have bytes : ({ head := frameRecord b } : ReadRecord).bytes = frameRecord b := List.append_nil _
  have window : windowSelector (selectAccumulator i s) 17 = true := by simp [windowSelector, selectAccumulator, hu]
  have record : readRecord (selectAccumulator i s) 17 none i.toNat = .ok { head := frameRecord b } :=
    readRecord_accumulator hi hb
  rw [exec_stateReadAccumulator hs, takeSnapshot_ok (s := selectAccumulator i s) hs window (fun _ => hf) record, bytes]
  rfl

theorem stateReadAccumulator_locked {i : BitVec 64} {s : State} (hs : s.sys.engState ≠ .reset)
    (hl : s.sys.debugUnlocked = false) :
    exec (.stateReadAccumulator i) s = .next { s with dbg := { s.dbg with
      selector := 17, index := i, status := BitVec.ofNat 16 Status.badSelector.code, length := 0, snapshot := [] } } := by
  rw [exec_stateReadAccumulator hs]
  exact congrArg _ (takeSnapshot_locked (s := selectAccumulator i s) hs rfl hl)

/-! ### ENG_INFO, and ACCUMULATOR through the mailbox (R389, R391) -/

theorem engInfo_ok {m : MbxCall} {s : State} (hs : MbxServes true false s) (hz : zeroFields m.args [(0, 2048)] = true) :
    Completes (.engInfo m) s fun t =>
      MbxEnds m .ok t ∧ t.mbx.result = BitVec.ofNat 2048 (deviceRecord (mbxIn 1 m m.args s)) ∧ MbxOnly (hostWrote m.host s) t := by
  obtain ⟨t, ht, hends, hres, honly⟩ : ∃ t, exec (.engInfo m) s = .next t ∧ MbxEnds m .ok t ∧
      t.mbx.result = BitVec.ofNat 2048 (deviceRecord (mbxIn 1 m m.args s)) ∧ MbxOnly (mbxIn 1 m m.args s) t :=
    ⟨_, rfl, mailbox_reply_ends 1 m.args m hs rfl (by simp [hz])⟩
  exact ⟨t, ht, hends, hres, (mbxIn_mbxOnly 1 m m.args s).trans honly⟩

/-- STATE_READ does not serve ACCUMULATOR. -/
theorem stateRead_accumulator_refused {m : MbxCall} {s : State} (hsel : bits m.args 0 16 = 17) (hs : MbxServes true false s) :
    Completes (.mailboxBadOpcode m 2) s fun t => MbxEnds m .badSelector t ∧ MbxOnly (hostWrote m.host s) t := by
  have reserved : reservedOp 2 m.args = some .badSelector := by simp [reservedOp, hsel]
  have row : exec (.mailboxBadOpcode m 2) s =
      .next (mailbox 2 false true false m.args (fun _ => .refuse .badSelector) m s) :=
    show execMailboxBadOpcode m 2 s = _ by simp [execMailboxBadOpcode, opcodes, reserved]
  exact ⟨_, row, mailbox_refuse_ends 2 false m.args m hs rfl⟩

end Sys2Proof.Machine

namespace Sys2Proof

open Sys2Proof.Machine

/-- Settles O16: the two outcomes of a STATE_READ row, then ENG_INFO, the debug window, and ACCUMULATOR through the mailbox. -/
theorem readbackReturnsTheRecord : Obligations.ReadbackReturnsTheRecord := by
  unfold Obligations.ReadbackReturnsTheRecord
  refine ⟨?_, fun m s => engInfo_ok, fun s r hs hw hf hr => congrArg _ (takeSnapshot_ok hs hw hf hr),
    fun s hs hsel hl => congrArg _ (takeSnapshot_locked hs hsel hl), fun i s => stateReadAccumulator_locked,
    fun i s b => stateReadAccumulator_ok, fun m s hsel hs _ => stateRead_accumulator_refused hsel hs⟩
  intro e he m s hs a hz hctx hd
  have hn : ReadNamed e.2.1 a m s := ⟨hz, hctx⟩
  refine ⟨fun hout harea => ?_, fun r hr ho => ?_⟩
  · have refused : outRefused a m (mbxIn 2 m a s) = true := by simp [outRefused, hout, harea]
    exact readRow_badAddress he rfl hs hn refused
  · have allowed : outRefused a m (mbxIn 2 m a s) = false := by
      rcases ho with hout | harea
      · simp [outRefused, hout]
      · simp [outRefused, harea]
    obtain ⟨t, ht, hends, hres, hcounters, honly⟩ := readRow_ok he rfl hs hn hd hr allowed
    refine ⟨t, ht, hends, hres, fun keep => ?_, fun clear i => ?_, fun hout => ?_, fun hout => ?_⟩
    · rw [hcounters, keep, readClear_keep]
    · have values : counterVal t i = counterVal (readClear e.2.1 e.2.2 a s) i := by rw [counterVal, hcounters]; rfl
      rw [values, readRow_clear e he clear, clear]
      exact counterVal_readClear a s i
    · rwa [writeOut_zero hout] at honly
    · rwa [writeOut_pos hout] at honly

end Sys2Proof
end

section
/-! SUPPORT. Runs of row programs: what each change of a run does to its registers and its staged stores, and what the instruction that is
next on a core does (R188 to R199). -/

namespace Sys2Proof.Machine

/-! ### Lanes and v registers (R190, R198) -/

/-- The lane is selected: active in p0, and taken by PRED and PNEG. -/
def RowRun.selects (r : RowRun) (o : RowOp) (l : Nat) : Bool := r.pbit 0 l && (r.pbit o.pred l != o.pneg)

theorem RowRun.lanes_eq_filter (r : RowRun) (o : RowOp) : r.lanes o = (List.range 8).filter (r.selects o) := rfl

theorem RowRun.mem_lanes {r : RowRun} {o : RowOp} {l : Nat} : l ∈ r.lanes o ↔ l < 8 ∧ r.selects o l = true := by
  rw [lanes_eq_filter, List.mem_filter, List.mem_range]

/-- Lanes of a v register are written one after the other. -/
def RowRun.setLanes (d : Nat) (g : Nat → Word32) (ls : List Nat) (r : RowRun) : RowRun :=
  ls.foldl (fun acc l => acc.setLane d l (g l)) r

theorem RowRun.setLanes_frame (d : Nat) (g : Nat → Word32) (ls : List Nat) (r : RowRun) :
    r.setLanes d g ls = { r with v := (r.setLanes d g ls).v } := by
  induction ls generalizing r with
  | nil => rfl
  | cons l ls ih => exact ih (r.setLane d l (g l))

theorem RowRun.onlyV_trans {a b c : RowRun} (h₁ : b = { a with v := b.v }) (h₂ : c = { b with v := c.v }) : c = { a with v := c.v } :=
  h₂.trans (congrArg (fun x : RowRun => { x with v := c.v }) h₁)

theorem RowRun.setLanes_length (d : Nat) (g : Nat → Word32) (ls : List Nat) (r : RowRun) :
    (r.setLanes d g ls).v.length = r.v.length := by
  induction ls generalizing r with
  | nil => rfl
  | cons l ls ih => exact (ih (r.setLane d l (g l))).trans (by simp [setLane])

/-- The lanes named hold the new values, and every other lane of every register what it held. -/
theorem RowRun.getD_setLanes {d : Nat} (g : Nat → Word32) {ls : List Nat} {r : RowRun} (hls : ∀ l ∈ ls, l < 8) (hv : r.v.length = 128)
    (hd : d < 16) {k l : Nat} (hl : l < 8) :
    (r.setLanes d g ls).v.getD (8 * k + l) 0 = if k = d ∧ l ∈ ls then g l else r.v.getD (8 * k + l) 0 := by
  induction ls generalizing r with
  | nil => simp [setLanes]
  | cons m ls ih =>
    obtain ⟨hm, hls⟩ := List.forall_mem_cons.mp hls
    have first : (r.setLane d m (g m)).v.getD (8 * k + l) 0 = if k = d ∧ l = m then g l else r.v.getD (8 * k + l) 0 := by
      have place : 8 * d + m = 8 * k + l ↔ k = d ∧ l = m := by omega
      have inside : 8 * d + m < r.v.length := by omega
      by_cases h : k = d ∧ l = m
      · obtain ⟨rfl, rfl⟩ := h
        simp [setLane, List.getD, inside]
      · have apart : ¬ 8 * d + m = 8 * k + l := mt place.mp h
        simp [setLane, List.getD, h, List.getElem?_set_ne apart]
    refine (ih hls (r := r.setLane d m (g m)) (by simpa [setLane] using hv)).trans ?_
    rw [first]
    by_cases hk : k = d <;> by_cases hm : l = m <;> simp [hk, hm]

theorem RowRun.laneOr0_eq (r : RowRun) (o : RowOp) {l : Nat} (hl : l < 8) :
    r.laneOr0 o l = if r.selects o l then r.src o.srcA l else 0 := by
  have lane : (r.lanes o).contains l = r.selects o l := by
    rw [Bool.eq_iff_iff, List.contains_iff_mem, mem_lanes]
    exact and_iff_right hl
  rw [laneOr0, lane]
  rfl

/-- The sum of eight lanes, pairwise (R197). -/
def laneSum (x : Nat → Word32) : Word32 :=
  fadd (fadd (fadd (x 0) (x 1)) (fadd (x 2) (x 3))) (fadd (fadd (x 4) (x 5)) (fadd (x 6) (x 7)))

theorem RowRun.laneSum_laneOr0 (r : RowRun) (o : RowOp) :
    laneSum (r.laneOr0 o) = laneSum fun l => if r.selects o l then r.src o.srcA l else 0 := by
  simp only [laneSum, laneOr0_eq, Nat.reduceLT]

/-! ### What the kinds of instruction write (R195 to R198) -/

/-- An arithmetic instruction's values are in the selected lanes of a v register, or once in an s register. -/
def RowRun.ArithWrites (r : RowRun) (o : RowOp) (g : Nat → Word32) (r' : RowRun) : Prop :=
  (o.dst < 16 → r' = { r with v := r'.v } ∧ ∀ d l, d < 16 → l < 8 →
    r'.v.getD (8 * d + l) 0 = if d = o.dst ∧ r.selects o l = true then g l else r.v.getD (8 * d + l) 0) ∧
  (16 ≤ o.dst → r' = { r with s := r.s.set (o.dst - 16) (g 0) })

theorem RowRun.arith_writes (f : RowRun → Nat → Word32) (o : RowOp) {r : RowRun} (hv : r.v.length = 128) :
    r.ArithWrites o (f r) (r.arith f o) := by
  refine ⟨fun hd => ?_, fun hd => if_neg (Nat.not_lt.mpr hd)⟩
  have lanes : r.arith f o = r.setLanes o.dst (f r) (r.lanes o) := if_pos hd
  rw [lanes]
  refine ⟨setLanes_frame .., fun d l _ hl => ?_⟩
  rw [getD_setLanes (f r) (fun m hm => (mem_lanes.mp hm).1) hv hd hl]
  simp only [mem_lanes, hl, true_and]

/-- A predicate holds one bit for each lane, and the others what they held. -/
def RowRun.PredWrites (r : RowRun) (o : RowOp) (b : Nat → Bool) (r' : RowRun) : Prop :=
  r' = { r with p := r'.p } ∧ ∀ k l, k < 4 → l < 8 → r'.pbit k l = if k = o.dst then b l else r.pbit k l

theorem testBit_b2n (b : Bool) : (b2n b).testBit 0 = b := by cases b <;> rfl

/-- The predicate's bits, packed one for each lane, read as they were packed. -/
theorem testBit_packLanes (f : Nat → Bool) {l : Nat} (hl : l < 8) :
    (packFields ((List.range 8).map fun i => (i, 1, b2n (f i)))).testBit l = f l := by
  have rise : fieldsRise 0 ((List.range 8).map fun i => (i, 1, b2n (f i))) = true := rfl
  have field : (l, 1, b2n (f l)) ∈ (List.range 8).map fun i => (i, 1, b2n (f i)) :=
    List.mem_map_of_mem (f := fun i => (i, 1, b2n (f i))) (List.mem_range.mpr hl)
  have bit : bitsOf (packFields ((List.range 8).map fun i => (i, 1, b2n (f i)))) l 1 = bitsOf (b2n (f l)) 0 1 :=
    bitsOf_packFields_within rise field (d := 0) (Nat.le_refl 1)
  simpa only [testBit_bitsOf, Nat.zero_lt_one, decide_true, Bool.true_and, Nat.add_zero, testBit_b2n] using congrArg (·.testBit 0) bit

theorem RowRun.pbit_set {r : RowRun} (hp : r.p.length = 4) {d k l x : Nat} (hk : k < 4) :
    ({ r with p := r.p.set d x } : RowRun).pbit k l = if k = d then x.testBit l else r.pbit k l := by
  by_cases h : k = d
  · subst h
    simp [pbit, List.getD, hp, hk]
  · simp [pbit, List.getD, h, List.getElem?_set_ne (Ne.symm h)]

theorem RowRun.setPred_writes (f : Nat → Bool) (o : RowOp) {r : RowRun} (hp : r.p.length = 4) :
    r.PredWrites o f (r.setPred o.dst f) :=
  ⟨rfl, fun _ _ hk hl => by rw [setPred, pbit_set hp hk, testBit_packLanes f hl]⟩

/-- A load's values are in the selected lanes, and +0 in the inactive ones. -/
def RowRun.LoadWrites (r : RowRun) (o : RowOp) (g : Nat → Word32) (r' : RowRun) : Prop :=
  r' = { r with v := r'.v } ∧ ∀ d l, d < 16 → l < 8 → r'.v.getD (8 * d + l) 0 =
    if d = o.dst ∧ r.selects o l = true then g (8 * r.chunk + l) else if d = o.dst ∧ r.pbit 0 l = false then 0 else r.v.getD (8 * d + l) 0

/-- A load clears the inactive lanes, and then writes the selected ones. -/
theorem RowRun.load_eq (r : RowRun) (o : RowOp) (g : Nat → Word32) : r.load o g =
    (r.setLanes o.dst (fun _ => 0) ((List.range 8).filter fun l => !r.pbit 0 l)).setLanes o.dst (fun l => g (8 * r.chunk + l)) (r.lanes o) := by
  unfold load setLanes
  rw [List.foldl_filter]
  simp only [Bool.not_eq_true', f0]
  congr 2
  funext acc l
  cases r.pbit 0 l <;> rfl

theorem RowRun.load_writes (g : Nat → Word32) {o : RowOp} {r : RowRun} (hv : r.v.length = 128) (hd : o.dst < 16) :
    r.LoadWrites o g (r.load o g) := by
  rw [load_eq]
  refine ⟨?_, fun d l _ hl => ?_⟩
  · exact onlyV_trans (setLanes_frame ..) (setLanes_frame ..)
  · have cleared := (setLanes_length o.dst (fun _ => 0) ((List.range 8).filter fun l => !r.pbit 0 l) r).trans hv
    rw [getD_setLanes _ (fun m hm => (mem_lanes.mp hm).1) cleared hd hl,
      getD_setLanes _ (fun m hm => List.mem_range.mp (List.mem_filter.mp hm).1) hv hd hl]
    simp only [mem_lanes, List.mem_filter, List.mem_range, hl, true_and, Bool.not_eq_true']

/-! ### Stores to the staging buffer (R193) -/

/-- Values put at consecutive places, one for each lane named. -/
theorem Tab.get?_putLanes {α : Type} (base : Nat) (g : Nat → α) (ls : List Nat) (t : Tab α) (e : Nat) :
    Tab.get? (ls.foldl (fun t l => Tab.put t (base + l) (g l)) t) e =
      if base ≤ e ∧ e - base ∈ ls then some (g (e - base)) else Tab.get? t e := by
  induction ls generalizing t with
  | nil => simp
  | cons l ls ih =>
    rw [List.foldl_cons, ih]
    by_cases he : e = base + l
    · subst he
      simp
    · have apart : ¬ (base ≤ e ∧ e - base = l) := by omega
      rw [Tab.get?_put_other _ _ _ he]
      by_cases hb : base ≤ e
      · have : ¬ e - base = l := fun h => apart ⟨hb, h⟩
        simp [hb, this]
      · simp [hb]

theorem RowRun.stage_eq (r : RowRun) (o : RowOp) (split : Bool) : r.stage o split =
    { r with data := (r.lanes o).foldl (fun t l => Tab.put t (8 * r.chunk + l) (r.src o.srcA l, split)) r.data } :=
  List.foldl_hom (fun d => ({ r with data := d } : RowRun)) fun _ _ => rfl

/-- A place that a data store names is that of a selected lane of the chunk. -/
theorem RowRun.mem_lanes_at {r : RowRun} {o : RowOp} {e : Nat} :
    (8 * r.chunk ≤ e ∧ e - 8 * r.chunk ∈ r.lanes o) ↔ (e / 8 = r.chunk ∧ r.selects o (e % 8) = true) := by
  rw [mem_lanes]
  constructor
  · rintro ⟨h1, h2, h3⟩
    have : e - 8 * r.chunk = e % 8 := by omega
    exact ⟨by omega, this ▸ h3⟩
  · rintro ⟨h1, h2⟩
    have : e - 8 * r.chunk = e % 8 := by omega
    exact ⟨by omega, by omega, this ▸ h2⟩

theorem RowRun.stage_frame (r : RowRun) (o : RowOp) (split : Bool) : r.stage o split = { r with data := (r.stage o split).data } := by
  rw [stage_eq]

theorem RowRun.get?_stage_data (r : RowRun) (o : RowOp) (split : Bool) (e : Nat) : Tab.get? (r.stage o split).data e =
    if e / 8 = r.chunk ∧ r.selects o (e % 8) = true then some (r.src o.srcA (e % 8), split) else Tab.get? r.data e := by
  rw [stage_eq, Tab.get?_putLanes]
  simp only [mem_lanes_at]
  by_cases h : e / 8 = r.chunk ∧ r.selects o (e % 8) = true
  · have : e - 8 * r.chunk = e % 8 := by omega
    rw [if_pos h, if_pos h, this]
  · rw [if_neg h, if_neg h]

/-- STS: each selected lane's value is staged at its plane and element. -/
def RowRun.stagePlane (r : RowRun) (o : RowOp) : RowRun :=
  (r.lanes o).foldl (fun acc l => { acc with planes := Tab.put acc.planes (o.srcB * 8192 + 8 * r.chunk + l) (r.src o.srcA l) }) r

theorem RowRun.stagePlane_eq (r : RowRun) (o : RowOp) : r.stagePlane o = { r with
    planes := (r.lanes o).foldl (fun t l => Tab.put t (o.srcB * 8192 + 8 * r.chunk + l) (r.src o.srcA l)) r.planes } :=
  List.foldl_hom (fun d => ({ r with planes := d } : RowRun)) fun _ _ => rfl

theorem RowRun.stagePlane_frame (r : RowRun) (o : RowOp) : r.stagePlane o = { r with planes := (r.stagePlane o).planes } := by
  rw [stagePlane_eq]

theorem RowRun.get?_stagePlane_planes {r : RowRun} (o : RowOp) (hc : r.chunk < 1024) (e : Nat) :
    Tab.get? (r.stagePlane o).planes e =
      if e / 8192 = o.srcB ∧ e % 8192 / 8 = r.chunk ∧ r.selects o (e % 8) = true then some (r.src o.srcA (e % 8))
      else Tab.get? r.planes e := by
  have place : (o.srcB * 8192 + 8 * r.chunk ≤ e ∧ e - (o.srcB * 8192 + 8 * r.chunk) < 8) ↔
      (e / 8192 = o.srcB ∧ e % 8192 / 8 = r.chunk) := by omega
  rw [stagePlane_eq, Tab.get?_putLanes]
  simp only [mem_lanes, ← and_assoc, place]
  by_cases h : e / 8192 = o.srcB ∧ e % 8192 / 8 = r.chunk
  · have lane : e - (o.srcB * 8192 + 8 * r.chunk) = e % 8 := by omega
    rw [lane]
  · simp only [h, false_and, if_false]

/-! ### The instruction that is next on a core (R188) -/

/-- The run on the core is in progress, its table stands, and its core works. -/
structure RunOn (core : Nat) (r : RowRun) (tb : Table) (s : State) : Prop where
  live : s.sys.frozen = false
  run : Tab.get? s.work.upd.runs core = some r
  table : runTable s r = some tb
  running : r.phase = .running
  awake : engineHeld s core = false

/-- Nothing but the run on the core has changed. -/
def OnlyRun (core : Nat) (s t : State) : Prop := t = { s with work := t.work } ∧
  t.work = { s.work with upd := { s.work.upd with runs := t.work.upd.runs } } ∧
  ∀ k, k ≠ core → Tab.get? t.work.upd.runs k = Tab.get? s.work.upd.runs k

/-- The command leaves the core with a run of the property, and changes nothing else. -/
def RunBecomes (core : Nat) (s : State) (c : Instr) (p : RowRun → Prop) : Prop :=
  Completes c s fun t => OnlyRun core s t ∧ ∃ r', Tab.get? t.work.upd.runs core = some r' ∧ p r'

/-- The command gives the run the effect, and the run goes on (R188). -/
def RunGoesOn (core : Nat) (tb : Table) (s : State) (c : Instr) (p : RowRun → Prop) : Prop :=
  Completes c s fun t => OnlyRun core s t ∧ ∃ r', Tab.get? t.work.upd.runs core = some (r'.advance (shapeOf tb.desc).elements) ∧ p r'

theorem onlyRun_put (core : Nat) (r : RowRun) (s : State) :
    OnlyRun core s (updUpd (fun u => { u with runs := Tab.put u.runs core r }) s) :=
  ⟨rfl, rfl, fun k hk => Tab.get?_put_other core k r hk _⟩

section
variable {core : Nat} {r : RowRun} {tb : Table} {s : State} {o : RowOp} {op : Nat} {c : Instr}
variable (h : RunOn core r tb s) (hb : r.begun = true) (hn : r.code[r.pc]? = some (instrWord op o))
include h hb hn

/-- The instruction that is next has its effect on the run, and the run goes on. -/
theorem RunOn.goesOn {f : State → RowShape → RowRun → RowRun} (hc : exec c s = rowInstr op core o f s) {p : RowRun → Prop}
    (hp : p (f s (shapeOf tb.desc) r)) : RunGoesOn core tb s c p := by
  obtain ⟨hlive, hrun, htable, hrunning, hawake⟩ := h
  refine ⟨_, hc.trans ?_, onlyRun_put core ((f s (shapeOf tb.desc) r).advance (shapeOf tb.desc).elements) s,
    f s (shapeOf tb.desc) r, Tab.get?_put_same .., hp⟩
  simp [rowInstr, live_next _ hlive, hrun, htable, hrunning, hb, hawake, hn]

/-- An arithmetic instruction (R195, R196). -/
theorem RunOn.arith (hv : r.v.length = 128) (f : RowRun → Nat → Word32) (hc : exec c s = rowInstr op core o (fun _ _ r => r.arith f o) s) :
    RunGoesOn core tb s c (r.ArithWrites o (f r)) :=
  h.goesOn hb hn hc (r.arith_writes f o hv)

theorem RunOn.arith2 (hv : r.v.length = 128) {f : Word32 → Word32 → Word32} (hc : exec c s = rowArith2 op f core o s) :
    RunGoesOn core tb s c (r.ArithWrites o fun l => f (r.src o.srcA l) (r.src o.srcB l)) :=
  h.arith hb hn hv (fun r l => f (r.src o.srcA l) (r.src o.srcB l)) hc

theorem RunOn.arith1 (hv : r.v.length = 128) {f : Word32 → Word32} (hc : exec c s = rowArith1 op f core o s) :
    RunGoesOn core tb s c (r.ArithWrites o fun l => f (r.src o.srcA l)) :=
  h.arith hb hn hv (fun r l => f (r.src o.srcA l)) hc

/-- A predicate instruction (R197). -/
theorem RunOn.pred (hp : r.p.length = 4) (f : RowRun → Nat → Bool) (hc : exec c s = rowInstr op core o (fun _ _ r => r.setPred o.dst (f r)) s) :
    RunGoesOn core tb s c (r.PredWrites o (f r)) :=
  h.goesOn hb hn hc (r.setPred_writes (f r) o hp)

theorem RunOn.compare (hp : r.p.length = 4) {f : Word32 → Word32 → Bool} (hc : exec c s = rowCompare op f core o s) :
    RunGoesOn core tb s c (r.PredWrites o fun l => r.pbit 0 l && f (r.src o.srcA l) (r.src o.srcB l)) :=
  h.pred hb hn hp (fun r l => r.pbit 0 l && f (r.src o.srcA l) (r.src o.srcB l)) hc

/-- An instruction that writes one s register (R191, R192, R197). -/
theorem RunOn.scalar (g : State → RowShape → RowRun → Word32) (hc : exec c s = rowInstr op core o (fun s sh r => r.setS o.dst (g s sh r)) s) :
    RunGoesOn core tb s c (fun r' => r' = { r with s := r.s.set (o.dst - 16) (g s (shapeOf tb.desc) r) }) :=
  h.goesOn hb hn hc rfl

/-- A load (R192). -/
theorem RunOn.load (hv : r.v.length = 128) (hd : o.dst < 16) (g : State → RowShape → RowRun → Nat → Word32)
    (hc : exec c s = rowInstr op core o (fun s sh r => r.load o (g s sh r)) s) :
    RunGoesOn core tb s c (r.LoadWrites o (g s (shapeOf tb.desc) r)) :=
  h.goesOn hb hn hc (r.load_writes _ hv hd)

end

/-- RADD: the sum of the selected lanes is added to the register (R197). -/
theorem RunOn.radd {core : Nat} {r : RowRun} {tb : Table} {s : State} {o : RowOp} (h : RunOn core r tb s) (hb : r.begun = true)
    (hn : r.code[r.pc]? = some (instrWord 0x1C o)) :
    RunGoesOn core tb s (.radd core o) fun r' =>
      r' = { r with s := r.s.set (o.dst - 16) (fadd (r.src o.dst 0) (laneSum fun l => if r.selects o l then r.src o.srcA l else 0)) } :=
  h.goesOn (f := fun _ _ r => r.setS o.dst (fadd (r.src o.dst 0) (laneSum (r.laneOr0 o)))) hb hn rfl
    (congrArg (fun y => r.setS o.dst (fadd (r.src o.dst 0) y)) (r.laneSum_laneOr0 o))

/-- A pass section begins a chunk: p0 becomes the chunk's active lanes (R189). -/
theorem RunOn.chunkStart {core : Nat} {r : RowRun} {tb : Table} {s : State} (h : RunOn core r tb s) (hb : r.begun = false)
    (hs : r.sect = 0 ∨ r.sect = 2) {p : RowRun → Prop}
    (hp : p { r with begun := true, p := r.p.set 0 (laneMask (tdElems tb.desc) r.chunk) }) :
    RunBecomes core s (.chunkStart core) p := by
  obtain ⟨hlive, hrun, htable, hrunning, hawake⟩ := h
  have pass : r.sect ≠ 1 ∧ r.sect < 3 := by omega
  refine ⟨_, ?_, onlyRun_put core _ s, _, Tab.get?_put_same .., hp⟩
  show execChunkStart core s = _
  simp [execChunkStart, live_next _ hlive, hrun, htable, hrunning, hb, hawake, pass]

theorem testBit_laneMask (e c : Nat) {l : Nat} (hl : l < 8) : (laneMask e c).testBit l = decide (8 * c + l < e) := by
  have : l < min 8 (e - 8 * c) ↔ 8 * c + l < e := by omega
  rw [laneMask, Nat.testBit_two_pow_sub_one, decide_eq_decide]
  exact this

/-! ### The commands of one kind (R197) -/

theorem exec_twoOperands {op : Nat} {i : Nat → RowOp → Instr} {f : Word32 → Word32 → Word32}
    (h : (op, i, f) ∈ [(0x01, Instr.fadd, fadd), (0x02, .fsub, fsub), (0x03, .fmul, fmul), (0x06, .fmax, fmax), (0x07, .fmin, fmin)])
    (core : Nat) (o : RowOp) (s : State) : exec (i core o) s = rowArith2 op f core o s := by
  simp only [List.mem_cons, Prod.mk.injEq, List.not_mem_nil, or_false] at h
  rcases h with ⟨rfl, rfl, rfl⟩ | ⟨rfl, rfl, rfl⟩ | ⟨rfl, rfl, rfl⟩ | ⟨rfl, rfl, rfl⟩ | ⟨rfl, rfl, rfl⟩ <;> rfl

theorem exec_oneOperand {op : Nat} {i : Nat → RowOp → Instr} {f : Word32 → Word32}
    (h : (op, i, f) ∈ [(0x08, Instr.fabs, fabs), (0x09, .fneg, fneg), (0x0A, .mov, fun x => x), (0x10, .rcp, rcp32),
      (0x11, .rsqrt, rsqrt32), (0x12, .exp2, exp232), (0x13, .log2, log232)])
    (core : Nat) (o : RowOp) (s : State) : exec (i core o) s = rowArith1 op f core o s := by
  simp only [List.mem_cons, Prod.mk.injEq, List.not_mem_nil, or_false] at h
  rcases h with ⟨rfl, rfl, rfl⟩ | ⟨rfl, rfl, rfl⟩ | ⟨rfl, rfl, rfl⟩ | ⟨rfl, rfl, rfl⟩ | ⟨rfl, rfl, rfl⟩ | ⟨rfl, rfl, rfl⟩ |
    ⟨rfl, rfl, rfl⟩ <;> rfl

theorem exec_compare {op : Nat} {i : Nat → RowOp → Instr} {f : Word32 → Word32 → Bool}
    (h : (op, i, f) ∈ [(0x14, Instr.fcmpLt, fltb), (0x15, .fcmpLe, fleb), (0x16, .fcmpEq, feqb), (0x17, .fcmpUn, funb)])
    (core : Nat) (o : RowOp) (s : State) : exec (i core o) s = rowCompare op f core o s := by
  simp only [List.mem_cons, Prod.mk.injEq, List.not_mem_nil, or_false] at h
  rcases h with ⟨rfl, rfl, rfl⟩ | ⟨rfl, rfl, rfl⟩ | ⟨rfl, rfl, rfl⟩ | ⟨rfl, rfl, rfl⟩ <;> rfl

theorem exec_dataStore {op : Nat} {i : Nat → RowOp → Instr} {split : Bool}
    (h : (op, i, split) ∈ [(0x30, Instr.str, false), (0x31, .strj, true)]) (core : Nat) (o : RowOp) (s : State) :
    exec (i core o) s = rowInstr op core o (fun _ _ r => r.stage o split) s := by
  simp only [List.mem_cons, Prod.mk.injEq, List.not_mem_nil, or_false] at h
  rcases h with ⟨rfl, rfl, rfl⟩ | ⟨rfl, rfl, rfl⟩ <;> rfl

/-! ### PROGRAM_END (R176, R177, R193) -/

/-- A committing row that is put reads back, and no other row has changed. -/
theorem rowOf_putRow_committing {x : Row} (h : x.committing = true) (key k : Nat) (s : State) :
    rowOf (putRow key x s) k = if k = key then x else rowOf s k := by
  have kept : putRow key x s = updTables (fun w => { w with rows := Tab.put w.rows key x }) s := by simp [putRow, h]
  rw [kept]
  by_cases hk : k = key
  · simp [rowOf, updTables, hk]
  · simp [rowOf, updTables, hk]

/-- What PROGRAM_END leaves: the run with its commit formed, and its row committing. -/
def programEnded (core : Nat) (r : RowRun) (sh : RowShape) (s : State) : State :=
  let row := rowOf s r.grad.key
  let formed := { r with image := commitImage sh (workingBytes sh row) r, phase := .committing }
  putRow r.grad.key { row with committing := true } (updUpd (fun u => { u with runs := Tab.put u.runs core formed }) s)

theorem RunOn.programEnd {core : Nat} {r : RowRun} {tb : Table} {s : State} (h : RunOn core r tb s) (hs : r.sect = 3)
    (hc : (rowOf s r.grad.key).committing = false) (hm : (rowOf s r.grad.key).migrating = false) :
    exec (.programEnd core) s = .next (programEnded core r (shapeOf tb.desc) s) := by
  obtain ⟨hlive, hrun, htable, hrunning, hawake⟩ := h
  show execProgramEnd core s = _
  rw [execProgramEnd, live_next _ hlive]
  simp only [hrun, htable]
  rw [if_pos ⟨hrunning, hs, by simp [hc, hm], hawake⟩]
  rfl

end Sys2Proof.Machine

namespace Sys2Proof

open Sys2Proof.Machine

/-- Settles O32: each instruction by what its kind writes, then CHUNK_START and PROGRAM_END. -/
theorem rowProgramInstructions : Obligations.RowProgramInstructions := by
  unfold Obligations.RowProgramInstructions
  intro core r tb s hf hr htb hph he hv hs hp sh only
  have h : RunOn core r tb s := ⟨hf, hr, htb, hph, he⟩
  refine ⟨fun hb o _ _ _ _ _ => ?_, fun hb hsect => ?_, fun hsect hc hm => ?_⟩
  · intro next sel runs arith pred loads bs st
    exact ⟨fun hn => h.goesOn (f := fun _ _ r => r) hb hn rfl rfl,
      fun op i f hi hn => h.arith2 hb hn hv (exec_twoOperands hi core o s),
      fun hn => h.arith hb hn hv (fun r l => ffma (r.src o.srcA l) (r.src o.srcB l) (r.src o.srcC l)) rfl,
      fun hn => h.arith hb hn hv (fun r l => ffnma (r.src o.srcA l) (r.src o.srcB l) (r.src o.srcC l)) rfl,
      fun op i f hi hn => h.arith1 hb hn hv (exec_oneOperand hi core o s),
      fun hn => h.arith hb hn hv (fun r l => if r.pbit o.srcC l then r.src o.srcA l else r.src o.srcB l) rfl,
      fun _ => ⟨fun op i f hi hn => h.compare hb hn hp (exec_compare hi core o s),
        fun hn => h.pred hb hn hp (fun r l => r.pbit o.srcA l && r.pbit o.srcB l) rfl,
        fun hn => h.pred hb hn hp (fun r l => (r.pbit o.srcA l || r.pbit o.srcB l) && r.pbit 0 l) rfl,
        fun hn => h.pred hb hn hp (fun r l => !r.pbit o.srcA l && r.pbit 0 l) rfl⟩,
      fun _ => ⟨fun hn => h.radd hb hn,
        fun hn => h.scalar hb hn (fun _ _ r => (r.lanes o).foldl (fun acc l => fmax acc (r.src o.srcA l)) (r.src o.dst 0)) rfl,
        fun hn => h.scalar hb hn (fun s sh r => specialInput s sh r o.srcA) rfl,
        fun hn => h.scalar hb hn (fun s sh r => stateWord sh (stateOf sh (runRow s sh r)) o.srcB) rfl⟩,
      fun hd => ⟨fun hn => h.load hb hn hv hd (fun _ _ r i => r.grad.elems.getD i 0) rfl,
        fun hn => h.load hb hn hv hd (fun s sh r i => term1 sh (runRow s sh r) i) rfl,
        fun hn => h.load hb hn hv hd (fun s sh r i => termJoined sh (runRow s sh r) i) rfl,
        fun hn => h.load hb hn hv hd (fun s sh r i => stateVal sh (stateOf sh (runRow s sh r)) o.srcB i) rfl⟩,
      fun op i split hi hn => h.goesOn hb hn (exec_dataStore hi core o s) ⟨r.stage_frame o split, r.get?_stage_data o split⟩,
      fun hn hchunk => h.goesOn (f := fun _ _ r => r.stagePlane o) hb hn rfl ⟨r.stagePlane_frame o, r.get?_stagePlane_planes o hchunk⟩,
      fun hn => h.goesOn (f := fun _ _ r => { r with words := Tab.put r.words o.srcB (r.src o.srcA 0) }) hb hn rfl rfl⟩
  · refine h.chunkStart hb hsect ⟨rfl, fun k l hk hl => ?_⟩
    rw [← testBit_laneMask _ _ hl]
    exact RowRun.pbit_set hp hk
  · refine ⟨_, h.programEnd hsect hc hm, ?_, ?_, ?_, ?_, ?_, ?_⟩
    · exact Tab.get?_put_same ..
    · exact (rowOf_putRow_committing rfl _ _ _).trans (if_pos rfl)
    · exact fun k hk => Tab.get?_put_other core k _ hk _
    · exact fun k hk => (rowOf_putRow_committing rfl _ _ _).trans (if_neg hk)
    · rfl
    · rfl

end Sys2Proof
end

section
/-! SUPPORT. A timeout of the host agent on the move of a row that has no place: the row is dropped with its move (R239, R252). -/

namespace Sys2Proof.Machine

/-- A row that is put with no version and nothing else to keep is dropped: it reads as one that was never written. -/
theorem rowOf_putRow_dropped {x : Row} (hp : x.place.tier = 0) (hd : x.deltas = []) (hf : x.fenced = false) (hc : x.chain = 0)
    (hk : x.committing = false) (hm : x.move = none) (key : Nat) (s : State) : rowOf (putRow key x s) key = {} := by
  have dropped : putRow key x s = updTables (fun w => { w with rows := Tab.del w.rows key }) s := by
    simp [putRow, hp, hd, hf, hc, hk, hm]
  rw [dropped]
  simp [rowOf, updTables, Tab.getD]

/-- A row with a stamp and a move but no place in any tier. -/
def unplacedRow : Row := { stamp := 1, move := some { dest := .device 0 } }

/-- After reset, with that row under key 0 and a READ for its move outstanding under SEQ 0. -/
def unplacedMove : State :=
  { work := { tbl := { rows := [(0, unplacedRow)], t4 := { attached := true, outstanding := [(0, .move 0, 0, 0, [])] } } } }

/-- What the timeout of that READ leaves: the move is given up. -/
def unplacedGivenUp : State := continueJobs (abandonMove 0 (t4Drop (.move 0) unplacedMove))

theorem exec_t4Timeout_unplaced : exec (.t4Timeout 0) unplacedMove = .next unplacedGivenUp := rfl

/-- The row has gone with its move, and its stamp with it. -/
theorem rowOf_unplacedGivenUp : rowOf unplacedGivenUp 0 = {} :=
  rowOf_putRow_dropped (x := { unplacedRow with move := none }) rfl rfl rfl rfl rfl rfl 0 (t4Drop (.move 0) unplacedMove)

end Sys2Proof.Machine

namespace Sys2Proof

open Sys2Proof.Machine

/-- Refutes O39: the clause of T4_TIMEOUT on a move says that the row stays as it was but for its move, in every state. A row in no tier, with
no delta version, is kept by its move alone, so it is dropped with the move and loses what else it held: here its stamp. A row that moves is
meant to have a backing location (R210, R237); the clause lacks that premise, `(rowOf s key).written = true`. -/
theorem not_hostAgentServesT4 : ¬ Obligations.HostAgentServesT4 := by
  unfold Obligations.HostAgentServesT4
  rintro ⟨-, -, timeout⟩
  obtain ⟨-, requests⟩ := timeout 0 unplacedMove rfl
  obtain ⟨-, -, -, move, -⟩ := requests (.move 0) 0 0 [] rfl
  obtain ⟨t, ht, hrow, -⟩ := move 0 { dest := .device 0 } rfl rfl rfl rfl rfl
  have given : t = unplacedGivenUp := by
    rw [exec_t4Timeout_unplaced] at ht
    exact (Host.Outcome.next.inj ht).symm
  rw [given, rowOf_unplacedGivenUp] at hrow
  exact absurd (congrArg Row.stamp hrow) (by decide)

end Sys2Proof
end

section
/-! SUPPORT. Program slots: how a PROGRAM_LOAD and its EMPTY form begin and are refused, and what PROGRAM_SLOT_WRITE installs (R205, R207,
R208). -/

namespace Sys2Proof.Machine

/-! ### Sparse tables -/

@[simp] theorem Tab.get?_del_other {α : Type} (k i : Nat) (h : i ≠ k) : ∀ t : Tab α, Tab.get? (Tab.del t k) i = Tab.get? t i
  | [] => rfl
  | (j, u) :: rest => by
    have ih := Tab.get?_del_other k i h rest
    unfold Tab.del at ih ⊢
    by_cases hj : j = k
    · subst hj
      simpa [Tab.get?, Ne.symm h] using ih
    · simp [Tab.get?, hj, ih]

/-- The table with a value at key `k`, or with none there. -/
def Tab.putOpt {α : Type} (t : Tab α) (k : Nat) : Option α → Tab α
  | some v => Tab.put t k v
  | none => Tab.del t k

@[simp] theorem Tab.get?_putOpt_same {α : Type} (t : Tab α) (k : Nat) : ∀ o : Option α, Tab.get? (Tab.putOpt t k o) k = o
  | some v => Tab.get?_put_same k v t
  | none => Tab.get?_del_same k t

@[simp] theorem Tab.get?_putOpt_other {α : Type} (t : Tab α) {k i : Nat} (h : i ≠ k) :
    ∀ o : Option α, Tab.get? (Tab.putOpt t k o) i = Tab.get? t i
  | some v => Tab.get?_put_other k i v h t
  | none => Tab.get?_del_other k i h t

/-! ### The end of a command that waits (R356) -/

/-- What the command in the mailbox waits for has come: the command ends. -/
theorem jobEnd_running {r : Running} {w : JobWait} {s : State} (st : Status) (result : Nat) (hr : s.mbx.running = some r)
    (hw : r.wait = w) : jobEnd w st result s = mbxEnd r.tag st (BitVec.ofNat 2048 result) s := by
  simp [jobEnd, hr, hw]

theorem mbxEnd_jobEnds (r : Running) (st : Status) (result : BitVec 2048) (s : State) :
    JobEnds r st (mbxEnd r.tag st result s) := by
  refine ⟨?_, ?_, ?_, ?_, ?_⟩ <;> simp

/-- A mailbox that is open in READY serves the commands of every kind. -/
theorem mbxServes_of_mbxOpen {s : State} (h : MbxOpen s) (always safeToo : Bool) : MbxServes always safeToo s := by
  obtain ⟨up, idle, ready⟩ := h
  exact ⟨up, idle, by simp [servedNow, ready]⟩

/-! ### The begin of a load or an emptying (R208) -/

/-- The command waits in the mailbox for a load, or with no program an emptying, that is held behind those that wait for the slot; nothing
else changes but the host's writes. -/
def LoadBegun (m : MbxCall) (slot ctx : Nat) (p : Option Program) (s t : State) : Prop :=
  let old := Tab.getD s.work.upd.loading slot []
  ∃ id, (∀ x ∈ old.getLast?, id = x.id + 1) ∧ MbxWaits 0x24 m (.programLoad slot id) t ∧
    Tab.get? t.work.upd.loading slot = some (old ++ [{ id := id, ctx := ctx, program := p }]) ∧
    (∀ k, k ≠ slot → Tab.get? t.work.upd.loading k = Tab.get? s.work.upd.loading k) ∧
    t = { hostWrote m.host s with mbx := t.mbx, work := t.work } ∧
    t.work = { s.work with upd := { s.work.upd with loading := t.work.upd.loading } }

/-- A body that takes the slot begins the load. -/
theorem mailbox_loadBegun {m : MbxCall} {s : State} {args : BitVec 2048} {body : State → MbxRes} {slot ctx : Nat} {p : Option Program}
    (ho : MbxOpen s) (hd : m.defer = false) (hb : body (mbxIn 0x24 m args s) = slotBegin slot ctx p (mbxIn 0x24 m args s)) :
    LoadBegun m slot ctx p s (mailbox 0x24 true false false args body m s) := by
  obtain ⟨up, idle, served⟩ := mbxServes_of_mbxOpen ho false false
  rw [mailbox_waits 0x24 true false false args m up idle served hd hb]
  refine ⟨_, fun x hx => ?_, ⟨rfl, rfl, rfl⟩, Tab.get?_put_same _ _ _, fun k hk => Tab.get?_put_other _ _ _ hk _, rfl, rfl⟩
  have last : (Tab.getD s.work.upd.loading slot []).getLast? = some x := hx
  show ((Tab.getD s.work.upd.loading slot []).getLast?.map SlotLoad.id).getD 0 + 1 = x.id + 1
  rw [last]
  rfl

/-- The host's writes and GO change neither the programs nor the loads that wait, so no slot's owner. -/
theorem slotForeign_mbxIn (op : Nat) (m : MbxCall) (args : BitVec 2048) (s : State) (slot ctx : Nat) :
    slotForeign (mbxIn op m args s) slot ctx = slotForeign s slot ctx := rfl

/-- The host's writes and GO change no context. -/
theorem ctxOk_mbxIn (op : Nat) (m : MbxCall) (args : BitVec 2048) (s : State) (ctx : Nat) :
    ctxOk (mbxIn op m args s) m ctx = ctxOk s m ctx := rfl

/-! ### PROGRAM_LOAD (R205, R207, R356) -/

/-- The length of the image that a PROGRAM_LOAD names, as its header gives it. -/
def loadLength (m : MbxCall) (s : State) : Nat := imageLength (devRead s (bits (progArgs false m) 64 56) 64)

/-- What R205 says of the image: the program, or the index of the first instruction that fails. -/
def loadCheck (m : MbxCall) (s : State) : Except Nat Program :=
  checkImage (bits (progArgs false m) 8 8) (devRead s (bits (progArgs false m) 64 56) (loadLength m s))

/-- A PROGRAM_LOAD reaches the check of its image: its fields and context are good, and the image can be read whole. -/
structure LoadReads (m : MbxCall) (s : State) : Prop where
  fields : zeroFields (progArgs false m) (progUnused false) = true
  context : ctxOk s m (bits (progArgs false m) 8 8) = true
  header : areaOk s (m.issuer % 256) (bits (progArgs false m) 64 56) 64 .r .any = true
  image : areaOk s (m.issuer % 256) (bits (progArgs false m) 64 56) (loadLength m s) .r .any = true
  unfenced : areaFenced s (bits (progArgs false m) 64 56) (loadLength m s) = none

/-- The row is a mailbox command whose body, once the image is read, goes by the check of the image and the owner of the slot. -/
theorem exec_programLoad (m : MbxCall) (s : State) : ∃ body : State → MbxRes,
    exec (.programLoad m) s = .next (mailbox 0x24 true false false (progArgs false m) body m s) ∧
    ∀ u, LoadReads m u →
      let slot := bits (progArgs false m) 0 3
      let ctx := bits (progArgs false m) 8 8
      (∀ i, loadCheck m u = .error i → body u = .reply u .badProgram i) ∧
      (∀ p, loadCheck m u = .ok p → slotForeign u slot ctx = true → body u = .refuse .slotBusy) ∧
      (∀ p, loadCheck m u = .ok p → slotForeign u slot ctx = false → body u = slotBegin slot ctx (some p) u) := by
  refine ⟨_, rfl, fun u hu => ?_⟩
  obtain ⟨fields, context, header, image, unfenced⟩ := hu
  unfold loadLength at image unfenced
  refine ⟨fun i hc => ?_, fun p hc hs => ?_, fun p hc hs => ?_⟩ <;> unfold loadCheck loadLength at hc
  · simp [fields, context, header, image, unfenced, hc]
  · simp [fields, context, header, image, unfenced, hc, hs]
  · simp [fields, context, header, image, unfenced, hc, hs]

section
variable {m : MbxCall} {s : State} (ho : MbxOpen s) (hd : m.defer = false)
  (hr : LoadReads m (mbxIn 0x24 m (progArgs false m) s))
include ho hr

theorem programLoad_foreign {p : Program} (hc : loadCheck m (mbxIn 0x24 m (progArgs false m) s) = .ok p)
    (hs : slotForeign s (bits (progArgs false m) 0 3) (bits (progArgs false m) 8 8) = true) :
    Completes (.programLoad m) s fun t => MbxEnds m .slotBusy t ∧ MbxOnly (hostWrote m.host s) t := by
  obtain ⟨body, row, outcomes⟩ := exec_programLoad m s
  obtain ⟨-, foreign, -⟩ := outcomes _ hr
  exact ⟨_, row, mailbox_refuse_ends 0x24 true _ m (mbxServes_of_mbxOpen ho _ _) (foreign p hc hs)⟩

include hd

theorem programLoad_begins {p : Program} (hc : loadCheck m (mbxIn 0x24 m (progArgs false m) s) = .ok p)
    (hs : slotForeign s (bits (progArgs false m) 0 3) (bits (progArgs false m) 8 8) = false) :
    Completes (.programLoad m) s
      (LoadBegun m (bits (progArgs false m) 0 3) (bits (progArgs false m) 8 8) (some p) s) := by
  obtain ⟨body, row, outcomes⟩ := exec_programLoad m s
  obtain ⟨-, -, begins⟩ := outcomes _ hr
  exact ⟨_, row, mailbox_loadBegun ho hd (begins p hc hs)⟩

theorem programLoad_badProgram {i : Nat} (hc : loadCheck m (mbxIn 0x24 m (progArgs false m) s) = .error i) :
    Completes (.programLoad m) s fun t =>
      MbxEnds m .badProgram t ∧ t.mbx.result = BitVec.ofNat 2048 i ∧ MbxOnly (hostWrote m.host s) t := by
  obtain ⟨body, row, outcomes⟩ := exec_programLoad m s
  obtain ⟨bad, -, -⟩ := outcomes _ hr
  obtain ⟨ends, result, only⟩ := mailbox_reply_ends 0x24 (d := true) _ m (mbxServes_of_mbxOpen ho _ _) hd (bad i hc)
  exact ⟨_, row, ends, result, (mbxIn_mbxOnly 0x24 m _ s).trans only⟩

end

/-! ### PROGRAM_LOAD with EMPTY (R207, R208) -/

section
variable {m : MbxCall} {s : State} (ho : MbxOpen s) (hz : zeroFields (progArgs true m) (progUnused true) = true)
  (hc : ctxOk s m (bits (progArgs true m) 8 8) = true)
include ho hz hc

theorem programEmpty_foreign (hs : slotForeign s (bits (progArgs true m) 0 3) (bits (progArgs true m) 8 8) = true) :
    Completes (.programEmpty m) s fun t => MbxEnds m .slotBusy t ∧ MbxOnly (hostWrote m.host s) t :=
  ⟨_, rfl, mailbox_refuse_ends 0x24 true _ m (mbxServes_of_mbxOpen ho _ _)
    (by simp [hz, ctxOk_mbxIn, hc, slotForeign_mbxIn, hs])⟩

theorem programEmpty_begins (hd : m.defer = false)
    (hs : slotForeign s (bits (progArgs true m) 0 3) (bits (progArgs true m) 8 8) = false) :
    Completes (.programEmpty m) s (LoadBegun m (bits (progArgs true m) 0 3) (bits (progArgs true m) 8 8) none s) :=
  ⟨_, rfl, mailbox_loadBegun ho hd (by simp [hz, ctxOk_mbxIn, hc, slotForeign_mbxIn, hs])⟩

end

/-! ### PROGRAM_SLOT_WRITE (R208) -/

/-- The oldest load of the slot is done, and others wait: the slot holds its program, or is empty. -/
def slotWritten (slot : Nat) (x : SlotLoad) (rest : List SlotLoad) (s : State) : State :=
  updUpd (fun u => { u with
    loading := if rest.isEmpty then Tab.del u.loading slot else Tab.put u.loading slot rest
    programs := Tab.putOpt u.programs slot x.program }) s

/-- The loads that wait for the slot are then the others. -/
theorem slotWritten_loading (slot : Nat) (x : SlotLoad) (rest : List SlotLoad) (s : State) :
    Tab.getD (slotWritten slot x rest s).work.upd.loading slot [] = rest := by
  cases rest <;> simp [slotWritten, updUpd, Tab.getD]

section
variable {slot : Nat} {x : SlotLoad} {rest : List SlotLoad} {s : State} (hf : s.sys.frozen = false)
  (hl : Tab.get? s.work.upd.loading slot = some (x :: rest))
include hf hl

theorem exec_programSlotWrite_inUse (hu : slotInUse s slot = true) : exec (.programSlotWrite slot) s = .next s := by
  show execProgramSlotWrite slot s = _
  simp [execProgramSlotWrite, live_next _ hf, Tab.getD, hl, hu]

theorem exec_programSlotWrite_free (hu : slotInUse s slot = false) :
    exec (.programSlotWrite slot) s = .next (jobEnd (.programLoad slot x.id) .ok 0 (slotWritten slot x rest s)) := by
  show execProgramSlotWrite slot s = _
  obtain ⟨id, ctx, _ | p⟩ := x <;>
    simp [execProgramSlotWrite, live_next _ hf, Tab.getD, hl, hu, slotWritten, Tab.putOpt]

/-- The program of the oldest load stands in the slot, or the slot is empty, and the command that loaded it has ended. -/
theorem programSlotWrite_installs {r : Running} (hu : slotInUse s slot = false) (hr : s.mbx.running = some r)
    (hw : r.wait = .programLoad slot x.id) : Completes (.programSlotWrite slot) s fun t =>
      Tab.getD t.work.upd.loading slot [] = rest ∧ Tab.get? t.work.upd.programs slot = x.program ∧
      (∀ k, k ≠ slot → Tab.get? t.work.upd.programs k = Tab.get? s.work.upd.programs k) ∧
      JobEnds r .ok t ∧ t.tasks = s.tasks ∧ t.mem = s.mem ∧
      t.work = { s.work with upd := { s.work.upd with loading := t.work.upd.loading, programs := t.work.upd.programs } } := by
  refine ⟨_, exec_programSlotWrite_free hf hl hu, ?_⟩
  rw [jobEnd_running .ok 0 (s := slotWritten slot x rest s) hr hw]
  obtain ⟨links, irq, sent, ended⟩ := mbxEnd_frame r.tag .ok (BitVec.ofNat 2048 0) (slotWritten slot x rest s)
  have jobEnds := mbxEnd_jobEnds r .ok (BitVec.ofNat 2048 0) (slotWritten slot x rest s)
  rw [ended] at jobEnds ⊢
  exact ⟨slotWritten_loading slot x rest s, Tab.get?_putOpt_same _ slot _, fun k hk => Tab.get?_putOpt_other _ hk _, jobEnds,
    rfl, rfl, rfl⟩

end

end Sys2Proof.Machine

namespace Sys2Proof

open Sys2Proof.Machine

/-- Settles O33: the outcomes of PROGRAM_LOAD and of its EMPTY form, then PROGRAM_SLOT_WRITE while the slot is in use and after. -/
theorem programSlotsLoad : Obligations.ProgramSlotsLoad := by
  unfold Obligations.ProgramSlotsLoad
  refine ⟨fun m s ho hd => ⟨?load, ?empty⟩, fun slot x rest r s hf hl => ⟨?inUse, ?free⟩⟩
  case load =>
    intro a slot ctx s0 n fields context header image unfenced
    have reads : LoadReads m s0 := ⟨fields, context, header, image, unfenced⟩
    exact ⟨fun p => programLoad_begins ho hd reads, fun p => programLoad_foreign ho reads,
      fun i => programLoad_badProgram ho hd reads⟩
  case empty =>
    intro a fields context
    exact ⟨programEmpty_begins ho fields context hd, programEmpty_foreign ho fields context⟩
  case inUse => exact exec_programSlotWrite_inUse hf hl
  case free => exact programSlotWrite_installs hf hl

end Sys2Proof
end

section
/-! SUPPORT. What a command leaves, where a concrete state is evaluated, and rows that no place keeps in the table of rows. -/

namespace Sys2Proof.Machine

/-- A part of the state that a command leaves, where it answers a next state. -/
def afterwards {α : Type} (part : State → α) (c : Instr) (s : State) : Option α :=
  match exec c s with
  | .next t => some (part t)
  | _ => none

/-- What a command is evaluated to leave is what its next state holds. -/
theorem afterwards_next {α : Type} {part : State → α} {c : Instr} {s t : State} {x : α} (h : exec c s = .next t)
    (hx : afterwards part c s = some x) : part t = x := by
  simpa [afterwards, h] using hx

/-! ### ORCHARD_MAINT on a copy whose row has no backing location (R210, R225) -/

/-- A dirty T0 copy. -/
def dirtyCopy : T0Copy :=
  { cluster := 0, core := 0, line := none, bytes := [3], dirty := true, pinned := false, age := 0, shadow := none }

/-- A READY device with the host port up and context 0. Its table 0 has row 0 in T0, over no place in T1 to T4. -/
def unplacedCopy : State :=
  { sys := { engState := .ready }
    links := { host := { up := true, lanes := 16 } }
    ctxs := [(0, {})]
    work := { tbl := { tables := [(0, {})], rows := [(0, { t0 := some dirtyCopy })] } } }

/-- ORCHARD_MAINT on row 0 of table 0, by context 0: the count of rows is 1. -/
def oneRowCall : MbxCall := { issuer := 0, tag := 7, args := BitVec.ofNat 2048 (2 ^ 128), host := [], defer := false }

/-- With CLEAN the row loses the copy that it is to keep. -/
theorem rowOf_clean_unplacedCopy : afterwards (fun t => rowOf t 0) (.orchardClean oneRowCall) unplacedCopy = some {} := by
  decide +kernel

/-- The command selects the row, and only it. -/
theorem selected_unplacedCopy : (tableRows unplacedCopy (bits (orchArgs 1 oneRowCall) 16 16)).filter (orchSelects (orchArgs 1 oneRowCall)) =
    [(0, { t0 := some dirtyCopy })] := by
  decide +kernel

/-- Nothing keeps the command from acting on the copy at once. -/
theorem ready_unplacedCopy : (rowOf unplacedCopy 0).t0 = some dirtyCopy ∧ rowUp unplacedCopy 0 = true ∧
    (rowOf unplacedCopy 0).committing = false ∧ (rowOf unplacedCopy 0).migrating = false ∧ (rowOf unplacedCopy 0).leaving = false := by
  decide +kernel

/-! ### MOVE_SOURCE_FREE on a row that has no backing location (R210, R238) -/

/-- A row with a stamp, of which nothing but a move that has switched is left. -/
def switchedRow : Row := { stamp := 1, move := some { dest := .device 0, switched := true } }

/-- After reset, with that row under key 0. -/
def unplacedSwitched : State := { work := { tbl := { rows := [(0, switchedRow)] } } }

/-- The row goes with its move, and its stamp with it. -/
theorem rowOf_sourceFree_unplacedSwitched :
    afterwards (fun t => rowOf t 0) (.moveSourceFree 0 0) unplacedSwitched = some {} := by
  decide +kernel

end Sys2Proof.Machine

namespace Sys2Proof

open Sys2Proof.Machine

/-- Refutes O38: the clause of ORCHARD_MAINT on copies that it can act on at once says, of every state, that CLEAN keeps the copy and gives its
bytes to the backing location. A row in no tier, with no delta version, is dropped when it is put (`putRow`), also where it has a T0 copy: here
CLEAN loses row and copy. A row with a T0 copy is meant to have a backing location (R210); the clause lacks that premise,
`(rowOf s k).written = true`. -/
theorem not_placementCommandsAct : ¬ Obligations.PlacementCommandsAct := by
  unfold Obligations.PlacementCommandsAct
  rintro ⟨rows, -⟩
  obtain ⟨maint, -⟩ := rows oneRowCall unplacedCopy ⟨rfl, rfl, rfl⟩ rfl
  obtain ⟨-, served⟩ := maint (1, .orchardClean oneRowCall) List.mem_cons_self
  obtain ⟨-, found⟩ := served (by decide +kernel) (by decide +kernel)
  obtain ⟨-, acts⟩ := found {} (by decide +kernel)
  obtain ⟨atOnce, -⟩ := acts (by decide +kernel)
  obtain ⟨copy, up, commits, migrates, leaves⟩ := ready_unplacedCopy
  obtain ⟨t, ht, -, -, -, -, -, -, rows⟩ := atOnce
    (fun k hk => by
      obtain rfl : k = 0 := by simpa [selected_unplacedCopy] using hk
      exact ⟨by simp [commits, migrates, leaves], fun _ _ => ⟨fun _ => up, fun goes => absurd rfl goes.2.1⟩⟩)
    (fun x hx => absurd hx List.not_mem_nil)
  obtain ⟨cleaned, -⟩ := rows 0 (by simp [selected_unplacedCopy]) dirtyCopy copy
  have kept := cleaned ⟨rfl, .inr (by decide)⟩ (fun goes => goes.2.1 rfl)
  have dropped : rowOf t 0 = {} := afterwards_next ht rowOf_clean_unplacedCopy
  exact absurd (congrArg Row.t0 (dropped.symm.trans kept)) (by simp)

/-- Refutes O40: the clause of MOVE_SOURCE_FREE says, of every state, that the row stays as it was but for its move. A row in no tier, with no
delta version, is kept by its move alone (`putRow`), so it is dropped with the move and loses what else it held: here its stamp. A row that moves
is meant to have a backing location (R210, R237); the clause lacks that premise, `(rowOf s key).written = true`. -/
theorem not_driftMovesRows : ¬ Obligations.DriftMovesRows := by
  unfold Obligations.DriftMovesRows
  intro h
  obtain ⟨-, -, -, moves, -⟩ := h unplacedSwitched rfl
  obtain ⟨-, moving⟩ := moves 0 0
  obtain ⟨-, -, -, -, -, -, sourceFree⟩ := moving { dest := .device 0, switched := true } rfl
  obtain ⟨t, ht, -, row⟩ := sourceFree rfl ⟨rfl, rfl, rfl, rfl⟩
  have dropped : rowOf t 0 = {} := afterwards_next ht rowOf_sourceFree_unplacedSwitched
  exact absurd (congrArg Row.stamp (dropped.symm.trans row)) (by decide)

end Sys2Proof
end

section
/-! SUPPORT. A CXL.mem request that fails its check while the interrupt of fault records is enabled (R394, R395, R411). -/

namespace Sys2Proof.Machine

/-- A READY device with the host port up, whose fault queue is on, with cause FAULT_RECORD enabled and its vector 1 unmasked. Module 0 has exchanged
HELLOs; its HDM decoder begins at 2^40. -/
def interruptsOn : State :=
  { sys := { engState := .ready }
    links := { host := { up := true, lanes := 16 }
               ucie := [(0, { up := true, lanes := 64, helloOk := true, classes := 0x1FF, hdmBase := 2 ^ 40 })] }
    fq := { enable := true }
    irq := { enables := BitVec.ofNat 7 (2 ^ Cause.faultRecord.index), msixEnable := true, msixTable := [(1, { masked := false })] } }

/-- A read below the decoder's base. -/
def strayRead : CxlReq := { tag := 1, addr := 0, write := false, data := [], len := 16 }

/-- The vector of the TRANSLATION record goes out between the credit and MEM_ERROR. -/
theorem sent_strayRead : afterwards State.sent (.cxlMemRequest 0 strayRead) interruptsOn = some
    [.control 0 (creditMsg 1 0 1), .msix 1 0 0, .control 0 (controlMsg 8 0 [(16, 16, 1), (64, 16, 1)])] := by
  decide +kernel

end Sys2Proof.Machine

namespace Sys2Proof

open Sys2Proof.Machine

/-- Refutes O49: the clause of a CXL.mem request that fails its check has MEM_ERROR sent directly after the credit. The request also writes a
TRANSLATION record (R342), and where cause FAULT_RECORD is enabled its vector is sent (R394, R395) before MEM_ERROR: the two messages are sent in
their order, with the interrupt between them. -/
theorem not_portsServeAndLinksChange : ¬ Obligations.PortsServeAndLinksChange := by
  unfold Obligations.PortsServeAndLinksChange
  rintro ⟨cxl, -⟩
  obtain ⟨mem, -⟩ := cxl 0 interruptsOn rfl
  obtain ⟨-, checked⟩ := mem strayRead
  obtain ⟨below, -⟩ := checked (by decide) (by decide)
  obtain ⟨t, ht, -, together, -⟩ := below (by decide)
  have sent := afterwards_next ht sent_strayRead
  rw [sent] at together
  exact absurd together (by decide +kernel)

end Sys2Proof
end

section
/-! SUPPORT. A request for a raw copy that names a JOB of more than twelve bits (R257, R269; log entry 16). -/

namespace Sys2Proof.Machine

/-- A packet of JOB 0 to device 2, with SEQ 0, that is not acknowledged. -/
def keptPacket : SentPkt :=
  { seq := 0, hdr := peerHeader 3 0 2 0 0 0 0 1 true none, payload := zeroBytes 16, raw := zeroBytes 16 }

/-- Device 0 of three, READY, with a link to device 1 on port 0 and one to device 2 on port 1. -/
def betweenTwo : State :=
  { sys := { engState := .ready }
    links := { peers := [(0, { up := true, lanes := 16 }), (1, { up := true, lanes := 16 })] }
    work := { chain := {
      valid := true, size := 3, addr := 0
      links := [linkWord { a := 0, pa := 0, b := 1, pb := 0, width := 16, up := true },
        linkWord { a := 0, pa := 1, b := 2, pb := 0, width := 16, up := true }]
      flows := [(flowKey 2 0, { nextSeq := 1, unacked := [keptPacket] })] } } }

/-- Device 1 asks for the raw copy of SEQ 0 of JOB 4096: the number of that flow is the number of JOB 0 to device 2. -/
def wideJobRequest : PeerPkt :=
  { port := 0, hdr := peerHeader 10 1 0 0 0 0 0 1 true none, payload := ctlBytes .uncoded 0 4096 0 0 [] }

/-- The acknowledgement goes to device 1, and the packet kept goes to device 2. -/
theorem sent_wideJobRequest : afterwards State.sent (.uncodedResendRequest wideJobRequest) betweenTwo = some
    [.peer 0 (peerHeader 11 0 1 0 0 0 0 0 true none) [], .peer 1 keptPacket.hdr keptPacket.raw] := by
  decide +kernel

theorem wideJobRequest_taken : CtlTaken .uncoded wideJobRequest betweenTwo wideJobRequest.payload := by
  unfold CtlTaken PeerTaken
  decide +kernel

end Sys2Proof.Machine

namespace Sys2Proof

open Sys2Proof.Machine

/-- Refutes O50: the clause of a request for a raw copy has the packet sent on the route to the device that asks. The request names the JOB of the
flow in 16 bits (log entry 16), and a JOB has twelve (R265): with JOB 4096 the number of the flow is that of JOB 0 to the next device, and the
packet kept for that device is sent on its route. The clause lacks the premise that the JOB is below 4096. -/
theorem not_peerPacketsFollowTheirFlow : ¬ Obligations.PeerPacketsFollowTheirFlow := by
  unfold Obligations.PeerPacketsFollowTheirFlow
  intro h
  obtain ⟨-, -, notices, -⟩ := h wideJobRequest betweenTwo rfl
  obtain ⟨-, uncoded⟩ := notices wideJobRequest.payload
  obtain ⟨-, resent⟩ := uncoded wideJobRequest_taken
  obtain ⟨t, ht, again, -⟩ := resent { nextSeq := 1, unacked := [keptPacket] } keptPacket 0 (by decide +kernel) (by decide +kernel)
    (by decide +kernel)
  rw [afterwards_next ht sent_wideJobRequest] at again
  exact absurd again (by decide +kernel)

end Sys2Proof
end

section
/-! SUPPORT. A token offer that a device with an address refuses (R260): what it leaves of the ports that the device has used. -/

namespace Sys2Proof.Machine

/-- A READY device with address 1, in the enumeration of epoch 0, which took the token on port 0. Port 4 is up and has not been used. -/
def addressedDevice : State :=
  { sys := { engState := .ready }
    links := { peers := [(0, { up := true, lanes := 16 }), (4, { up := true, lanes := 16 })] }
    work := { chain := { addr := 1, enumStatus := 1, nextAddr := 2, parent := some 0, usedPorts := [0] } } }

/-- Address 2 is offered on port 4 in the same enumeration: the device refuses, and port 4 still counts as not used. -/
theorem usedPorts_crossOffer :
    afterwards (fun t => t.work.chain.usedPorts) (.enumTokenOffer 4 false 2 0) addressedDevice = some [0] := by
  decide +kernel

end Sys2Proof.Machine

namespace Sys2Proof

open Sys2Proof.Machine

/-- Refutes O44: the clause of a token offer to a device that has an address of this enumeration has the port added to the ports used. The device
only refuses, and leaves the chain part of its state as it was, so that it offers the token on its own end of the cross link too, as step 6 of the
manual's example after R264 has it: the neighbour refuses, and the link is recorded already. The clause would have to say
`t.work.chain = s.work.chain`. -/
theorem not_enumerationFindsChain : ¬ Obligations.EnumerationFindsChain := by
  unfold Obligations.EnumerationFindsChain
  rintro ⟨-, enumeration⟩
  obtain ⟨offers, -⟩ := enumeration addressedDevice rfl
  obtain ⟨-, -, addressable⟩ := offers 4 false 2 0
  obtain ⟨-, refuses, -⟩ := addressable rfl rfl
  obtain ⟨t, ht, -, chain, -⟩ := refuses (by decide) ⟨.inl rfl, rfl⟩
  have marked : t.work.chain.usedPorts = [0, 4] := congrArg Chain.usedPorts chain
  have unmarked : t.work.chain.usedPorts = [0] := afterwards_next ht usedPorts_crossOffer
  exact absurd (marked.symm.trans unmarked) (by decide)

end Sys2Proof
end

section
/-! SUPPORT. A REDUCE for whose job a COMBINER_DONE has been withheld (R279, R280; log entry 61). -/

namespace Sys2Proof.Machine

/-- A COMBINER_DONE of job 0 from device 1 to device 0, which tells that the receiver's configuration differs. -/
def mismatchTold : PeerPkt :=
  { port := 0, hdr := peerHeader 6 1 0 0 0 0 0 1 true none, payload := combinerDoneBytes false true }

/-- The REDUCE of SEQ 0 on queue 0: SOURCE is SCATTER, RANKS names devices 0 and 1, DEADLINE_US is 10, and there is no residual buffer. -/
def reduceTask : Task :=
  { ttype := .reduce, typeCode := 3, part := toBytes 128 (packFields [(16, 16, 3), (144, 32, 10)]) }

/-- Device 0 of two, READY, with that REDUCE queued and no job open. -/
def reduceQueued : State :=
  { sys := { engState := .ready }
    links := { peers := [(0, { up := true, lanes := 16 })] }
    ctxs := [(0, {})]
    queues := [(0, {})]
    tasks := [(tid 0 0, reduceTask)]
    work := { chain := {
      valid := true, size := 2, addr := 0
      links := [linkWord { a := 0, pa := 0, b := 1, pb := 0, width := 16, up := true }] } } }

/-- The same with the COMBINER_DONE withheld. -/
def toldBeforeOpen : State := updChain (fun c => { c with withheld := [mismatchTold] }) reduceQueued

/-- That is how the packet leaves the device where it comes before the job is open. -/
theorem combinerDone_reduceQueued : afterwards id (.combinerDone mismatchTold) reduceQueued = some toldBeforeOpen := by
  decide +kernel

/-- The REDUCE may be admitted, and none of its checks fails. -/
theorem admissible_reduceTask : admissible toldBeforeOpen 0 0 = some reduceTask ∧
    rdFault toldBeforeOpen reduceTask (rdJob reduceTask) (partBits reduceTask 0 12) = none := by
  decide +kernel

/-- The job opens, the COMBINER_DONE is taken, and the REDUCE has failed by the end of its admission. -/
theorem reduce_toldBeforeOpen : afterwards (fun t => (task? t 0 0).map fun y => (y.state, y.status)) (.reduce 0 0) toldBeforeOpen =
    some (some (.failed, .jobConfigMismatch)) := by
  decide +kernel

end Sys2Proof.Machine

namespace Sys2Proof

open Sys2Proof.Machine

/-- Refutes O47: the clause of a REDUCE whose checks hold says, of every state, that the task is ACTIVE after its admission. As the job opens it
takes the packets that were withheld for it (log entry 61); a COMBINER_DONE among them which tells that this device's configuration differs ends the
REDUCE at once with JOB_CONFIG_MISMATCH (R280). The clause lacks the premise that no packet of the job is withheld. -/
theorem not_jobsReduceBuckets : ¬ Obligations.JobsReduceBuckets := by
  unfold Obligations.JobsReduceBuckets
  rintro ⟨tasks, -⟩
  obtain ⟨admitted, checked⟩ := admissible_reduceTask
  obtain ⟨reduce, -⟩ := tasks 0 0 reduceTask toldBeforeOpen rfl rfl admitted rfl rfl rfl
  obtain ⟨-, -, opens, -⟩ := reduce rfl
  obtain ⟨t, ht, ⟨y, task, active, -⟩, -⟩ := opens checked (by decide +kernel) (by decide +kernel)
  have failed : (task? t 0 0).map (fun y => (y.state, y.status)) = some (.failed, .jobConfigMismatch) :=
    afterwards_next ht reduce_toldBeforeOpen
  rw [task, Option.map_some, active] at failed
  exact absurd failed (by simp)

end Sys2Proof
end
